-- ==== Sys2Proof/Word.lean ====
section
/-! DEFINITION. The words, bit numbering and plain enumerations that every other file shares
(spec 00_scope R4-R6, 02_encoding R35, R37, R39, 03_numbers R61). -/

namespace Sys2Proof

/-- A byte. -/
abbrev Byte := BitVec 8
/-- An element value or a 32-bit word (R4). -/
abbrev W32 := BitVec 32
/-- A memory word's 64 data bits, or a Pommel register (R4, R40). -/
abbrev W64 := BitVec 64

/-- The type codes of R61, in code order. -/
inductive Ty where
  | untyped | i32 | n32 | i16 | n16 | i8 | n8 | i4 | n4
  | fp32 | fp19 | bf16 | fp16 | fp8e4 | fp8e5 | fp6e3 | fp6e2 | fp4e2
  | mx8e4 | mx8e5 | mx6e3 | mx6e2 | mx4e2 | mxi8 | fb4 | gi4
  | vq4b | vq4f | hdl | ctl | fib | reserved
  deriving DecidableEq, Repr, Inhabited

/-- The rounding modes of R66; `dyn` is resolved before rounding (R67). -/
inductive RM where
  | rne | rtz | rdn | rup | rna | rsr
  deriving DecidableEq, Repr

/-- Field edges of an element: the four neighbours (R16). -/
inductive Dir where
  | n | e | s | w
  deriving DecidableEq, Repr

/-- The three engine queues of an element (R17, R19). -/
inductive Queue where
  | c | m | s
  deriving DecidableEq, Repr

/-- A route word (R37): source codes, destination mask and token mode. -/
structure Route where
  a : BitVec 4 := 0
  b : BitVec 4 := 0
  n : Bool := false
  e : Bool := false
  s : Bool := false
  w : Bool := false
  reg : Bool := false
  ctl : Bool := false
  mode : BitVec 2 := 0
  deriving DecidableEq, Repr

/-- A register-address word (R39). -/
structure RegWord where
  ra : BitVec 5 := 0
  rb : BitVec 5 := 0
  rd : BitVec 5 := 0
  we : Bool := false
  deriving DecidableEq, Repr

/-- The two ring words that a row pairs with its op word (R21, R39). -/
structure Wires where
  route : Route := {}
  reg : RegWord := {}
  deriving DecidableEq, Repr

/-- An element by field number 60y + x (R15). -/
abbrev ElemId := Nat

/-- A context slot number, 0-3 (R25). -/
abbrev Ctx := Fin 4

/-- A lane of an element and slot: data lanes N0 N1 E0 E1 S0 S1 W0 W1 are 0-7, control lanes N E S W 8-11,
P0 12, P1 13, MD 14, TR 15 (R338). -/
abbrev LaneNo := Fin 16

/-- Outcome of the built-in self-test of a fabric die (R14): no failed element, the hot spare standing in for the element
with the given field number, or more failures than the spare can stand in for. -/
inductive SelfTest where
  | good
  | replaced (e : ElemId)
  | failed
  deriving DecidableEq, Repr

/-- A host command record after its command code (R131): tag, payload length, payload host address, 48 inline bytes. -/
structure Cmd where
  tag : BitVec 16 := 0
  len : BitVec 32 := 0
  addr : W64 := 0
  inl : List Byte := []
  deriving DecidableEq, Repr

/-- What crosses Beryl (R211, R212, R214, R355, R380): a mirror copy, as its beginning, its words (number, bytes, poison) and its end with
length and CRC; a word of a job's XFER with its poison and final F; the refusal of such a word; a heartbeat. -/
inductive Flit where
  | mirrorBegin (slot : Nat) (cut : W32)
  | mirrorWord (slot : Nat) (cut : W32) (i : Nat) (word : List Byte) (poison : Bool)
  | mirrorEnd (slot : Nat) (cut : W32) (socket x y len : Nat) (crc : W32)
  | xfer (job va : Nat) (word : W64) (poison full : Bool)
  | refusal (job va : Nat)
  | heartbeat (seq : W32) (state : Nat) (ctr : W64)
  deriving DecidableEq, Repr

/-- A sensor frame at an ingress port (R376, R377): payload, receive error, and the PTP stamps (seconds, nanoseconds)
of its first and last line, each absent when the stamp is not valid. -/
structure Frame where
  payload : List Byte
  rxErr : Bool := false
  first : Option (Nat × Nat) := none
  last : Option (Nat × Nat) := none
  deriving DecidableEq, Repr

/-- A bit as a word of any width. -/
def bit (w : Nat) (b : Bool) : BitVec w := if b then 1 else 0

/-- Bits [lo + len - 1 : lo] of a natural number. -/
def bits (x lo len : Nat) : Nat := x / 2 ^ lo % 2 ^ len

/-- The little-endian bytes of a number, `k` of them (R5). -/
def leBytes : Nat → Nat → List Byte
  | 0, _ => []
  | k + 1, x => BitVec.ofNat 8 x :: leBytes k (x / 256)

/-- The number whose little-endian bytes are given (R5). -/
def ofLE : List Byte → Nat
  | [] => 0
  | b :: bs => b.toNat + 256 * ofLE bs

end Sys2Proof
end

