-- ==== Sys2Proof/Syntax.lean ====
section
/-! DEFINITION. The instructions and steps of the part: one constructor for each row of the opcode table (spec
02_encoding R34-R45, 95_what_each_step_holds). An element row carries the fields of its op word, named by the letters of
the table, and its route and register-address words (R21). A task-core instruction carries the fields of its word. A step
without bits carries what it acts on. -/

namespace Sys2Proof

/-- The indivisible steps of the part. -/
inductive Instr where
  /-- NOP (R93). -/
  | nop (t : BitVec 1) (wr : Wires)
  /-- ADD (R93). -/
  | add (t : BitVec 1) (i : BitVec 10) (wr : Wires)
  /-- SUB (R93). -/
  | sub (t : BitVec 1) (i : BitVec 10) (wr : Wires)
  /-- ADDI (R93). -/
  | addi (t : BitVec 1) (i : BitVec 10) (wr : Wires)
  /-- MUL (R93). -/
  | mul (t : BitVec 1) (i : BitVec 10) (wr : Wires)
  /-- MULH (R93). -/
  | mulh (t : BitVec 1) (i : BitVec 10) (wr : Wires)
  /-- MULHN (R93). -/
  | mulhn (t : BitVec 1) (i : BitVec 10) (wr : Wires)
  /-- MIN (R93). -/
  | min (t : BitVec 1) (i : BitVec 10) (wr : Wires)
  /-- MAX (R93). -/
  | max (t : BitVec 1) (i : BitVec 10) (wr : Wires)
  /-- MINN (R93). -/
  | minn (t : BitVec 1) (i : BitVec 10) (wr : Wires)
  /-- MAXN (R93). -/
  | maxn (t : BitVec 1) (i : BitVec 10) (wr : Wires)
  /-- ABS (R93). -/
  | abs (t : BitVec 1) (i : BitVec 10) (wr : Wires)
  /-- NEG (R93). -/
  | neg (t : BitVec 1) (i : BitVec 10) (wr : Wires)
  /-- AND (R93). -/
  | and (t : BitVec 1) (i : BitVec 10) (wr : Wires)
  /-- OR (R93). -/
  | or (t : BitVec 1) (i : BitVec 10) (wr : Wires)
  /-- XOR (R93). -/
  | xor (t : BitVec 1) (i : BitVec 10) (wr : Wires)
  /-- ANDN (R93). -/
  | andn (t : BitVec 1) (i : BitVec 10) (wr : Wires)
  /-- NOT (R93). -/
  | not (t : BitVec 1) (i : BitVec 10) (wr : Wires)
  /-- SHL (R93). -/
  | shl (t : BitVec 1) (i : BitVec 10) (wr : Wires)
  /-- SHR (R93). -/
  | shr (t : BitVec 1) (i : BitVec 10) (wr : Wires)
  /-- SHA (R93). -/
  | sha (t : BitVec 1) (i : BitVec 10) (wr : Wires)
  /-- ROT (R93). -/
  | rot (t : BitVec 1) (i : BitVec 10) (wr : Wires)
  /-- CLZ (R93). -/
  | clz (t : BitVec 1) (i : BitVec 10) (wr : Wires)
  /-- POPC (R93). -/
  | popc (t : BitVec 1) (i : BitVec 10) (wr : Wires)
  /-- SEL (R93). -/
  | sel (t : BitVec 1) (i : BitVec 10) (wr : Wires)
  /-- CMPEQ (R93). -/
  | cmpeq (t : BitVec 1) (i : BitVec 10) (wr : Wires)
  /-- CMPNE (R93). -/
  | cmpne (t : BitVec 1) (i : BitVec 10) (wr : Wires)
  /-- CMPLT (R93). -/
  | cmplt (t : BitVec 1) (i : BitVec 10) (wr : Wires)
  /-- CMPLE (R93). -/
  | cmple (t : BitVec 1) (i : BitVec 10) (wr : Wires)
  /-- CMPLTN (R93). -/
  | cmpltn (t : BitVec 1) (i : BitVec 10) (wr : Wires)
  /-- CMPLEN (R93). -/
  | cmplen (t : BitVec 1) (i : BitVec 10) (wr : Wires)
  /-- MOVI (R93). -/
  | movi (i : BitVec 16) (wr : Wires)
  /-- MOVHI (R93). -/
  | movhi (i : BitVec 16) (wr : Wires)
  /-- MOV (R90). -/
  | mov (t : BitVec 1) (i : BitVec 9) (wr : Wires)
  /-- MOV_SPECIAL_READ (R90). -/
  | movSpecialRead (t : BitVec 1) (s : BitVec 1) (wr : Wires)
  /-- MOV_SPECIAL_WRITE (R90). -/
  | movSpecialWrite (t : BitVec 1) (s : BitVec 1) (wr : Wires)
  /-- SEXT (R93). -/
  | sext (t : BitVec 1) (i : BitVec 10) (wr : Wires)
  /-- BFX (R93). -/
  | bfx (t : BitVec 1) (i : BitVec 10) (wr : Wires)
  /-- BFI (R93). -/
  | bfi (t : BitVec 1) (i : BitVec 10) (wr : Wires)
  /-- ADDS (R93). -/
  | adds (t : BitVec 1) (i : BitVec 10) (wr : Wires)
  /-- SUBS (R93). -/
  | subs (t : BitVec 1) (i : BitVec 10) (wr : Wires)
  /-- FADD (R96). -/
  | fadd (r : BitVec 3) (t : BitVec 1) (wr : Wires)
  /-- FSUB (R96). -/
  | fsub (r : BitVec 3) (t : BitVec 1) (wr : Wires)
  /-- FMUL (R96). -/
  | fmul (r : BitVec 3) (t : BitVec 1) (wr : Wires)
  /-- FMA (R96). -/
  | fma (r : BitVec 3) (t : BitVec 1) (wr : Wires)
  /-- FMS (R96). -/
  | fms (r : BitVec 3) (t : BitVec 1) (wr : Wires)
  /-- FNMA (R96). -/
  | fnma (r : BitVec 3) (t : BitVec 1) (wr : Wires)
  /-- FMIN (R97). -/
  | fmin (t : BitVec 1) (wr : Wires)
  /-- FMAX (R97). -/
  | fmax (t : BitVec 1) (wr : Wires)
  /-- FABS (R97). -/
  | fabs (t : BitVec 1) (wr : Wires)
  /-- FNEG (R97). -/
  | fneg (t : BitVec 1) (wr : Wires)
  /-- FCMPEQ (R98). -/
  | fcmpeq (t : BitVec 1) (wr : Wires)
  /-- FCMPLT (R98). -/
  | fcmplt (t : BitVec 1) (wr : Wires)
  /-- FCMPLE (R98). -/
  | fcmple (t : BitVec 1) (wr : Wires)
  /-- FCMPUN (R98). -/
  | fcmpun (t : BitVec 1) (wr : Wires)
  /-- FCVT (R99). -/
  | fcvt (r : BitVec 3) (s : BitVec 1) (t : BitVec 1) (wr : Wires)
  /-- FCLASS (R99). -/
  | fclass (t : BitVec 1) (wr : Wires)
  /-- FRND (R99). -/
  | frnd (r : BitVec 3) (t : BitVec 1) (wr : Wires)
  /-- FTOI (R99). -/
  | ftoi (r : BitVec 3) (s : BitVec 1) (t : BitVec 1) (wr : Wires)
  /-- ITOF (R99). -/
  | itof (r : BitVec 3) (t : BitVec 1) (wr : Wires)
  /-- FSCALE (R100). -/
  | fscale (r : BitVec 3) (t : BitVec 1) (wr : Wires)
  /-- FDOT2 (R96). -/
  | fdot2 (r : BitVec 3) (t : BitVec 1) (wr : Wires)
  /-- FEXPN (R100). -/
  | fexpn (t : BitVec 1) (wr : Wires)
  /-- FMANT (R100). -/
  | fmant (t : BitVec 1) (wr : Wires)
  /-- QNT (R101). -/
  | qnt (r : BitVec 3) (s : BitVec 1) (t : BitVec 1) (m : BitVec 2) (e : BitVec 4) (wr : Wires)
  /-- DQNT (R102). -/
  | dqnt (r : BitVec 3) (t : BitVec 1) (wr : Wires)
  /-- LUT (R105). -/
  | lut (r : BitVec 3) (t : BitVec 1) (k : BitVec 2) (wr : Wires)
  /-- LUTIX (R104). -/
  | lutix (t : BitVec 1) (m : BitVec 2) (s : BitVec 5) (wr : Wires)
  /-- RREDF (R106). -/
  | rredf (t : BitVec 1) (wr : Wires)
  /-- RREDN (R106). -/
  | rredn (t : BitVec 1) (wr : Wires)
  /-- REXP (R106). -/
  | rexp (r : BitVec 3) (t : BitVec 1) (wr : Wires)
  /-- LUTSEL (R105). -/
  | lutsel (r : BitVec 3) (t : BitVec 1) (wr : Wires)
  /-- STEER (R152). -/
  | steer (c : BitVec 4) (o : BitVec 4) (m : BitVec 4) (wr : Wires)
  /-- MERGE (R153). -/
  | merge (c : BitVec 4) (o : BitVec 4) (wr : Wires)
  /-- MERGEA (R154). -/
  | mergea (o : BitVec 4) (wr : Wires)
  /-- GATE (R155). -/
  | gate (c : BitVec 4) (o : BitVec 4) (m : BitVec 1) (wr : Wires)
  /-- DROP (R155). -/
  | drop (c : BitVec 4) (o : BitVec 4) (m : BitVec 1) (wr : Wires)
  /-- CEMIT (R156). -/
  | cemit (c : BitVec 4) (o : BitVec 4) (m : BitVec 1) (wr : Wires)
  /-- CTEST (R156). -/
  | ctest (o : BitVec 4) (m : BitVec 8) (wr : Wires)
  /-- CAND (R157). -/
  | cand (c : BitVec 4) (o : BitVec 4) (m : BitVec 3) (wr : Wires)
  /-- COR (R157). -/
  | cor (c : BitVec 4) (o : BitVec 4) (m : BitVec 3) (wr : Wires)
  /-- CNOT (R157). -/
  | cnot (c : BitVec 4) (o : BitVec 4) (wr : Wires)
  /-- EOSE (R158). -/
  | eose (c : BitVec 4) (m : BitVec 1) (wr : Wires)
  /-- EOSQ (R158). -/
  | eosq (o : BitVec 4) (m : BitVec 1) (wr : Wires)
  /-- CNTI (R159). -/
  | cnti (m : BitVec 2) (wr : Wires)
  /-- CNTS (R159). -/
  | cnts (c : BitVec 4) (o : BitVec 4) (m : BitVec 3) (wr : Wires)
  /-- CNTL (R159). -/
  | cntl (m : BitVec 3) (wr : Wires)
  /-- PHASE (R160). -/
  | phase (c : BitVec 4) (m : BitVec 3) (wr : Wires)
  /-- CTXP (R160). -/
  | ctxp (c : BitVec 4) (m : BitVec 2) (wr : Wires)
  /-- ROWQ (R161). -/
  | rowq (m : BitVec 2) (wr : Wires)
  /-- IOFQ (R161). -/
  | iofq (m : BitVec 2) (wr : Wires)
  /-- FRMQ (R161). -/
  | frmq (m : BitVec 3) (wr : Wires)
  /-- DLY (R162). -/
  | dly (m : BitVec 4) (wr : Wires)
  /-- ARMX (R163). -/
  | armx (c : BitVec 4) (o : BitVec 4) (m : BitVec 3) (wr : Wires)
  /-- TALLOC (R173). -/
  | talloc (b : BitVec 6) (w : BitVec 1) (s : BitVec 1) (q : BitVec 2) (wr : Wires)
  /-- TFREE (R174). -/
  | tfree (w : BitVec 1) (s : BitVec 1) (q : BitVec 2) (wr : Wires)
  /-- TQRY (R175). -/
  | tqry (w : BitVec 1) (s : BitVec 1) (q : BitVec 2) (v : BitVec 2) (u : BitVec 4) (wr : Wires)
  /-- LDT (R178). -/
  | ldt (w : BitVec 4) (z : BitVec 2) (x : BitVec 1) (t : BitVec 1) (p : BitVec 1) (i : BitVec 7) (wr : Wires)
  /-- STT (R178). -/
  | stt (w : BitVec 4) (z : BitVec 2) (t : BitVec 1) (p : BitVec 1) (i : BitVec 7) (wr : Wires)
  /-- LDTS (R178). -/
  | ldts (w : BitVec 4) (z : BitVec 2) (x : BitVec 1) (t : BitVec 1) (p : BitVec 1) (i : BitVec 7) (wr : Wires)
  /-- STTF (R178). -/
  | sttf (w : BitVec 4) (z : BitVec 2) (t : BitVec 1) (p : BitVec 1) (i : BitVec 7) (wr : Wires)
  /-- LDTE (R178). -/
  | ldte (w : BitVec 4) (z : BitVec 2) (x : BitVec 1) (t : BitVec 1) (p : BitVec 1) (i : BitVec 7) (wr : Wires)
  /-- FESET (R178). -/
  | feset (w : BitVec 4) (z : BitVec 2) (t : BitVec 1) (p : BitVec 1) (i : BitVec 7) (wr : Wires)
  /-- FEQ (R178). -/
  | feq (w : BitVec 4) (z : BitVec 2) (t : BitVec 1) (p : BitVec 1) (i : BitVec 7) (wr : Wires)
  /-- TCOPY (R180). -/
  | tcopy (b : BitVec 6) (w : BitVec 1) (s : BitVec 1) (q : BitVec 2) (wr : Wires)
  /-- TFILL (R180). -/
  | tfill (b : BitVec 6) (w : BitVec 1) (s : BitVec 1) (q : BitVec 2) (wr : Wires)
  /-- TLEVEL (R176). -/
  | tlevel (w : BitVec 1) (s : BitVec 1) (q : BitVec 2) (v : BitVec 2) (u : BitVec 4) (wr : Wires)
  /-- GLD (R191). -/
  | gld (w : BitVec 4) (z : BitVec 2) (x : BitVec 1) (t : BitVec 1) (p : BitVec 1) (i : BitVec 7) (wr : Wires)
  /-- GST (R191). -/
  | gst (w : BitVec 4) (z : BitVec 2) (t : BitVec 1) (p : BitVec 1) (i : BitVec 7) (wr : Wires)
  /-- GLDS (R191). -/
  | glds (w : BitVec 4) (z : BitVec 2) (x : BitVec 1) (t : BitVec 1) (p : BitVec 1) (i : BitVec 7) (wr : Wires)
  /-- GSTF (R191). -/
  | gstf (w : BitVec 4) (z : BitVec 2) (t : BitVec 1) (p : BitVec 1) (i : BitVec 7) (wr : Wires)
  /-- STRMI (R197). -/
  | strmi (b : BitVec 6) (w : BitVec 1) (s : BitVec 1) (q : BitVec 2) (u : BitVec 4) (wr : Wires)
  /-- STRMO (R197). -/
  | strmo (b : BitVec 6) (w : BitVec 1) (s : BitVec 1) (q : BitVec 2) (u : BitVec 4) (wr : Wires)
  /-- GATH (R197). -/
  | gath (b : BitVec 6) (w : BitVec 1) (s : BitVec 1) (q : BitVec 2) (u : BitVec 4) (wr : Wires)
  /-- SCAT (R197). -/
  | scat (b : BitVec 6) (w : BitVec 1) (s : BitVec 1) (q : BitVec 2) (u : BitVec 4) (wr : Wires)
  /-- SPRG (R204). -/
  | sprg (w : BitVec 1) (s : BitVec 1) (q : BitVec 2) (v : BitVec 2) (u : BitVec 4) (wr : Wires)
  /-- SABT (R204). -/
  | sabt (w : BitVec 1) (s : BitVec 1) (q : BitVec 2) (v : BitVec 2) (wr : Wires)
  /-- SRES (R204). -/
  | sres (w : BitVec 1) (s : BitVec 1) (q : BitVec 2) (v : BitVec 2) (wr : Wires)
  /-- AADD (R230). -/
  | aadd (w : BitVec 4) (z : BitVec 1) (t : BitVec 1) (p : BitVec 1) (i : BitVec 7) (wr : Wires)
  /-- AMIN (R230). -/
  | amin (w : BitVec 4) (z : BitVec 1) (t : BitVec 1) (p : BitVec 1) (i : BitVec 7) (wr : Wires)
  /-- AMAX (R230). -/
  | amax (w : BitVec 4) (z : BitVec 1) (t : BitVec 1) (p : BitVec 1) (i : BitVec 7) (wr : Wires)
  /-- AAND (R230). -/
  | aand (w : BitVec 4) (z : BitVec 1) (t : BitVec 1) (p : BitVec 1) (i : BitVec 7) (wr : Wires)
  /-- AOR (R230). -/
  | aor (w : BitVec 4) (z : BitVec 1) (t : BitVec 1) (p : BitVec 1) (i : BitVec 7) (wr : Wires)
  /-- AXCH (R230). -/
  | axch (w : BitVec 4) (z : BitVec 1) (t : BitVec 1) (p : BitVec 1) (i : BitVec 7) (wr : Wires)
  /-- ACAS (R230). -/
  | acas (w : BitVec 4) (z : BitVec 1) (t : BitVec 1) (p : BitVec 1) (i : BitVec 7) (wr : Wires)
  /-- AFADD (R230). -/
  | afadd (w : BitVec 4) (t : BitVec 1) (p : BitVec 1) (i : BitVec 7) (wr : Wires)
  /-- FENCE (R232). -/
  | fence (u : BitVec 4) (wr : Wires)
  /-- RELS (R233). -/
  | rels (wr : Wires)
  /-- ACQS (R233). -/
  | acqs (wr : Wires)
  /-- XFER (R211). -/
  | xfer (b : BitVec 6) (w : BitVec 1) (s : BitVec 1) (q : BitVec 2) (wr : Wires)
  /-- MIRR (R212). -/
  | mirr (b : BitVec 6) (w : BitVec 1) (s : BitVec 1) (q : BitVec 2) (wr : Wires)
  /-- COLL (R240). -/
  | coll (b : BitVec 6) (w : BitVec 1) (s : BitVec 1) (q : BitVec 2) (wr : Wires)
  /-- MMA (R255). -/
  | mma (b : BitVec 6) (w : BitVec 1) (s : BitVec 1) (q : BitVec 2) (wr : Wires)
  /-- MMAS (R257). -/
  | mmas (b : BitVec 6) (w : BitVec 1) (s : BitVec 1) (q : BitVec 2) (wr : Wires)
  /-- MMAV (R255). -/
  | mmav (b : BitVec 6) (w : BitVec 1) (s : BitVec 1) (q : BitVec 2) (wr : Wires)
  /-- MMAB (R255). -/
  | mmab (b : BitVec 6) (w : BitVec 1) (s : BitVec 1) (q : BitVec 2) (wr : Wires)
  /-- MACC (R258). -/
  | macc (b : BitVec 6) (w : BitVec 1) (s : BitVec 1) (q : BitVec 2) (u : BitVec 4) (wr : Wires)
  /-- MDRN (R259). -/
  | mdrn (b : BitVec 6) (w : BitVec 1) (s : BitVec 1) (q : BitVec 2) (v : BitVec 2) (wr : Wires)
  /-- MPRG (R260). -/
  | mprg (u : BitVec 4) (wr : Wires)
  /-- MRES (R260). -/
  | mres (wr : Wires)
  /-- MABT (R260). -/
  | mabt (wr : Wires)
  /-- MSHP (R264). -/
  | mshp (w : BitVec 1) (s : BitVec 1) (q : BitVec 2) (wr : Wires)
  /-- XLD (R275). -/
  | xld (b : BitVec 6) (w : BitVec 1) (s : BitVec 1) (q : BitVec 2) (v : BitVec 2) (u : BitVec 4) (wr : Wires)
  /-- XST (R276). -/
  | xst (b : BitVec 6) (w : BitVec 1) (s : BitVec 1) (q : BitVec 2) (wr : Wires)
  /-- CBLD (R281). -/
  | cbld (b : BitVec 6) (w : BitVec 1) (s : BitVec 1) (q : BitVec 2) (u : BitVec 3) (wr : Wires)
  /-- VQX (R281). -/
  | vqx (w : BitVec 1) (s : BitVec 1) (q : BitVec 2) (v : BitVec 2) (u : BitVec 3) (wr : Wires)
  /-- COMPM (R286). -/
  | compm (b : BitVec 6) (w : BitVec 1) (s : BitVec 1) (q : BitVec 2) (wr : Wires)
  /-- EXPDM (R286). -/
  | expdm (b : BitVec 6) (w : BitVec 1) (s : BitVec 1) (q : BitVec 2) (wr : Wires)
  /-- FIBP (R282). -/
  | fibp (b : BitVec 6) (w : BitVec 1) (s : BitVec 1) (q : BitVec 2) (wr : Wires)
  /-- FIBU (R282). -/
  | fibu (b : BitVec 6) (w : BitVec 1) (s : BitVec 1) (q : BitVec 2) (wr : Wires)
  /-- ISECT (R284). -/
  | isect (b : BitVec 6) (w : BitVec 1) (s : BitVec 1) (q : BitVec 2) (u : BitVec 4) (wr : Wires)
  /-- DCMPJ (R288). -/
  | dcmpj (b : BitVec 6) (w : BitVec 1) (s : BitVec 1) (q : BitVec 2) (wr : Wires)
  /-- DCMPQ (R293). -/
  | dcmpq (w : BitVec 1) (s : BitVec 1) (q : BitVec 2) (v : BitVec 2) (u : BitVec 4) (wr : Wires)
  /-- LZCP (R294). -/
  | lzcp (b : BitVec 6) (w : BitVec 1) (s : BitVec 1) (q : BitVec 2) (u : BitVec 4) (wr : Wires)
  /-- LAYW (R269). -/
  | layw (b : BitVec 6) (wr : Wires)
  /-- LAYR (R269). -/
  | layr (b : BitVec 6) (v : BitVec 2) (wr : Wires)
  /-- TRNS (R279). -/
  | trns (b : BitVec 6) (w : BitVec 1) (s : BitVec 1) (q : BitVec 2) (wr : Wires)
  /-- REDX (R278). -/
  | redx (b : BitVec 6) (w : BitVec 1) (s : BitVec 1) (q : BitVec 2) (wr : Wires)
  /-- CINIT (R236). -/
  | cinit (b : BitVec 6) (wr : Wires)
  /-- CARR (R237). -/
  | carr (b : BitVec 6) (v : BitVec 2) (wr : Wires)
  /-- CEXPB (R238). -/
  | cexpb (b : BitVec 6) (wr : Wires)
  /-- CQRY (R236). -/
  | cqry (b : BitVec 6) (u : BitVec 4) (wr : Wires)
  /-- CDROP (R236). -/
  | cdrop (b : BitVec 6) (wr : Wires)
  /-- TAPEB (R312). -/
  | tapeb (b : BitVec 6) (wr : Wires)
  /-- TAPEE (R313). -/
  | tapee (wr : Wires)
  /-- TAPEV (R314). -/
  | tapev (b : BitVec 6) (v : BitVec 1) (wr : Wires)
  /-- TAPER (R315). -/
  | taper (b : BitVec 6) (wr : Wires)
  /-- TAPEP (R316). -/
  | tapep (b : BitVec 6) (wr : Wires)
  /-- TAPEC (R317). -/
  | tapec (wr : Wires)
  /-- TAPEQ (R318). -/
  | tapeq (u : BitVec 4) (wr : Wires)
  /-- TAPEK (R319). -/
  | tapek (b : BitVec 6) (wr : Wires)
  /-- MARK (R361). -/
  | mark (wr : Wires)
  /-- SNAPQ (R361). -/
  | snapq (u : BitVec 4) (wr : Wires)
  /-- RTAG (R370). -/
  | rtag (wr : Wires)
  /-- POISN (R356). -/
  | poisn (u : BitVec 4) (wr : Wires)
  /-- POISQ (R356). -/
  | poisq (wr : Wires)
  /-- VERD (R370). -/
  | verd (u : BitVec 4) (wr : Wires)
  /-- CMPV (R368). -/
  | cmpv (b : BitVec 6) (wr : Wires)
  /-- POWER_UP (R133). -/
  | powerUp (helper : Bool) (outcomes : List SelfTest)
  /-- TIMER_COMPARE (R124). -/
  | timerCompare (slot : BitVec 4)
  /-- CRYPTO_COMPLETION (R125). -/
  | cryptoCompletion (job : Nat)
  /-- THROTTLE_LEVEL_APPLY (R129). -/
  | throttleLevelApply (die : Nat)
  /-- LINK_TOKEN_ARRIVAL (R137). -/
  | linkTokenArrival (e : ElemId) (c : Ctx) (l : LaneNo)
  /-- CONTROL_TOKEN_ARRIVAL (R146). -/
  | controlTokenArrival (e : ElemId) (c : Ctx) (l : LaneNo)
  /-- BYPASS_HOP (R43). -/
  | bypassHop (e : ElemId) (c : Ctx) (d : Dir)
  /-- LANE_DISCARD_DROP (R142). -/
  | laneDiscardDrop (e : ElemId) (c : Ctx) (l : LaneNo)
  /-- MARKER_TAKEN (R358). -/
  | markerTaken (e : ElemId) (c : Ctx) (l : LaneNo)
  /-- TEARDOWN_TOKEN (R332). -/
  | teardownToken (e : ElemId) (c : Ctx)
  /-- SCALAR_ACCESS_COMPLETION (R177). -/
  | scalarAccessCompletion (e : ElemId)
  /-- PARKED_ACCESS_RETEST (R191). -/
  | parkedAccessRetest (k : Nat)
  /-- JOB_ELEMENT (R197). -/
  | jobElement (e : ElemId) (j : Fin 4)
  /-- JOB_FAULT_STOP (R200). -/
  | jobFaultStop (e : ElemId) (j : Fin 4)
  /-- JOB_RETIREMENT (R170). -/
  | jobRetirement (e : ElemId) (j : Fin 4)
  /-- PORT_WEIGHT_RECOMPUTE (R210). -/
  | portWeightRecompute (e : ElemId)
  /-- HELD_OP_RETIREMENT (R285). -/
  | heldOpRetirement (e : ElemId)
  /-- HOST_WRITE (R228). -/
  | hostWrite (addr : W64) (data : List Byte)
  /-- MIGRATION_SWITCH (R216). -/
  | migrationSwitch (k : Nat)
  /-- PAGEM_COMPLETION (R215). -/
  | pagemCompletion (k : Nat)
  /-- POMMEL_JOB_COMPLETION (R213). -/
  | pommelJobCompletion (k : Nat)
  /-- MIRROR_WRITE_RECEIVE (R212). -/
  | mirrorWriteReceive (flit : Flit)
  /-- MATRIX_GROUP_COMMIT (R248). -/
  | matrixGroupCommit (e : ElemId)
  /-- MATRIX_COMMAND_RETIREMENT (R250). -/
  | matrixCommandRetirement (e : ElemId)
  /-- MATRIX_FEED_FAULT (R261). -/
  | matrixFeedFault (e : ElemId)
  /-- MD_DRAIN_TOKEN (R259). -/
  | mdDrainToken (e : ElemId)
  /-- CINCH_REQUEST_ARRIVAL (R237). -/
  | cinchRequestArrival (k : Nat)
  /-- CINCH_PEND_SUBTRACT (R238). -/
  | cinchPendSubtract (die : Nat) (k : Nat) (n : Nat)
  /-- COLL_CONTRIBUTION_ARRIVAL (R240). -/
  | collContributionArrival (k : Nat)
  /-- COLL_RETIREMENT (R242). -/
  | collRetirement (e : ElemId)
  /-- TAPE_RECORD_ACCEPT (R296). -/
  | tapeRecordAccept (die : Nat) (k : Nat)
  /-- TAPE_KEY_WRITE (R319). -/
  | tapeKeyWrite (e : ElemId) (c : Ctx)
  /-- TAPE_CLOSE (R313). -/
  | tapeClose (die : Nat) (k : Nat)
  /-- TAPE_REGENERATION (R306). -/
  | tapeRegeneration (die : Nat) (k : Nat)
  /-- DCMPJ_ENGINE_START (R292). -/
  | dcmpjEngineStart (e : ElemId) (j : Fin 4)
  /-- DCMPJ_COMPLETION (R291). -/
  | dcmpjCompletion (e : ElemId) (j : Fin 4)
  /-- TABLE_ACTIVATION (R327). -/
  | tableActivation (p : Nat)
  /-- RUN_START (R329). -/
  | runStart (p : Nat) (k : Nat)
  /-- COUNT_TAKE (R330). -/
  | countTake (p : Nat) (k : Nat)
  /-- DEADLINE (R331). -/
  | deadline (run : Nat)
  /-- COMPLETION_RECORD_WRITE (R333). -/
  | completionRecordWrite (run : Nat)
  /-- MODE_CHANGE_POINT (R335). -/
  | modeChangePoint (p : Nat)
  /-- CTXLD_DONE (R345). -/
  | ctxldDone (op : Nat)
  /-- PARTM_DONE (R339). -/
  | partmDone (op : Nat)
  /-- DOFF_DONE (R340). -/
  | doffDone (op : Nat)
  /-- SPARE_DONE (R341). -/
  | spareDone (op : Nat)
  /-- VOTE_COMPARE (R367). -/
  | voteCompare (run : Nat)
  /-- VOTE_COPY_START (R367). -/
  | voteCopyStart (run : Nat)
  /-- KEEPER_ADVANCE (R364). -/
  | keeperAdvance (die : Nat) (r : Nat)
  /-- KEEPER_COMPARE (R364). -/
  | keeperCompare (k : Nat)
  /-- ROLLBACK (R360). -/
  | rollback (run : Nat) (copy : Nat)
  /-- CONFIG_RELOAD (R362). -/
  | configReload (e : ElemId) (c : Ctx)
  /-- MACHINE_CHECK (R363). -/
  | machineCheck (e : ElemId)
  /-- SENSOR_FRAME (R376). -/
  | sensorFrame (port : BitVec 5) (frame : Frame)
  /-- TILE_MOVE_COMPLETION (R173). -/
  | tileMoveCompletion (e : ElemId)
  /-- CINCH_ANSWER_ARRIVAL (R235). -/
  | cinchAnswerArrival (e : ElemId)
  /-- MIGRATION_SWEEP (R216). -/
  | migrationSweep (k : Nat)
  /-- NOP_TASK (R93). -/
  | nopTask
  /-- ADD_TASK (R93). -/
  | addTask (d : BitVec 5) (a : BitVec 5) (b : BitVec 5)
  /-- SUB_TASK (R93). -/
  | subTask (d : BitVec 5) (a : BitVec 5) (b : BitVec 5)
  /-- ADDI_TASK (R93). -/
  | addiTask (d : BitVec 5) (a : BitVec 5) (i : BitVec 14)
  /-- MUL_TASK (R93). -/
  | mulTask (d : BitVec 5) (a : BitVec 5) (b : BitVec 5)
  /-- MULH_TASK (R93). -/
  | mulhTask (d : BitVec 5) (a : BitVec 5) (b : BitVec 5)
  /-- MULHN_TASK (R93). -/
  | mulhnTask (d : BitVec 5) (a : BitVec 5) (b : BitVec 5)
  /-- DIV (R93). -/
  | div (d : BitVec 5) (a : BitVec 5) (b : BitVec 5)
  /-- DIVN (R93). -/
  | divn (d : BitVec 5) (a : BitVec 5) (b : BitVec 5)
  /-- REM (R93). -/
  | rem (d : BitVec 5) (a : BitVec 5) (b : BitVec 5)
  /-- REMN (R93). -/
  | remn (d : BitVec 5) (a : BitVec 5) (b : BitVec 5)
  /-- MIN_TASK (R93). -/
  | minTask (d : BitVec 5) (a : BitVec 5) (b : BitVec 5)
  /-- MAX_TASK (R93). -/
  | maxTask (d : BitVec 5) (a : BitVec 5) (b : BitVec 5)
  /-- MINN_TASK (R93). -/
  | minnTask (d : BitVec 5) (a : BitVec 5) (b : BitVec 5)
  /-- MAXN_TASK (R93). -/
  | maxnTask (d : BitVec 5) (a : BitVec 5) (b : BitVec 5)
  /-- ABS_TASK (R93). -/
  | absTask (d : BitVec 5) (a : BitVec 5)
  /-- NEG_TASK (R93). -/
  | negTask (d : BitVec 5) (a : BitVec 5)
  /-- AND_TASK (R93). -/
  | andTask (d : BitVec 5) (a : BitVec 5) (b : BitVec 5)
  /-- OR_TASK (R93). -/
  | orTask (d : BitVec 5) (a : BitVec 5) (b : BitVec 5)
  /-- XOR_TASK (R93). -/
  | xorTask (d : BitVec 5) (a : BitVec 5) (b : BitVec 5)
  /-- ANDN_TASK (R93). -/
  | andnTask (d : BitVec 5) (a : BitVec 5) (b : BitVec 5)
  /-- NOT_TASK (R93). -/
  | notTask (d : BitVec 5) (a : BitVec 5)
  /-- SHL_TASK (R93). -/
  | shlTask (d : BitVec 5) (a : BitVec 5) (b : BitVec 5)
  /-- SHR_TASK (R93). -/
  | shrTask (d : BitVec 5) (a : BitVec 5) (b : BitVec 5)
  /-- SHA_TASK (R93). -/
  | shaTask (d : BitVec 5) (a : BitVec 5) (b : BitVec 5)
  /-- ROT_TASK (R93). -/
  | rotTask (d : BitVec 5) (a : BitVec 5) (b : BitVec 5)
  /-- CLZ_TASK (R93). -/
  | clzTask (d : BitVec 5) (a : BitVec 5)
  /-- POPC_TASK (R93). -/
  | popcTask (d : BitVec 5) (a : BitVec 5)
  /-- SEL_TASK (R93). -/
  | selTask (d : BitVec 5) (a : BitVec 5) (b : BitVec 5)
  /-- CMPEQ_TASK (R93). -/
  | cmpeqTask (d : BitVec 5) (a : BitVec 5) (b : BitVec 5)
  /-- CMPNE_TASK (R93). -/
  | cmpneTask (d : BitVec 5) (a : BitVec 5) (b : BitVec 5)
  /-- CMPLT_TASK (R93). -/
  | cmpltTask (d : BitVec 5) (a : BitVec 5) (b : BitVec 5)
  /-- CMPLE_TASK (R93). -/
  | cmpleTask (d : BitVec 5) (a : BitVec 5) (b : BitVec 5)
  /-- CMPLTN_TASK (R93). -/
  | cmpltnTask (d : BitVec 5) (a : BitVec 5) (b : BitVec 5)
  /-- CMPLEN_TASK (R93). -/
  | cmplenTask (d : BitVec 5) (a : BitVec 5) (b : BitVec 5)
  /-- MOVI_TASK (R93). -/
  | moviTask (d : BitVec 5) (i : BitVec 14)
  /-- MOVHI_TASK (R93). -/
  | movhiTask (d : BitVec 5) (i : BitVec 14)
  /-- MOV_TASK (R93). -/
  | movTask (d : BitVec 5) (a : BitVec 5)
  /-- SEXT_TASK (R93). -/
  | sextTask (d : BitVec 5) (a : BitVec 5) (b : BitVec 5)
  /-- BFX_TASK (R93). -/
  | bfxTask (d : BitVec 5) (a : BitVec 5) (b : BitVec 5)
  /-- BFI_TASK (R93). -/
  | bfiTask (d : BitVec 5) (a : BitVec 5) (b : BitVec 5)
  /-- ADDS_TASK (R93). -/
  | addsTask (d : BitVec 5) (a : BitVec 5) (b : BitVec 5)
  /-- SUBS_TASK (R93). -/
  | subsTask (d : BitVec 5) (a : BitVec 5) (b : BitVec 5)
  /-- GLD_TASK (R193). -/
  | gldTask (d : BitVec 5) (a : BitVec 5) (i : BitVec 14)
  /-- GST_TASK (R193). -/
  | gstTask (d : BitVec 5) (a : BitVec 5) (i : BitVec 14)
  /-- GLDS_TASK (R193). -/
  | gldsTask (d : BitVec 4) (a : BitVec 5) (i : BitVec 14)
  /-- GSTF_TASK (R193). -/
  | gstfTask (d : BitVec 4) (a : BitVec 5) (i : BitVec 14)
  /-- AADD_TASK (R231). -/
  | aaddTask (d : BitVec 5) (a : BitVec 5) (b : BitVec 5)
  /-- AMIN_TASK (R231). -/
  | aminTask (d : BitVec 5) (a : BitVec 5) (b : BitVec 5)
  /-- AMAX_TASK (R231). -/
  | amaxTask (d : BitVec 5) (a : BitVec 5) (b : BitVec 5)
  /-- AAND_TASK (R231). -/
  | aandTask (d : BitVec 5) (a : BitVec 5) (b : BitVec 5)
  /-- AOR_TASK (R231). -/
  | aorTask (d : BitVec 5) (a : BitVec 5) (b : BitVec 5)
  /-- AXCH_TASK (R231). -/
  | axchTask (d : BitVec 5) (a : BitVec 5) (b : BitVec 5)
  /-- ACAS_TASK (R231). -/
  | acasTask (d : BitVec 5) (a : BitVec 5) (b : BitVec 5)
  /-- AFADD_TASK (R231). -/
  | afaddTask (d : BitVec 5) (a : BitVec 5) (b : BitVec 5)
  /-- FENCE_TASK (R232). -/
  | fenceTask (s : BitVec 3)
  /-- RELS_TASK (R233). -/
  | relsTask
  /-- ACQS_TASK (R233). -/
  | acqsTask
  /-- XFER_TASK (R213). -/
  | xferTask (d : BitVec 5) (a : BitVec 5)
  /-- MIRR_TASK (R213). -/
  | mirrTask (d : BitVec 5) (a : BitVec 5)
  /-- PAGEM (R215). -/
  | pagem (d : BitVec 5) (a : BitVec 5)
  /-- PURGE (R353). -/
  | purge (d : BitVec 5) (a : BitVec 5)
  /-- KEEPC (R366). -/
  | keepc (d : BitVec 5) (a : BitVec 5)
  /-- VERD_TASK (R370). -/
  | verdTask (d : BitVec 5) (a : BitVec 5) (b : BitVec 5)
  /-- LNCH (R344). -/
  | lnch (d : BitVec 5) (a : BitVec 5) (b : BitVec 5)
  /-- LNCHI (R344). -/
  | lnchi (d : BitVec 5) (a : BitVec 5) (b : BitVec 5)
  /-- TBLSW (R345). -/
  | tblsw (d : BitVec 5) (a : BitVec 5)
  /-- CTXLD (R345). -/
  | ctxld (d : BitVec 5) (a : BitVec 5) (b : BitVec 5)
  /-- CTXSW (R348). -/
  | ctxsw (d : BitVec 5) (a : BitVec 5) (b : BitVec 5)
  /-- DRNQ (R347). -/
  | drnq (d : BitVec 5) (a : BitVec 5) (b : BitVec 5)
  /-- OVRQ (R349). -/
  | ovrq (d : BitVec 5) (a : BitVec 5)
  /-- FBSEL (R346). -/
  | fbsel (d : BitVec 5) (a : BitVec 5) (b : BitVec 5)
  /-- TEARD (R346). -/
  | teard (d : BitVec 5) (a : BitVec 5) (b : BitVec 5)
  /-- PARTM (R339). -/
  | partm (d : BitVec 5) (a : BitVec 5) (b : BitVec 5)
  /-- DOFF (R340). -/
  | doff (d : BitVec 5) (a : BitVec 5) (b : BitVec 5)
  /-- SPARE (R341). -/
  | spare (d : BitVec 5) (a : BitVec 5) (b : BitVec 5)
  /-- BR (R120). -/
  | br (f : BitVec 19)
  /-- BRZ (R120). -/
  | brz (a : BitVec 5) (f : BitVec 19)
  /-- BRNZ (R120). -/
  | brnz (a : BitVec 5) (f : BitVec 19)
  /-- CALL (R120). -/
  | call (f : BitVec 19)
  /-- RET (R120). -/
  | ret
  /-- LDK (R121). -/
  | ldk (d : BitVec 5) (a : BitVec 5) (i : BitVec 14)
  /-- STK (R121). -/
  | stk (d : BitVec 5) (a : BitVec 5) (i : BitVec 14)
  /-- LDIO (R126). -/
  | ldio (d : BitVec 5) (a : BitVec 5) (i : BitVec 14)
  /-- STIO (R126). -/
  | stio (d : BitVec 5) (a : BitVec 5) (i : BitVec 14)
  /-- SEND (R123). -/
  | send (d : BitVec 5) (a : BitVec 5) (c : BitVec 6)
  /-- RECV (R123). -/
  | recv (d : BitVec 5) (a : BitVec 5) (c : BitVec 6)
  /-- TEND (R113). -/
  | tend
  /-- TBIND (R123). -/
  | tbind (d : BitVec 5) (a : BitVec 5) (b : BitVec 5) (c : BitVec 6)
  /-- CHPRI (R123). -/
  | chpri (d : BitVec 5) (a : BitVec 5) (c : BitVec 6)
  /-- TRAPS (R120). -/
  | traps (i : BitVec 9)
  /-- TIMEQ (R124). -/
  | timeq (d : BitVec 5) (a : BitVec 5) (b : BitVec 5)
  /-- HASHB (R125). -/
  | hashb (d : BitVec 5) (a : BitVec 5)
  /-- SIGV (R125). -/
  | sigv (d : BitVec 5) (a : BitVec 5)
  /-- SYSX (R122). -/
  | sysx (d : BitVec 5) (a : BitVec 5) (i : BitVec 9)
  /-- IDENT (R132). -/
  | ident (c : Cmd)
  /-- STATUS (R132). -/
  | status (c : Cmd)
  /-- FEATNEG_READ (R134). -/
  | featnegRead (c : Cmd)
  /-- FEATNEG_WRITE (R134). -/
  | featnegWrite (c : Cmd)
  /-- LOADIMG (R52). -/
  | loadimg (c : Cmd)
  /-- LOADTBL (R324). -/
  | loadtbl (c : Cmd)
  /-- START_MODE (R327). -/
  | startMode (c : Cmd)
  /-- START_ENTRY (R344). -/
  | startEntry (c : Cmd)
  /-- HOST_LAUNCH (R344). -/
  | hostLaunch (c : Cmd)
  /-- MODESW (R132). -/
  | modesw (c : Cmd)
  /-- QREC (R333). -/
  | qrec (c : Cmd)
  /-- PURGE_CMD (R352). -/
  | purgeCmd (c : Cmd)
  /-- MIRCFG (R379). -/
  | mircfg (c : Cmd)
  /-- TIMECFG (R321). -/
  | timecfg (c : Cmd)
  /-- PARTMODE (R339). -/
  | partmode (c : Cmd)
  /-- DIEOFF (R340). -/
  | dieoff (c : Cmd)
  /-- ATTEST (R132). -/
  | attest (c : Cmd)
  /-- THROTTLE (R128). -/
  | throttle (c : Cmd)
  /-- KEYINST (R135). -/
  | keyinst (c : Cmd)
  /-- SYSMAP_MAP (R190). -/
  | sysmapMap (c : Cmd)
  /-- SYSMAP_UNMAP (R190). -/
  | sysmapUnmap (c : Cmd)
  /-- TASK_DISPATCH (R113). -/
  | taskDispatch
  /-- WATCHDOG (R114). -/
  | watchdog
  /-- MONITOR_SAMPLE (R127). -/
  | monitorSample (block : BitVec 4) (readings : List W32)
  /-- THRLVL_WRITE (R128). -/
  | thrlvlWrite (block : BitVec 4) (v : W64)
  /-- ALERTST_WRITE (R128). -/
  | alertstWrite (block : BitVec 4) (v : W64)
  /-- REGISTER_WRITE (R8). -/
  | registerWrite (addr : BitVec 24) (v : W64)
  /-- INGCFG_WRITE (R375). -/
  | ingcfgWrite (addr : BitVec 24) (v : W64)
  /-- SAFEEV_WRITE (R374). -/
  | safeevWrite (v : W64)
  /-- POMMEL_STORE_DRAIN (R193). -/
  | pommelStoreDrain
  /-- DIE_LINK_RETRAIN_FAILURE (R372). -/
  | dieLinkRetrainFailure (die : Nat)
  /-- HEARTBEAT_SEND (R380). -/
  | heartbeatSend
  /-- HEARTBEAT_RECEIVE (R380). -/
  | heartbeatReceive (seq : W64)
  /-- HEARTBEAT_TIMEOUT (R380). -/
  | heartbeatTimeout
  /-- PFAULT_ASSERT (R380). -/
  | pfaultAssert
  /-- BERYL_LINK_DOWN (R378). -/
  | berylLinkDown
  /-- TICK_COUNTER_ADVANCE (R320). -/
  | tickCounterAdvance
  /-- PTP_SERVO_ADJUST (R28). -/
  | ptpServoAdjust (p : Nat) (rate : W32)
  /-- PTP_SYNCHRONISATION (R377). -/
  | ptpSynchronisation (p : Nat) (sync : Bool)
  /-- ILLEGAL_INSTRUCTION (R48). -/
  | illegalInstruction
  /-- FETCH_FAULT (R116). -/
  | fetchFault
  /-- UNKNOWN_COMMAND_CODE (R131). -/
  | unknownCommandCode (code : BitVec 16) (c : Cmd)
  deriving DecidableEq, Repr

end Sys2Proof
end

