-- ==== Sys2Proof/WellFormed.lean ====
section
/-! DEFINITION. Which instructions are well formed on their own words: the rules of R35, R36, R37, R39, R40 and R46 that a
field's width does not already enforce, each with the name of the check that fails (spec 02_encoding R47, R48, R52). The
checks that need types or neighbours are the loader's. -/

namespace Sys2Proof

/-- Why a word is not an instruction: the causes of R52 that concern one row, and the task-core cases of R48. -/
inductive DecErr where
  | opRes | taskOnly | elementOnly | resBit | rMode | subOp | opType | queue | tMode | weDiff | truncated
  deriving DecidableEq, Repr

/-- The first failing check of a list of checks. -/
def firstErr : List (Bool × DecErr) → Option DecErr
  | [] => none
  | (ok, e) :: cs => if ok then firstErr cs else some e

/-- Route and register-address words: token mode 11 is reserved, and we equals route bit 3 (R37, R39). -/
def wiresErr (x : Wires) : Option DecErr :=
  firstErr [(x.route.mode != 3, .tMode), (x.reg.we == x.route.reg, .weDiff)]

/-- The partner-queue rule of an OX word: no partner means neither wait nor push, and the partner is not the executing queue
(R36). -/
def pqOk (own : Queue) (w s : BitVec 1) (q : BitVec 2) : Bool :=
  match q.toNat with
  | 0 => w == 0 && s == 0
  | 1 => own != .c
  | 2 => own != .m
  | _ => own != .s

/-- sx is legal only for byte and half (R34). -/
def sxOk (z : BitVec 2) (x : BitVec 1) : Bool := x == 0 || z.toNat < 2

/-- The check of an instruction that its words fail first, none where it is well formed. -/
def Instr.err : Instr → Option DecErr
  | .powerUp _ _ => none
  | .ident _ => none
  | .status _ => none
  | .featnegRead _ => none
  | .featnegWrite _ => none
  | .loadimg _ => none
  | .loadtbl _ => none
  | .startMode _ => none
  | .startEntry _ => none
  | .hostLaunch _ => none
  | .modesw _ => none
  | .qrec _ => none
  | .purgeCmd _ => none
  | .mircfg _ => none
  | .timecfg _ => none
  | .partmode _ => none
  | .dieoff _ => none
  | .attest _ => none
  | .throttle _ => none
  | .keyinst _ => none
  | .sysmapMap _ => none
  | .sysmapUnmap _ => none
  | .taskDispatch => none
  | .watchdog => none
  | .timerCompare _ => none
  | .cryptoCompletion _ => none
  | .monitorSample _ _ => none
  | .thrlvlWrite _ _ => none
  | .alertstWrite _ _ => none
  | .registerWrite _ _ => none
  | .throttleLevelApply _ => none
  | .ingcfgWrite _ _ => none
  | .safeevWrite _ => none
  | .linkTokenArrival _ _ _ => none
  | .controlTokenArrival _ _ _ => none
  | .bypassHop _ _ _ => none
  | .laneDiscardDrop _ _ _ => none
  | .markerTaken _ _ _ => none
  | .teardownToken _ _ => none
  | .scalarAccessCompletion _ => none
  | .parkedAccessRetest _ => none
  | .jobElement _ _ => none
  | .jobFaultStop _ _ => none
  | .jobRetirement _ _ => none
  | .portWeightRecompute _ => none
  | .heldOpRetirement _ => none
  | .pommelStoreDrain => none
  | .hostWrite _ _ => none
  | .migrationSwitch _ => none
  | .pagemCompletion _ => none
  | .pommelJobCompletion _ => none
  | .mirrorWriteReceive _ => none
  | .matrixGroupCommit _ => none
  | .matrixCommandRetirement _ => none
  | .matrixFeedFault _ => none
  | .mdDrainToken _ => none
  | .cinchRequestArrival _ => none
  | .cinchPendSubtract _ _ _ => none
  | .collContributionArrival _ => none
  | .collRetirement _ => none
  | .tapeRecordAccept _ _ => none
  | .tapeKeyWrite _ _ => none
  | .tapeClose _ _ => none
  | .tapeRegeneration _ _ => none
  | .dcmpjEngineStart _ _ => none
  | .dcmpjCompletion _ _ => none
  | .tableActivation _ => none
  | .runStart _ _ => none
  | .countTake _ _ => none
  | .deadline _ => none
  | .completionRecordWrite _ => none
  | .modeChangePoint _ => none
  | .ctxldDone _ => none
  | .partmDone _ => none
  | .doffDone _ => none
  | .spareDone _ => none
  | .voteCompare _ => none
  | .voteCopyStart _ => none
  | .keeperAdvance _ _ => none
  | .keeperCompare _ => none
  | .rollback _ _ => none
  | .configReload _ _ => none
  | .machineCheck _ => none
  | .dieLinkRetrainFailure _ => none
  | .heartbeatSend => none
  | .heartbeatReceive _ => none
  | .heartbeatTimeout => none
  | .pfaultAssert => none
  | .berylLinkDown => none
  | .sensorFrame _ _ => none
  | .nop _ wr => wiresErr wr
  | .add _ _ wr => wiresErr wr
  | .sub _ _ wr => wiresErr wr
  | .addi _ _ wr => wiresErr wr
  | .mul _ _ wr => wiresErr wr
  | .mulh _ _ wr => wiresErr wr
  | .mulhn _ _ wr => wiresErr wr
  | .min _ _ wr => wiresErr wr
  | .max _ _ wr => wiresErr wr
  | .minn _ _ wr => wiresErr wr
  | .maxn _ _ wr => wiresErr wr
  | .abs _ _ wr => wiresErr wr
  | .neg _ _ wr => wiresErr wr
  | .and _ _ wr => wiresErr wr
  | .or _ _ wr => wiresErr wr
  | .xor _ _ wr => wiresErr wr
  | .andn _ _ wr => wiresErr wr
  | .not _ _ wr => wiresErr wr
  | .shl _ _ wr => wiresErr wr
  | .shr _ _ wr => wiresErr wr
  | .sha _ _ wr => wiresErr wr
  | .rot _ _ wr => wiresErr wr
  | .clz _ _ wr => wiresErr wr
  | .popc _ _ wr => wiresErr wr
  | .sel _ _ wr => wiresErr wr
  | .cmpeq _ _ wr => wiresErr wr
  | .cmpne _ _ wr => wiresErr wr
  | .cmplt _ _ wr => wiresErr wr
  | .cmple _ _ wr => wiresErr wr
  | .cmpltn _ _ wr => wiresErr wr
  | .cmplen _ _ wr => wiresErr wr
  | .movi _ wr => wiresErr wr
  | .movhi _ wr => wiresErr wr
  | .mov _ _ wr => wiresErr wr
  | .movSpecialRead _ _ wr => wiresErr wr
  | .movSpecialWrite _ _ wr => wiresErr wr
  | .sext _ _ wr => wiresErr wr
  | .bfx _ _ wr => wiresErr wr
  | .bfi _ _ wr => wiresErr wr
  | .adds _ _ wr => wiresErr wr
  | .subs _ _ wr => wiresErr wr
  | .fadd r _ wr => (firstErr [(r != 7, .rMode)]).or (wiresErr wr)
  | .fsub r _ wr => (firstErr [(r != 7, .rMode)]).or (wiresErr wr)
  | .fmul r _ wr => (firstErr [(r != 7, .rMode)]).or (wiresErr wr)
  | .fma r _ wr => (firstErr [(r != 7, .rMode)]).or (wiresErr wr)
  | .fms r _ wr => (firstErr [(r != 7, .rMode)]).or (wiresErr wr)
  | .fnma r _ wr => (firstErr [(r != 7, .rMode)]).or (wiresErr wr)
  | .fmin _ wr => wiresErr wr
  | .fmax _ wr => wiresErr wr
  | .fabs _ wr => wiresErr wr
  | .fneg _ wr => wiresErr wr
  | .fcmpeq _ wr => wiresErr wr
  | .fcmplt _ wr => wiresErr wr
  | .fcmple _ wr => wiresErr wr
  | .fcmpun _ wr => wiresErr wr
  | .fcvt r _ _ wr => (firstErr [(r != 7, .rMode)]).or (wiresErr wr)
  | .fclass _ wr => wiresErr wr
  | .frnd r _ wr => (firstErr [(r != 7, .rMode)]).or (wiresErr wr)
  | .ftoi r _ _ wr => (firstErr [(r != 7, .rMode)]).or (wiresErr wr)
  | .itof r _ wr => (firstErr [(r != 7, .rMode)]).or (wiresErr wr)
  | .fscale r _ wr => (firstErr [(r != 7, .rMode)]).or (wiresErr wr)
  | .fdot2 r _ wr => (firstErr [(r != 7, .rMode)]).or (wiresErr wr)
  | .fexpn _ wr => wiresErr wr
  | .fmant _ wr => wiresErr wr
  | .qnt r _ _ _ _ wr => (firstErr [(r != 7, .rMode)]).or (wiresErr wr)
  | .dqnt r _ wr => (firstErr [(r != 7, .rMode)]).or (wiresErr wr)
  | .lut r _ _ wr => (firstErr [(r != 7, .rMode)]).or (wiresErr wr)
  | .lutix _ _ _ wr => wiresErr wr
  | .rredf _ wr => wiresErr wr
  | .rredn _ wr => wiresErr wr
  | .rexp r _ wr => (firstErr [(r != 7, .rMode)]).or (wiresErr wr)
  | .lutsel r _ wr => (firstErr [(r != 7, .rMode)]).or (wiresErr wr)
  | .steer _ _ _ wr => wiresErr wr
  | .merge _ _ wr => wiresErr wr
  | .mergea _ wr => wiresErr wr
  | .gate _ _ _ wr => wiresErr wr
  | .drop _ _ _ wr => wiresErr wr
  | .cemit _ _ _ wr => wiresErr wr
  | .ctest _ _ wr => wiresErr wr
  | .cand _ _ _ wr => wiresErr wr
  | .cor _ _ _ wr => wiresErr wr
  | .cnot _ _ wr => wiresErr wr
  | .eose _ _ wr => wiresErr wr
  | .eosq _ _ wr => wiresErr wr
  | .cnti _ wr => wiresErr wr
  | .cnts _ _ _ wr => wiresErr wr
  | .cntl _ wr => wiresErr wr
  | .phase _ _ wr => wiresErr wr
  | .ctxp _ _ wr => wiresErr wr
  | .rowq _ wr => wiresErr wr
  | .iofq _ wr => wiresErr wr
  | .frmq _ wr => wiresErr wr
  | .dly _ wr => wiresErr wr
  | .armx _ _ _ wr => wiresErr wr
  | .talloc _ w s q wr => (firstErr [(pqOk .c w s q, .queue)]).or (wiresErr wr)
  | .tfree w s q wr => (firstErr [(pqOk .c w s q, .queue)]).or (wiresErr wr)
  | .tqry w s q _ _ wr => (firstErr [(pqOk .c w s q, .queue)]).or (wiresErr wr)
  | .ldt _ z x _ _ _ wr => (firstErr [(sxOk z x, .resBit)]).or (wiresErr wr)
  | .stt _ _ _ _ _ wr => wiresErr wr
  | .ldts _ z x _ _ _ wr => (firstErr [(sxOk z x, .resBit)]).or (wiresErr wr)
  | .sttf _ _ _ _ _ wr => wiresErr wr
  | .ldte _ z x _ _ _ wr => (firstErr [(sxOk z x, .resBit)]).or (wiresErr wr)
  | .feset _ _ _ _ _ wr => wiresErr wr
  | .feq _ _ _ _ _ wr => wiresErr wr
  | .tcopy _ w s q wr => (firstErr [(pqOk .s w s q, .queue)]).or (wiresErr wr)
  | .tfill _ w s q wr => (firstErr [(pqOk .s w s q, .queue)]).or (wiresErr wr)
  | .tlevel w s q _ _ wr => (firstErr [(pqOk .c w s q, .queue)]).or (wiresErr wr)
  | .gld _ z x _ _ _ wr => (firstErr [(sxOk z x, .resBit)]).or (wiresErr wr)
  | .gst _ _ _ _ _ wr => wiresErr wr
  | .glds _ z x _ _ _ wr => (firstErr [(sxOk z x, .resBit)]).or (wiresErr wr)
  | .gstf _ _ _ _ _ wr => wiresErr wr
  | .strmi _ w s q _ wr => (firstErr [(pqOk .s w s q, .queue)]).or (wiresErr wr)
  | .strmo _ w s q _ wr => (firstErr [(pqOk .s w s q, .queue)]).or (wiresErr wr)
  | .gath _ w s q _ wr => (firstErr [(pqOk .s w s q, .queue)]).or (wiresErr wr)
  | .scat _ w s q _ wr => (firstErr [(pqOk .s w s q, .queue)]).or (wiresErr wr)
  | .sprg w s q _ _ wr => (firstErr [(pqOk .s w s q, .queue)]).or (wiresErr wr)
  | .sabt w s q _ wr => (firstErr [(pqOk .s w s q, .queue)]).or (wiresErr wr)
  | .sres w s q _ wr => (firstErr [(pqOk .s w s q, .queue)]).or (wiresErr wr)
  | .aadd _ _ _ _ _ wr => wiresErr wr
  | .amin _ _ _ _ _ wr => wiresErr wr
  | .amax _ _ _ _ _ wr => wiresErr wr
  | .aand _ _ _ _ _ wr => wiresErr wr
  | .aor _ _ _ _ _ wr => wiresErr wr
  | .axch _ _ _ _ _ wr => wiresErr wr
  | .acas _ _ _ _ _ wr => wiresErr wr
  | .afadd _ _ _ _ wr => wiresErr wr
  | .fence _ wr => wiresErr wr
  | .rels wr => wiresErr wr
  | .acqs wr => wiresErr wr
  | .xfer _ w s q wr => (firstErr [(pqOk .s w s q, .queue)]).or (wiresErr wr)
  | .mirr _ w s q wr => (firstErr [(pqOk .s w s q, .queue)]).or (wiresErr wr)
  | .coll _ w s q wr => (firstErr [(pqOk .s w s q, .queue)]).or (wiresErr wr)
  | .mma _ w s q wr => (firstErr [(pqOk .m w s q, .queue)]).or (wiresErr wr)
  | .mmas _ w s q wr => (firstErr [(pqOk .m w s q, .queue)]).or (wiresErr wr)
  | .mmav _ w s q wr => (firstErr [(pqOk .m w s q, .queue)]).or (wiresErr wr)
  | .mmab _ w s q wr => (firstErr [(pqOk .m w s q, .queue)]).or (wiresErr wr)
  | .macc _ w s q _ wr => (firstErr [(pqOk .m w s q, .queue)]).or (wiresErr wr)
  | .mdrn _ w s q _ wr => (firstErr [(pqOk .m w s q, .queue)]).or (wiresErr wr)
  | .mprg _ wr => wiresErr wr
  | .mres wr => wiresErr wr
  | .mabt wr => wiresErr wr
  | .mshp w s q wr => (firstErr [(pqOk .m w s q, .queue)]).or (wiresErr wr)
  | .xld _ w s q _ _ wr => (firstErr [(pqOk .s w s q, .queue)]).or (wiresErr wr)
  | .xst _ w s q wr => (firstErr [(pqOk .s w s q, .queue)]).or (wiresErr wr)
  | .cbld _ w s q _ wr => (firstErr [(pqOk .s w s q, .queue)]).or (wiresErr wr)
  | .vqx w s q _ _ wr => (firstErr [(pqOk .s w s q, .queue)]).or (wiresErr wr)
  | .compm _ w s q wr => (firstErr [(pqOk .s w s q, .queue)]).or (wiresErr wr)
  | .expdm _ w s q wr => (firstErr [(pqOk .s w s q, .queue)]).or (wiresErr wr)
  | .fibp _ w s q wr => (firstErr [(pqOk .s w s q, .queue)]).or (wiresErr wr)
  | .fibu _ w s q wr => (firstErr [(pqOk .s w s q, .queue)]).or (wiresErr wr)
  | .isect _ w s q _ wr => (firstErr [(pqOk .s w s q, .queue)]).or (wiresErr wr)
  | .dcmpj _ w s q wr => (firstErr [(pqOk .s w s q, .queue)]).or (wiresErr wr)
  | .dcmpq w s q _ _ wr => (firstErr [(pqOk .s w s q, .queue)]).or (wiresErr wr)
  | .lzcp _ w s q _ wr => (firstErr [(pqOk .s w s q, .queue)]).or (wiresErr wr)
  | .layw _ wr => wiresErr wr
  | .layr _ _ wr => wiresErr wr
  | .trns _ w s q wr => (firstErr [(pqOk .s w s q, .queue)]).or (wiresErr wr)
  | .redx _ w s q wr => (firstErr [(pqOk .s w s q, .queue)]).or (wiresErr wr)
  | .cinit _ wr => wiresErr wr
  | .carr _ _ wr => wiresErr wr
  | .cexpb _ wr => wiresErr wr
  | .cqry _ _ wr => wiresErr wr
  | .cdrop _ wr => wiresErr wr
  | .tapeb _ wr => wiresErr wr
  | .tapee wr => wiresErr wr
  | .tapev _ _ wr => wiresErr wr
  | .taper _ wr => wiresErr wr
  | .tapep _ wr => wiresErr wr
  | .tapec wr => wiresErr wr
  | .tapeq _ wr => wiresErr wr
  | .tapek _ wr => wiresErr wr
  | .mark wr => wiresErr wr
  | .snapq _ wr => wiresErr wr
  | .rtag wr => wiresErr wr
  | .poisn _ wr => wiresErr wr
  | .poisq wr => wiresErr wr
  | .verd _ wr => wiresErr wr
  | .cmpv _ wr => wiresErr wr
  | .nopTask => none
  | .addTask _ _ _ => none
  | .subTask _ _ _ => none
  | .addiTask _ _ _ => none
  | .mulTask _ _ _ => none
  | .mulhTask _ _ _ => none
  | .mulhnTask _ _ _ => none
  | .div _ _ _ => none
  | .divn _ _ _ => none
  | .rem _ _ _ => none
  | .remn _ _ _ => none
  | .minTask _ _ _ => none
  | .maxTask _ _ _ => none
  | .minnTask _ _ _ => none
  | .maxnTask _ _ _ => none
  | .absTask _ _ => none
  | .negTask _ _ => none
  | .andTask _ _ _ => none
  | .orTask _ _ _ => none
  | .xorTask _ _ _ => none
  | .andnTask _ _ _ => none
  | .notTask _ _ => none
  | .shlTask _ _ _ => none
  | .shrTask _ _ _ => none
  | .shaTask _ _ _ => none
  | .rotTask _ _ _ => none
  | .clzTask _ _ => none
  | .popcTask _ _ => none
  | .selTask _ _ _ => none
  | .cmpeqTask _ _ _ => none
  | .cmpneTask _ _ _ => none
  | .cmpltTask _ _ _ => none
  | .cmpleTask _ _ _ => none
  | .cmpltnTask _ _ _ => none
  | .cmplenTask _ _ _ => none
  | .moviTask _ _ => none
  | .movhiTask _ _ => none
  | .movTask _ _ => none
  | .sextTask _ _ _ => none
  | .bfxTask _ _ _ => none
  | .bfiTask _ _ _ => none
  | .addsTask _ _ _ => none
  | .subsTask _ _ _ => none
  | .gldTask _ _ _ => none
  | .gstTask _ _ _ => none
  | .gldsTask _ _ _ => none
  | .gstfTask _ _ _ => none
  | .aaddTask _ _ _ => none
  | .aminTask _ _ _ => none
  | .amaxTask _ _ _ => none
  | .aandTask _ _ _ => none
  | .aorTask _ _ _ => none
  | .axchTask _ _ _ => none
  | .acasTask _ _ _ => none
  | .afaddTask _ _ _ => none
  | .fenceTask _ => none
  | .relsTask => none
  | .acqsTask => none
  | .xferTask _ _ => none
  | .mirrTask _ _ => none
  | .pagem _ _ => none
  | .purge _ _ => none
  | .keepc _ _ => none
  | .verdTask _ _ _ => none
  | .lnch _ _ _ => none
  | .lnchi _ _ _ => none
  | .tblsw _ _ => none
  | .ctxld _ _ _ => none
  | .ctxsw _ _ _ => none
  | .drnq _ _ _ => none
  | .ovrq _ _ => none
  | .fbsel _ _ _ => none
  | .teard _ _ _ => none
  | .partm _ _ _ => none
  | .doff _ _ _ => none
  | .spare _ _ _ => none
  | .br _ => none
  | .brz _ _ => none
  | .brnz _ _ => none
  | .call _ => none
  | .ret => none
  | .ldk _ _ _ => none
  | .stk _ _ _ => none
  | .ldio _ _ _ => none
  | .stio _ _ _ => none
  | .send _ _ _ => none
  | .recv _ _ _ => none
  | .tend => none
  | .tbind _ _ _ _ => none
  | .chpri _ _ _ => none
  | .traps _ => none
  | .timeq _ _ _ => none
  | .hashb _ _ => none
  | .sigv _ _ => none
  | .sysx _ a n => firstErr [(a == 0 || !([0, 1, 5, 6].contains n.toNat), .resBit)]
  | .tickCounterAdvance => none
  | .ptpServoAdjust _ _ => none
  | .ptpSynchronisation _ _ => none
  | .illegalInstruction => none
  | .fetchFault => none
  | .unknownCommandCode _ _ => none
  | .tileMoveCompletion _ => none
  | .cinchAnswerArrival _ => none
  | .migrationSweep _ => none

/-- The instruction breaks no rule on its own words. -/
abbrev Instr.wellFormed (i : Instr) : Prop := i.err = none

end Sys2Proof
end

