-- ==== Sys2Proof/Decode.lean ====
section
/-! DEFINITION. The decoder of the two framings, and the encoder (spec 02_encoding R34-R48): an element row of three ring
words and a task-core word, each field taken from its place, each word that is not an instruction rejected by the name of
the failing check. -/

namespace Sys2Proof

/-- Bits [lo + len - 1 : lo] of a word. -/
def fld {n : Nat} (w : BitVec n) (lo len : Nat) : BitVec len := w.extractLsb' lo len

/-- The instruction, if its word passes every check. -/
def need (cs : List (Bool × DecErr)) (i : Instr) : Except DecErr Instr :=
  match firstErr cs with
  | none => .ok i
  | some e => .error e

/-- The fields of a route word (R37). -/
def decodeRoute (w : BitVec 16) : Route :=
  { a := fld w 12 4, b := fld w 8 4, n := w.getLsbD 7, e := w.getLsbD 6, s := w.getLsbD 5, w := w.getLsbD 4,
    reg := w.getLsbD 3, ctl := w.getLsbD 2, mode := fld w 0 2 }

/-- The fields of a register-address word (R39). -/
def decodeReg (w : BitVec 16) : RegWord :=
  { ra := fld w 11 5, rb := fld w 6 5, rd := fld w 1 5, we := w.getLsbD 0 }

/-- Opcodes 0x00-0x0F of the opcode map (R44). -/
def decodeOp0 (lo : Nat) (w : BitVec 24) (wr : Wires) : Except DecErr Instr :=
  match lo with
  | 0 => need [(fld w 10 1 == 0, .resBit), (fld w 0 10 == 0, .resBit), (fld w 15 1 == 0, .rMode), (fld w 13 2 == 0, .rMode), (fld w 12 1 == 0, .rMode)] (.nop (fld w 11 1) wr)
  | 1 => need [(fld w 10 1 == 0, .resBit), (fld w 15 1 == 0, .rMode), (fld w 13 2 == 0, .rMode), (fld w 12 1 == 0, .rMode)] (.add (fld w 11 1) (fld w 0 10) wr)
  | 2 => need [(fld w 10 1 == 0, .resBit), (fld w 15 1 == 0, .rMode), (fld w 13 2 == 0, .rMode), (fld w 12 1 == 0, .rMode)] (.sub (fld w 11 1) (fld w 0 10) wr)
  | 3 => need [(fld w 10 1 == 0, .resBit), (fld w 15 1 == 0, .rMode), (fld w 13 2 == 0, .rMode), (fld w 12 1 == 0, .rMode)] (.addi (fld w 11 1) (fld w 0 10) wr)
  | 4 => need [(fld w 10 1 == 0, .resBit), (fld w 15 1 == 0, .rMode), (fld w 13 2 == 0, .rMode), (fld w 12 1 == 0, .rMode)] (.mul (fld w 11 1) (fld w 0 10) wr)
  | 5 => need [(fld w 10 1 == 0, .resBit), (fld w 15 1 == 0, .rMode), (fld w 13 2 == 0, .rMode), (fld w 12 1 == 0, .rMode)] (.mulh (fld w 11 1) (fld w 0 10) wr)
  | 6 => need [(fld w 10 1 == 0, .resBit), (fld w 15 1 == 0, .rMode), (fld w 13 2 == 0, .rMode), (fld w 12 1 == 0, .rMode)] (.mulhn (fld w 11 1) (fld w 0 10) wr)
  | 7 => .error .taskOnly
  | 8 => .error .taskOnly
  | 9 => .error .taskOnly
  | 10 => .error .taskOnly
  | 11 => need [(fld w 10 1 == 0, .resBit), (fld w 15 1 == 0, .rMode), (fld w 13 2 == 0, .rMode), (fld w 12 1 == 0, .rMode)] (.min (fld w 11 1) (fld w 0 10) wr)
  | 12 => need [(fld w 10 1 == 0, .resBit), (fld w 15 1 == 0, .rMode), (fld w 13 2 == 0, .rMode), (fld w 12 1 == 0, .rMode)] (.max (fld w 11 1) (fld w 0 10) wr)
  | 13 => need [(fld w 10 1 == 0, .resBit), (fld w 15 1 == 0, .rMode), (fld w 13 2 == 0, .rMode), (fld w 12 1 == 0, .rMode)] (.minn (fld w 11 1) (fld w 0 10) wr)
  | 14 => need [(fld w 10 1 == 0, .resBit), (fld w 15 1 == 0, .rMode), (fld w 13 2 == 0, .rMode), (fld w 12 1 == 0, .rMode)] (.maxn (fld w 11 1) (fld w 0 10) wr)
  | 15 => need [(fld w 10 1 == 0, .resBit), (fld w 15 1 == 0, .rMode), (fld w 13 2 == 0, .rMode), (fld w 12 1 == 0, .rMode)] (.abs (fld w 11 1) (fld w 0 10) wr)
  | _ => .error .opRes

/-- Opcodes 0x10-0x1F of the opcode map (R44). -/
def decodeOp1 (lo : Nat) (w : BitVec 24) (wr : Wires) : Except DecErr Instr :=
  match lo with
  | 0 => need [(fld w 10 1 == 0, .resBit), (fld w 15 1 == 0, .rMode), (fld w 13 2 == 0, .rMode), (fld w 12 1 == 0, .rMode)] (.neg (fld w 11 1) (fld w 0 10) wr)
  | 1 => need [(fld w 10 1 == 0, .resBit), (fld w 15 1 == 0, .rMode), (fld w 13 2 == 0, .rMode), (fld w 12 1 == 0, .rMode)] (.and (fld w 11 1) (fld w 0 10) wr)
  | 2 => need [(fld w 10 1 == 0, .resBit), (fld w 15 1 == 0, .rMode), (fld w 13 2 == 0, .rMode), (fld w 12 1 == 0, .rMode)] (.or (fld w 11 1) (fld w 0 10) wr)
  | 3 => need [(fld w 10 1 == 0, .resBit), (fld w 15 1 == 0, .rMode), (fld w 13 2 == 0, .rMode), (fld w 12 1 == 0, .rMode)] (.xor (fld w 11 1) (fld w 0 10) wr)
  | 4 => need [(fld w 10 1 == 0, .resBit), (fld w 15 1 == 0, .rMode), (fld w 13 2 == 0, .rMode), (fld w 12 1 == 0, .rMode)] (.andn (fld w 11 1) (fld w 0 10) wr)
  | 5 => need [(fld w 10 1 == 0, .resBit), (fld w 15 1 == 0, .rMode), (fld w 13 2 == 0, .rMode), (fld w 12 1 == 0, .rMode)] (.not (fld w 11 1) (fld w 0 10) wr)
  | 6 => need [(fld w 10 1 == 0, .resBit), (fld w 15 1 == 0, .rMode), (fld w 13 2 == 0, .rMode), (fld w 12 1 == 0, .rMode)] (.shl (fld w 11 1) (fld w 0 10) wr)
  | 7 => need [(fld w 10 1 == 0, .resBit), (fld w 15 1 == 0, .rMode), (fld w 13 2 == 0, .rMode), (fld w 12 1 == 0, .rMode)] (.shr (fld w 11 1) (fld w 0 10) wr)
  | 8 => need [(fld w 10 1 == 0, .resBit), (fld w 15 1 == 0, .rMode), (fld w 13 2 == 0, .rMode), (fld w 12 1 == 0, .rMode)] (.sha (fld w 11 1) (fld w 0 10) wr)
  | 9 => need [(fld w 10 1 == 0, .resBit), (fld w 15 1 == 0, .rMode), (fld w 13 2 == 0, .rMode), (fld w 12 1 == 0, .rMode)] (.rot (fld w 11 1) (fld w 0 10) wr)
  | 10 => need [(fld w 10 1 == 0, .resBit), (fld w 15 1 == 0, .rMode), (fld w 13 2 == 0, .rMode), (fld w 12 1 == 0, .rMode)] (.clz (fld w 11 1) (fld w 0 10) wr)
  | 11 => need [(fld w 10 1 == 0, .resBit), (fld w 15 1 == 0, .rMode), (fld w 13 2 == 0, .rMode), (fld w 12 1 == 0, .rMode)] (.popc (fld w 11 1) (fld w 0 10) wr)
  | 12 => need [(fld w 10 1 == 0, .resBit), (fld w 15 1 == 0, .rMode), (fld w 13 2 == 0, .rMode), (fld w 12 1 == 0, .rMode)] (.sel (fld w 11 1) (fld w 0 10) wr)
  | 13 => need [(fld w 10 1 == 0, .resBit), (fld w 15 1 == 0, .rMode), (fld w 13 2 == 0, .rMode), (fld w 12 1 == 0, .rMode)] (.cmpeq (fld w 11 1) (fld w 0 10) wr)
  | 14 => need [(fld w 10 1 == 0, .resBit), (fld w 15 1 == 0, .rMode), (fld w 13 2 == 0, .rMode), (fld w 12 1 == 0, .rMode)] (.cmpne (fld w 11 1) (fld w 0 10) wr)
  | 15 => need [(fld w 10 1 == 0, .resBit), (fld w 15 1 == 0, .rMode), (fld w 13 2 == 0, .rMode), (fld w 12 1 == 0, .rMode)] (.cmplt (fld w 11 1) (fld w 0 10) wr)
  | _ => .error .opRes

/-- Opcodes 0x20-0x2F of the opcode map (R44). -/
def decodeOp2 (lo : Nat) (w : BitVec 24) (wr : Wires) : Except DecErr Instr :=
  match lo with
  | 0 => need [(fld w 10 1 == 0, .resBit), (fld w 15 1 == 0, .rMode), (fld w 13 2 == 0, .rMode), (fld w 12 1 == 0, .rMode)] (.cmple (fld w 11 1) (fld w 0 10) wr)
  | 1 => need [(fld w 10 1 == 0, .resBit), (fld w 15 1 == 0, .rMode), (fld w 13 2 == 0, .rMode), (fld w 12 1 == 0, .rMode)] (.cmpltn (fld w 11 1) (fld w 0 10) wr)
  | 2 => need [(fld w 10 1 == 0, .resBit), (fld w 15 1 == 0, .rMode), (fld w 13 2 == 0, .rMode), (fld w 12 1 == 0, .rMode)] (.cmplen (fld w 11 1) (fld w 0 10) wr)
  | 3 => need [] (.movi (fld w 0 16) wr)
  | 4 => need [] (.movhi (fld w 0 16) wr)
  | 5 => if fld w 9 1 == 0 then need [(fld w 10 1 == 0, .resBit), (fld w 9 1 == 0, .resBit), (fld w 15 1 == 0, .rMode), (fld w 13 2 == 0, .rMode), (fld w 12 1 == 0, .rMode)] (.mov (fld w 11 1) (fld w 0 9) wr)
    else if fld w 8 1 == 0 then need [(fld w 10 1 == 0, .resBit), (fld w 1 9 == 256, .resBit), (fld w 15 1 == 0, .rMode), (fld w 13 2 == 0, .rMode), (fld w 12 1 == 0, .rMode)] (.movSpecialRead (fld w 11 1) (fld w 0 1) wr)
    else need [(fld w 10 1 == 0, .resBit), (fld w 1 9 == 384, .resBit), (fld w 15 1 == 0, .rMode), (fld w 13 2 == 0, .rMode), (fld w 12 1 == 0, .rMode)] (.movSpecialWrite (fld w 11 1) (fld w 0 1) wr)
  | 6 => need [(fld w 10 1 == 0, .resBit), (fld w 15 1 == 0, .rMode), (fld w 13 2 == 0, .rMode), (fld w 12 1 == 0, .rMode)] (.sext (fld w 11 1) (fld w 0 10) wr)
  | 7 => need [(fld w 10 1 == 0, .resBit), (fld w 15 1 == 0, .rMode), (fld w 13 2 == 0, .rMode), (fld w 12 1 == 0, .rMode)] (.bfx (fld w 11 1) (fld w 0 10) wr)
  | 8 => need [(fld w 10 1 == 0, .resBit), (fld w 15 1 == 0, .rMode), (fld w 13 2 == 0, .rMode), (fld w 12 1 == 0, .rMode)] (.bfi (fld w 11 1) (fld w 0 10) wr)
  | 9 => need [(fld w 10 1 == 0, .resBit), (fld w 15 1 == 0, .rMode), (fld w 13 2 == 0, .rMode), (fld w 12 1 == 0, .rMode)] (.adds (fld w 11 1) (fld w 0 10) wr)
  | 10 => need [(fld w 10 1 == 0, .resBit), (fld w 15 1 == 0, .rMode), (fld w 13 2 == 0, .rMode), (fld w 12 1 == 0, .rMode)] (.subs (fld w 11 1) (fld w 0 10) wr)
  | _ => .error .opRes

/-- Opcodes 0x30-0x3F of the opcode map (R44). -/
def decodeOp3 (lo : Nat) (w : BitVec 24) (wr : Wires) : Except DecErr Instr :=
  match lo with
  | 0 => need [(fld w 10 1 == 0, .resBit), (fld w 0 10 == 0, .resBit), (fld w 12 1 == 0, .rMode)] (.fadd (fld w 13 3) (fld w 11 1) wr)
  | 1 => need [(fld w 10 1 == 0, .resBit), (fld w 0 10 == 0, .resBit), (fld w 12 1 == 0, .rMode)] (.fsub (fld w 13 3) (fld w 11 1) wr)
  | 2 => need [(fld w 10 1 == 0, .resBit), (fld w 0 10 == 0, .resBit), (fld w 12 1 == 0, .rMode)] (.fmul (fld w 13 3) (fld w 11 1) wr)
  | 3 => need [(fld w 10 1 == 0, .resBit), (fld w 0 10 == 0, .resBit), (fld w 12 1 == 0, .rMode)] (.fma (fld w 13 3) (fld w 11 1) wr)
  | 4 => need [(fld w 10 1 == 0, .resBit), (fld w 0 10 == 0, .resBit), (fld w 12 1 == 0, .rMode)] (.fms (fld w 13 3) (fld w 11 1) wr)
  | 5 => need [(fld w 10 1 == 0, .resBit), (fld w 0 10 == 0, .resBit), (fld w 12 1 == 0, .rMode)] (.fnma (fld w 13 3) (fld w 11 1) wr)
  | 6 => need [(fld w 10 1 == 0, .resBit), (fld w 0 10 == 0, .resBit), (fld w 15 1 == 0, .rMode), (fld w 13 2 == 0, .rMode), (fld w 12 1 == 0, .rMode)] (.fmin (fld w 11 1) wr)
  | 7 => need [(fld w 10 1 == 0, .resBit), (fld w 0 10 == 0, .resBit), (fld w 15 1 == 0, .rMode), (fld w 13 2 == 0, .rMode), (fld w 12 1 == 0, .rMode)] (.fmax (fld w 11 1) wr)
  | 8 => need [(fld w 10 1 == 0, .resBit), (fld w 0 10 == 0, .resBit), (fld w 15 1 == 0, .rMode), (fld w 13 2 == 0, .rMode), (fld w 12 1 == 0, .rMode)] (.fabs (fld w 11 1) wr)
  | 9 => need [(fld w 10 1 == 0, .resBit), (fld w 0 10 == 0, .resBit), (fld w 15 1 == 0, .rMode), (fld w 13 2 == 0, .rMode), (fld w 12 1 == 0, .rMode)] (.fneg (fld w 11 1) wr)
  | 10 => need [(fld w 10 1 == 0, .resBit), (fld w 0 10 == 0, .resBit), (fld w 15 1 == 0, .rMode), (fld w 13 2 == 0, .rMode), (fld w 12 1 == 0, .rMode)] (.fcmpeq (fld w 11 1) wr)
  | 11 => need [(fld w 10 1 == 0, .resBit), (fld w 0 10 == 0, .resBit), (fld w 15 1 == 0, .rMode), (fld w 13 2 == 0, .rMode), (fld w 12 1 == 0, .rMode)] (.fcmplt (fld w 11 1) wr)
  | 12 => need [(fld w 10 1 == 0, .resBit), (fld w 0 10 == 0, .resBit), (fld w 15 1 == 0, .rMode), (fld w 13 2 == 0, .rMode), (fld w 12 1 == 0, .rMode)] (.fcmple (fld w 11 1) wr)
  | 13 => need [(fld w 10 1 == 0, .resBit), (fld w 0 10 == 0, .resBit), (fld w 15 1 == 0, .rMode), (fld w 13 2 == 0, .rMode), (fld w 12 1 == 0, .rMode)] (.fcmpun (fld w 11 1) wr)
  | 14 => need [(fld w 10 1 == 0, .resBit), (fld w 0 10 == 0, .resBit)] (.fcvt (fld w 13 3) (fld w 12 1) (fld w 11 1) wr)
  | 15 => need [(fld w 10 1 == 0, .resBit), (fld w 0 10 == 0, .resBit), (fld w 15 1 == 0, .rMode), (fld w 13 2 == 0, .rMode), (fld w 12 1 == 0, .rMode)] (.fclass (fld w 11 1) wr)
  | _ => .error .opRes

/-- Opcodes 0x40-0x4F of the opcode map (R44). -/
def decodeOp4 (lo : Nat) (w : BitVec 24) (wr : Wires) : Except DecErr Instr :=
  match lo with
  | 0 => need [(fld w 10 1 == 0, .resBit), (fld w 0 10 == 0, .resBit), (fld w 12 1 == 0, .rMode)] (.frnd (fld w 13 3) (fld w 11 1) wr)
  | 1 => need [(fld w 10 1 == 0, .resBit), (fld w 0 10 == 0, .resBit)] (.ftoi (fld w 13 3) (fld w 12 1) (fld w 11 1) wr)
  | 2 => need [(fld w 10 1 == 0, .resBit), (fld w 0 10 == 0, .resBit), (fld w 12 1 == 0, .rMode)] (.itof (fld w 13 3) (fld w 11 1) wr)
  | 3 => need [(fld w 10 1 == 0, .resBit), (fld w 0 10 == 0, .resBit), (fld w 12 1 == 0, .rMode)] (.fscale (fld w 13 3) (fld w 11 1) wr)
  | 4 => need [(fld w 10 1 == 0, .resBit), (fld w 0 10 == 0, .resBit), (fld w 12 1 == 0, .rMode)] (.fdot2 (fld w 13 3) (fld w 11 1) wr)
  | 5 => need [(fld w 10 1 == 0, .resBit), (fld w 0 10 == 0, .resBit), (fld w 15 1 == 0, .rMode), (fld w 13 2 == 0, .rMode), (fld w 12 1 == 0, .rMode)] (.fexpn (fld w 11 1) wr)
  | 6 => need [(fld w 10 1 == 0, .resBit), (fld w 0 10 == 0, .resBit), (fld w 15 1 == 0, .rMode), (fld w 13 2 == 0, .rMode), (fld w 12 1 == 0, .rMode)] (.fmant (fld w 11 1) wr)
  | 7 => need [(fld w 4 4 == 0, .resBit), (fld w 10 1 == 0, .resBit)] (.qnt (fld w 13 3) (fld w 12 1) (fld w 11 1) (fld w 8 2) (fld w 0 4) wr)
  | 8 => need [(fld w 10 1 == 0, .resBit), (fld w 0 10 == 0, .resBit), (fld w 12 1 == 0, .rMode)] (.dqnt (fld w 13 3) (fld w 11 1) wr)
  | _ => .error .opRes

/-- Opcodes 0x50-0x5F of the opcode map (R44). -/
def decodeOp5 (lo : Nat) (w : BitVec 24) (wr : Wires) : Except DecErr Instr :=
  match lo with
  | 0 => need [(fld w 10 1 == 0, .resBit), (fld w 2 8 == 0, .resBit), (fld w 12 1 == 0, .rMode)] (.lut (fld w 13 3) (fld w 11 1) (fld w 0 2) wr)
  | 1 => need [(fld w 5 3 == 0, .resBit), (fld w 10 1 == 0, .resBit), (fld w 15 1 == 0, .rMode), (fld w 13 2 == 0, .rMode), (fld w 12 1 == 0, .rMode)] (.lutix (fld w 11 1) (fld w 8 2) (fld w 0 5) wr)
  | 2 => need [(fld w 10 1 == 0, .resBit), (fld w 0 10 == 0, .resBit), (fld w 15 1 == 0, .rMode), (fld w 13 2 == 0, .rMode), (fld w 12 1 == 0, .rMode)] (.rredf (fld w 11 1) wr)
  | 3 => need [(fld w 10 1 == 0, .resBit), (fld w 0 10 == 0, .resBit), (fld w 15 1 == 0, .rMode), (fld w 13 2 == 0, .rMode), (fld w 12 1 == 0, .rMode)] (.rredn (fld w 11 1) wr)
  | 4 => need [(fld w 10 1 == 0, .resBit), (fld w 0 10 == 0, .resBit), (fld w 12 1 == 0, .rMode)] (.rexp (fld w 13 3) (fld w 11 1) wr)
  | 5 => need [(fld w 10 1 == 0, .resBit), (fld w 0 10 == 0, .resBit), (fld w 12 1 == 0, .rMode)] (.lutsel (fld w 13 3) (fld w 11 1) wr)
  | 8 => need [(fld w 4 4 == 0, .subOp)] (.steer (fld w 12 4) (fld w 8 4) (fld w 0 4) wr)
  | 9 => need [(fld w 0 8 == 0, .subOp)] (.merge (fld w 12 4) (fld w 8 4) wr)
  | 10 => need [(fld w 0 8 == 0, .subOp), (fld w 12 4 == 0, .subOp)] (.mergea (fld w 8 4) wr)
  | 11 => need [(fld w 1 7 == 0, .subOp)] (.gate (fld w 12 4) (fld w 8 4) (fld w 0 1) wr)
  | 12 => need [(fld w 1 7 == 0, .subOp)] (.drop (fld w 12 4) (fld w 8 4) (fld w 0 1) wr)
  | 13 => need [(fld w 1 7 == 0, .subOp)] (.cemit (fld w 12 4) (fld w 8 4) (fld w 0 1) wr)
  | 14 => need [(fld w 12 4 == 0, .subOp)] (.ctest (fld w 8 4) (fld w 0 8) wr)
  | 15 => need [(fld w 3 5 == 0, .subOp)] (.cand (fld w 12 4) (fld w 8 4) (fld w 0 3) wr)
  | _ => .error .opRes

/-- Opcodes 0x60-0x6F of the opcode map (R44). -/
def decodeOp6 (lo : Nat) (w : BitVec 24) (wr : Wires) : Except DecErr Instr :=
  match lo with
  | 0 => need [(fld w 3 5 == 0, .subOp)] (.cor (fld w 12 4) (fld w 8 4) (fld w 0 3) wr)
  | 1 => need [(fld w 0 8 == 0, .subOp)] (.cnot (fld w 12 4) (fld w 8 4) wr)
  | 2 => need [(fld w 8 4 == 0, .resBit), (fld w 1 7 == 0, .subOp)] (.eose (fld w 12 4) (fld w 0 1) wr)
  | 3 => need [(fld w 1 7 == 0, .subOp), (fld w 12 4 == 0, .subOp)] (.eosq (fld w 8 4) (fld w 0 1) wr)
  | 4 => need [(fld w 12 4 == 0, .subOp), (fld w 8 4 == 0, .resBit), (fld w 2 6 == 0, .subOp)] (.cnti (fld w 0 2) wr)
  | 5 => need [(fld w 3 5 == 0, .subOp)] (.cnts (fld w 12 4) (fld w 8 4) (fld w 0 3) wr)
  | 6 => need [(fld w 12 4 == 0, .subOp), (fld w 8 4 == 0, .resBit), (fld w 3 5 == 0, .subOp)] (.cntl (fld w 0 3) wr)
  | 7 => need [(fld w 8 4 == 0, .resBit), (fld w 3 5 == 0, .subOp)] (.phase (fld w 12 4) (fld w 0 3) wr)
  | 8 => need [(fld w 8 4 == 0, .resBit), (fld w 2 6 == 0, .subOp)] (.ctxp (fld w 12 4) (fld w 0 2) wr)
  | 9 => need [(fld w 12 4 == 0, .subOp), (fld w 8 4 == 0, .resBit), (fld w 2 6 == 0, .subOp)] (.rowq (fld w 0 2) wr)
  | 10 => need [(fld w 12 4 == 0, .subOp), (fld w 8 4 == 0, .resBit), (fld w 2 6 == 0, .subOp)] (.iofq (fld w 0 2) wr)
  | 11 => need [(fld w 12 4 == 0, .subOp), (fld w 8 4 == 0, .resBit), (fld w 3 5 == 0, .subOp)] (.frmq (fld w 0 3) wr)
  | 12 => need [(fld w 12 4 == 0, .subOp), (fld w 8 4 == 0, .resBit), (fld w 4 4 == 0, .subOp)] (.dly (fld w 0 4) wr)
  | 13 => need [(fld w 3 5 == 0, .subOp)] (.armx (fld w 12 4) (fld w 8 4) (fld w 0 3) wr)
  | _ => .error .opRes

/-- Opcodes 0x70-0x7F of the opcode map (R44). -/
def decodeOp7 (lo : Nat) (w : BitVec 24) (wr : Wires) : Except DecErr Instr :=
  match lo with
  | 0 => need [(fld w 4 2 == 0, .subOp), (fld w 0 4 == 0, .subOp)] (.talloc (fld w 10 6) (fld w 9 1) (fld w 8 1) (fld w 6 2) wr)
  | 1 => need [(fld w 4 2 == 0, .subOp), (fld w 0 4 == 0, .subOp), (fld w 10 6 == 0, .resBit)] (.tfree (fld w 9 1) (fld w 8 1) (fld w 6 2) wr)
  | 2 => need [(fld w 10 6 == 0, .resBit)] (.tqry (fld w 9 1) (fld w 8 1) (fld w 6 2) (fld w 4 2) (fld w 0 4) wr)
  | 3 => need [] (.ldt (fld w 12 4) (fld w 10 2) (fld w 9 1) (fld w 8 1) (fld w 7 1) (fld w 0 7) wr)
  | 4 => need [(fld w 9 1 == 0, .resBit)] (.stt (fld w 12 4) (fld w 10 2) (fld w 8 1) (fld w 7 1) (fld w 0 7) wr)
  | 5 => need [] (.ldts (fld w 12 4) (fld w 10 2) (fld w 9 1) (fld w 8 1) (fld w 7 1) (fld w 0 7) wr)
  | 6 => need [(fld w 9 1 == 0, .resBit)] (.sttf (fld w 12 4) (fld w 10 2) (fld w 8 1) (fld w 7 1) (fld w 0 7) wr)
  | 7 => need [] (.ldte (fld w 12 4) (fld w 10 2) (fld w 9 1) (fld w 8 1) (fld w 7 1) (fld w 0 7) wr)
  | 8 => need [(fld w 9 1 == 0, .resBit)] (.feset (fld w 12 4) (fld w 10 2) (fld w 8 1) (fld w 7 1) (fld w 0 7) wr)
  | 9 => need [(fld w 9 1 == 0, .resBit)] (.feq (fld w 12 4) (fld w 10 2) (fld w 8 1) (fld w 7 1) (fld w 0 7) wr)
  | 10 => need [(fld w 4 2 == 0, .subOp), (fld w 0 4 == 0, .subOp)] (.tcopy (fld w 10 6) (fld w 9 1) (fld w 8 1) (fld w 6 2) wr)
  | 11 => need [(fld w 4 2 == 0, .subOp), (fld w 0 4 == 0, .subOp)] (.tfill (fld w 10 6) (fld w 9 1) (fld w 8 1) (fld w 6 2) wr)
  | 12 => need [(fld w 10 6 == 0, .resBit)] (.tlevel (fld w 9 1) (fld w 8 1) (fld w 6 2) (fld w 4 2) (fld w 0 4) wr)
  | _ => .error .opRes

/-- Opcodes 0x80-0x8F of the opcode map (R44). -/
def decodeOp8 (lo : Nat) (w : BitVec 24) (wr : Wires) : Except DecErr Instr :=
  match lo with
  | 0 => need [] (.gld (fld w 12 4) (fld w 10 2) (fld w 9 1) (fld w 8 1) (fld w 7 1) (fld w 0 7) wr)
  | 1 => need [(fld w 9 1 == 0, .resBit)] (.gst (fld w 12 4) (fld w 10 2) (fld w 8 1) (fld w 7 1) (fld w 0 7) wr)
  | 2 => need [] (.glds (fld w 12 4) (fld w 10 2) (fld w 9 1) (fld w 8 1) (fld w 7 1) (fld w 0 7) wr)
  | 3 => need [(fld w 9 1 == 0, .resBit)] (.gstf (fld w 12 4) (fld w 10 2) (fld w 8 1) (fld w 7 1) (fld w 0 7) wr)
  | 4 => need [(fld w 4 2 == 0, .subOp)] (.strmi (fld w 10 6) (fld w 9 1) (fld w 8 1) (fld w 6 2) (fld w 0 4) wr)
  | 5 => need [(fld w 4 2 == 0, .subOp)] (.strmo (fld w 10 6) (fld w 9 1) (fld w 8 1) (fld w 6 2) (fld w 0 4) wr)
  | 6 => need [(fld w 4 2 == 0, .subOp)] (.gath (fld w 10 6) (fld w 9 1) (fld w 8 1) (fld w 6 2) (fld w 0 4) wr)
  | 7 => need [(fld w 4 2 == 0, .subOp)] (.scat (fld w 10 6) (fld w 9 1) (fld w 8 1) (fld w 6 2) (fld w 0 4) wr)
  | 8 => need [(fld w 10 6 == 0, .resBit)] (.sprg (fld w 9 1) (fld w 8 1) (fld w 6 2) (fld w 4 2) (fld w 0 4) wr)
  | 9 => need [(fld w 0 4 == 0, .subOp), (fld w 10 6 == 0, .resBit)] (.sabt (fld w 9 1) (fld w 8 1) (fld w 6 2) (fld w 4 2) wr)
  | 10 => need [(fld w 0 4 == 0, .subOp), (fld w 10 6 == 0, .resBit)] (.sres (fld w 9 1) (fld w 8 1) (fld w 6 2) (fld w 4 2) wr)
  | 11 => need [(fld w 9 1 == 0, .resBit), (fld w 11 1 == 1, .queue)] (.aadd (fld w 12 4) (fld w 10 1) (fld w 8 1) (fld w 7 1) (fld w 0 7) wr)
  | 12 => need [(fld w 9 1 == 0, .resBit), (fld w 11 1 == 1, .queue)] (.amin (fld w 12 4) (fld w 10 1) (fld w 8 1) (fld w 7 1) (fld w 0 7) wr)
  | 13 => need [(fld w 9 1 == 0, .resBit), (fld w 11 1 == 1, .queue)] (.amax (fld w 12 4) (fld w 10 1) (fld w 8 1) (fld w 7 1) (fld w 0 7) wr)
  | 14 => need [(fld w 9 1 == 0, .resBit), (fld w 11 1 == 1, .queue)] (.aand (fld w 12 4) (fld w 10 1) (fld w 8 1) (fld w 7 1) (fld w 0 7) wr)
  | 15 => need [(fld w 9 1 == 0, .resBit), (fld w 11 1 == 1, .queue)] (.aor (fld w 12 4) (fld w 10 1) (fld w 8 1) (fld w 7 1) (fld w 0 7) wr)
  | _ => .error .opRes

/-- Opcodes 0x90-0x9F of the opcode map (R44). -/
def decodeOp9 (lo : Nat) (w : BitVec 24) (wr : Wires) : Except DecErr Instr :=
  match lo with
  | 0 => need [(fld w 9 1 == 0, .resBit), (fld w 11 1 == 1, .queue)] (.axch (fld w 12 4) (fld w 10 1) (fld w 8 1) (fld w 7 1) (fld w 0 7) wr)
  | 1 => need [(fld w 9 1 == 0, .resBit), (fld w 11 1 == 1, .queue)] (.acas (fld w 12 4) (fld w 10 1) (fld w 8 1) (fld w 7 1) (fld w 0 7) wr)
  | 2 => need [(fld w 11 1 == 1, .queue), (fld w 10 1 == 0, .opType), (fld w 9 1 == 0, .resBit)] (.afadd (fld w 12 4) (fld w 8 1) (fld w 7 1) (fld w 0 7) wr)
  | 3 => need [(fld w 10 6 == 0, .resBit), (fld w 9 1 == 0, .queue), (fld w 8 1 == 0, .queue), (fld w 6 2 == 0, .queue), (fld w 4 2 == 0, .subOp)] (.fence (fld w 0 4) wr)
  | 4 => need [(fld w 10 6 == 0, .resBit), (fld w 9 1 == 0, .queue), (fld w 8 1 == 0, .queue), (fld w 6 2 == 0, .queue), (fld w 4 2 == 0, .subOp), (fld w 0 4 == 0, .subOp)] (.rels wr)
  | 5 => need [(fld w 10 6 == 0, .resBit), (fld w 9 1 == 0, .queue), (fld w 8 1 == 0, .queue), (fld w 6 2 == 0, .queue), (fld w 4 2 == 0, .subOp), (fld w 0 4 == 0, .subOp)] (.acqs wr)
  | 6 => need [(fld w 4 2 == 0, .subOp), (fld w 0 4 == 0, .subOp)] (.xfer (fld w 10 6) (fld w 9 1) (fld w 8 1) (fld w 6 2) wr)
  | 7 => need [(fld w 4 2 == 0, .subOp), (fld w 0 4 == 0, .subOp)] (.mirr (fld w 10 6) (fld w 9 1) (fld w 8 1) (fld w 6 2) wr)
  | 8 => need [(fld w 4 2 == 0, .subOp), (fld w 0 4 == 0, .subOp)] (.coll (fld w 10 6) (fld w 9 1) (fld w 8 1) (fld w 6 2) wr)
  | 9 => .error .taskOnly
  | _ => .error .opRes

/-- Opcodes 0xA0-0xAF of the opcode map (R44). -/
def decodeOpA (lo : Nat) (w : BitVec 24) (wr : Wires) : Except DecErr Instr :=
  match lo with
  | 0 => need [(fld w 4 2 == 0, .subOp), (fld w 0 4 == 0, .subOp)] (.mma (fld w 10 6) (fld w 9 1) (fld w 8 1) (fld w 6 2) wr)
  | 1 => need [(fld w 4 2 == 0, .subOp), (fld w 0 4 == 0, .subOp)] (.mmas (fld w 10 6) (fld w 9 1) (fld w 8 1) (fld w 6 2) wr)
  | 2 => need [(fld w 4 2 == 0, .subOp), (fld w 0 4 == 0, .subOp)] (.mmav (fld w 10 6) (fld w 9 1) (fld w 8 1) (fld w 6 2) wr)
  | 3 => need [(fld w 4 2 == 0, .subOp), (fld w 0 4 == 0, .subOp)] (.mmab (fld w 10 6) (fld w 9 1) (fld w 8 1) (fld w 6 2) wr)
  | 4 => need [(fld w 4 2 == 0, .subOp)] (.macc (fld w 10 6) (fld w 9 1) (fld w 8 1) (fld w 6 2) (fld w 0 4) wr)
  | 5 => need [(fld w 0 4 == 0, .subOp)] (.mdrn (fld w 10 6) (fld w 9 1) (fld w 8 1) (fld w 6 2) (fld w 4 2) wr)
  | 6 => need [(fld w 10 6 == 0, .resBit), (fld w 9 1 == 0, .queue), (fld w 8 1 == 0, .queue), (fld w 6 2 == 0, .queue), (fld w 4 2 == 0, .subOp)] (.mprg (fld w 0 4) wr)
  | 7 => need [(fld w 10 6 == 0, .resBit), (fld w 9 1 == 0, .queue), (fld w 8 1 == 0, .queue), (fld w 6 2 == 0, .queue), (fld w 4 2 == 0, .subOp), (fld w 0 4 == 0, .subOp)] (.mres wr)
  | 8 => need [(fld w 10 6 == 0, .resBit), (fld w 9 1 == 0, .queue), (fld w 8 1 == 0, .queue), (fld w 6 2 == 0, .queue), (fld w 4 2 == 0, .subOp), (fld w 0 4 == 0, .subOp)] (.mabt wr)
  | 9 => need [(fld w 4 2 == 0, .subOp), (fld w 0 4 == 0, .subOp), (fld w 10 6 == 0, .resBit)] (.mshp (fld w 9 1) (fld w 8 1) (fld w 6 2) wr)
  | _ => .error .opRes

/-- Opcodes 0xB0-0xBF of the opcode map (R44). -/
def decodeOpB (lo : Nat) (w : BitVec 24) (wr : Wires) : Except DecErr Instr :=
  match lo with
  | 0 => need [] (.xld (fld w 10 6) (fld w 9 1) (fld w 8 1) (fld w 6 2) (fld w 4 2) (fld w 0 4) wr)
  | 1 => need [(fld w 4 2 == 0, .subOp), (fld w 0 4 == 0, .subOp)] (.xst (fld w 10 6) (fld w 9 1) (fld w 8 1) (fld w 6 2) wr)
  | 2 => need [(fld w 4 2 == 0, .subOp), (fld w 3 1 == 0, .subOp)] (.cbld (fld w 10 6) (fld w 9 1) (fld w 8 1) (fld w 6 2) (fld w 0 3) wr)
  | 3 => need [(fld w 3 1 == 0, .subOp), (fld w 10 6 == 0, .resBit)] (.vqx (fld w 9 1) (fld w 8 1) (fld w 6 2) (fld w 4 2) (fld w 0 3) wr)
  | 4 => need [(fld w 4 2 == 0, .subOp), (fld w 0 4 == 0, .subOp)] (.compm (fld w 10 6) (fld w 9 1) (fld w 8 1) (fld w 6 2) wr)
  | 5 => need [(fld w 4 2 == 0, .subOp), (fld w 0 4 == 0, .subOp)] (.expdm (fld w 10 6) (fld w 9 1) (fld w 8 1) (fld w 6 2) wr)
  | 6 => need [(fld w 4 2 == 0, .subOp), (fld w 0 4 == 0, .subOp)] (.fibp (fld w 10 6) (fld w 9 1) (fld w 8 1) (fld w 6 2) wr)
  | 7 => need [(fld w 4 2 == 0, .subOp), (fld w 0 4 == 0, .subOp)] (.fibu (fld w 10 6) (fld w 9 1) (fld w 8 1) (fld w 6 2) wr)
  | 8 => need [(fld w 4 2 == 0, .subOp)] (.isect (fld w 10 6) (fld w 9 1) (fld w 8 1) (fld w 6 2) (fld w 0 4) wr)
  | 9 => need [(fld w 4 2 == 0, .subOp), (fld w 0 4 == 0, .subOp)] (.dcmpj (fld w 10 6) (fld w 9 1) (fld w 8 1) (fld w 6 2) wr)
  | 10 => need [(fld w 10 6 == 0, .resBit)] (.dcmpq (fld w 9 1) (fld w 8 1) (fld w 6 2) (fld w 4 2) (fld w 0 4) wr)
  | 11 => need [(fld w 4 2 == 0, .subOp)] (.lzcp (fld w 10 6) (fld w 9 1) (fld w 8 1) (fld w 6 2) (fld w 0 4) wr)
  | 12 => need [(fld w 9 1 == 0, .queue), (fld w 8 1 == 0, .queue), (fld w 6 2 == 0, .queue), (fld w 4 2 == 0, .subOp), (fld w 0 4 == 0, .subOp)] (.layw (fld w 10 6) wr)
  | 13 => need [(fld w 0 4 == 0, .subOp), (fld w 9 1 == 0, .queue), (fld w 8 1 == 0, .queue), (fld w 6 2 == 0, .queue)] (.layr (fld w 10 6) (fld w 4 2) wr)
  | 14 => need [(fld w 4 2 == 0, .subOp), (fld w 0 4 == 0, .subOp)] (.trns (fld w 10 6) (fld w 9 1) (fld w 8 1) (fld w 6 2) wr)
  | 15 => need [(fld w 4 2 == 0, .subOp), (fld w 0 4 == 0, .subOp)] (.redx (fld w 10 6) (fld w 9 1) (fld w 8 1) (fld w 6 2) wr)
  | _ => .error .opRes

/-- Opcodes 0xC0-0xCF of the opcode map (R44). -/
def decodeOpC (lo : Nat) (w : BitVec 24) (wr : Wires) : Except DecErr Instr :=
  match lo with
  | 4 => need [(fld w 9 1 == 0, .queue), (fld w 8 1 == 0, .queue), (fld w 6 2 == 0, .queue), (fld w 4 2 == 0, .subOp), (fld w 0 4 == 0, .subOp)] (.cinit (fld w 10 6) wr)
  | 5 => need [(fld w 0 4 == 0, .subOp), (fld w 9 1 == 0, .queue), (fld w 8 1 == 0, .queue), (fld w 6 2 == 0, .queue)] (.carr (fld w 10 6) (fld w 4 2) wr)
  | 6 => need [(fld w 9 1 == 0, .queue), (fld w 8 1 == 0, .queue), (fld w 6 2 == 0, .queue), (fld w 4 2 == 0, .subOp), (fld w 0 4 == 0, .subOp)] (.cexpb (fld w 10 6) wr)
  | 7 => need [(fld w 9 1 == 0, .queue), (fld w 8 1 == 0, .queue), (fld w 6 2 == 0, .queue), (fld w 4 2 == 0, .subOp)] (.cqry (fld w 10 6) (fld w 0 4) wr)
  | 8 => need [(fld w 9 1 == 0, .queue), (fld w 8 1 == 0, .queue), (fld w 6 2 == 0, .queue), (fld w 4 2 == 0, .subOp), (fld w 0 4 == 0, .subOp)] (.cdrop (fld w 10 6) wr)
  | 12 => need [(fld w 9 1 == 0, .queue), (fld w 8 1 == 0, .queue), (fld w 6 2 == 0, .queue), (fld w 4 2 == 0, .subOp), (fld w 0 4 == 0, .subOp)] (.tapeb (fld w 10 6) wr)
  | 13 => need [(fld w 10 6 == 0, .resBit), (fld w 9 1 == 0, .queue), (fld w 8 1 == 0, .queue), (fld w 6 2 == 0, .queue), (fld w 4 2 == 0, .subOp), (fld w 0 4 == 0, .subOp)] (.tapee wr)
  | 14 => need [(fld w 0 4 == 0, .subOp), (fld w 9 1 == 0, .queue), (fld w 8 1 == 0, .queue), (fld w 6 2 == 0, .queue), (fld w 5 1 == 0, .subOp)] (.tapev (fld w 10 6) (fld w 4 1) wr)
  | 15 => need [(fld w 9 1 == 0, .queue), (fld w 8 1 == 0, .queue), (fld w 6 2 == 0, .queue), (fld w 4 2 == 0, .subOp), (fld w 0 4 == 0, .subOp)] (.taper (fld w 10 6) wr)
  | _ => .error .opRes

/-- Opcodes 0xD0-0xDF of the opcode map (R44). -/
def decodeOpD (lo : Nat) (w : BitVec 24) (wr : Wires) : Except DecErr Instr :=
  match lo with
  | 0 => need [(fld w 9 1 == 0, .queue), (fld w 8 1 == 0, .queue), (fld w 6 2 == 0, .queue), (fld w 4 2 == 0, .subOp), (fld w 0 4 == 0, .subOp)] (.tapep (fld w 10 6) wr)
  | 1 => need [(fld w 10 6 == 0, .resBit), (fld w 9 1 == 0, .queue), (fld w 8 1 == 0, .queue), (fld w 6 2 == 0, .queue), (fld w 4 2 == 0, .subOp), (fld w 0 4 == 0, .subOp)] (.tapec wr)
  | 2 => need [(fld w 10 6 == 0, .resBit), (fld w 9 1 == 0, .queue), (fld w 8 1 == 0, .queue), (fld w 6 2 == 0, .queue), (fld w 4 2 == 0, .subOp)] (.tapeq (fld w 0 4) wr)
  | 3 => need [(fld w 9 1 == 0, .queue), (fld w 8 1 == 0, .queue), (fld w 6 2 == 0, .queue), (fld w 4 2 == 0, .subOp), (fld w 0 4 == 0, .subOp)] (.tapek (fld w 10 6) wr)
  | 4 => need [(fld w 10 6 == 0, .resBit), (fld w 9 1 == 0, .queue), (fld w 8 1 == 0, .queue), (fld w 6 2 == 0, .queue), (fld w 4 2 == 0, .subOp), (fld w 0 4 == 0, .subOp)] (.mark wr)
  | 5 => need [(fld w 10 6 == 0, .resBit), (fld w 9 1 == 0, .queue), (fld w 8 1 == 0, .queue), (fld w 6 2 == 0, .queue), (fld w 4 2 == 0, .subOp)] (.snapq (fld w 0 4) wr)
  | 6 => need [(fld w 10 6 == 0, .resBit), (fld w 9 1 == 0, .queue), (fld w 8 1 == 0, .queue), (fld w 6 2 == 0, .queue), (fld w 4 2 == 0, .subOp), (fld w 0 4 == 0, .subOp)] (.rtag wr)
  | 7 => need [(fld w 10 6 == 0, .resBit), (fld w 9 1 == 0, .queue), (fld w 8 1 == 0, .queue), (fld w 6 2 == 0, .queue), (fld w 4 2 == 0, .subOp)] (.poisn (fld w 0 4) wr)
  | 8 => need [(fld w 10 6 == 0, .resBit), (fld w 9 1 == 0, .queue), (fld w 8 1 == 0, .queue), (fld w 6 2 == 0, .queue), (fld w 4 2 == 0, .subOp), (fld w 0 4 == 0, .subOp)] (.poisq wr)
  | 9 => need [(fld w 10 6 == 0, .resBit), (fld w 9 1 == 0, .queue), (fld w 8 1 == 0, .queue), (fld w 6 2 == 0, .queue), (fld w 4 2 == 0, .subOp)] (.verd (fld w 0 4) wr)
  | 10 => .error .taskOnly
  | 11 => .error .taskOnly
  | 12 => need [(fld w 9 1 == 0, .queue), (fld w 8 1 == 0, .queue), (fld w 6 2 == 0, .queue), (fld w 4 2 == 0, .subOp), (fld w 0 4 == 0, .subOp)] (.cmpv (fld w 10 6) wr)
  | _ => .error .opRes

/-- Opcodes 0xE0-0xEF of the opcode map (R44). -/
def decodeOpE (lo : Nat) (_w : BitVec 24) (_wr : Wires) : Except DecErr Instr :=
  match lo with
  | 0 => .error .taskOnly
  | 1 => .error .taskOnly
  | 2 => .error .taskOnly
  | 3 => .error .taskOnly
  | 4 => .error .taskOnly
  | 5 => .error .taskOnly
  | 6 => .error .taskOnly
  | 7 => .error .taskOnly
  | 8 => .error .taskOnly
  | 9 => .error .taskOnly
  | 10 => .error .taskOnly
  | 11 => .error .taskOnly
  | 12 => .error .taskOnly
  | 13 => .error .taskOnly
  | 14 => .error .taskOnly
  | 15 => .error .taskOnly
  | _ => .error .opRes

/-- Opcodes 0xF0-0xFF of the opcode map (R44). -/
def decodeOpF (lo : Nat) (_w : BitVec 24) (_wr : Wires) : Except DecErr Instr :=
  match lo with
  | 0 => .error .taskOnly
  | 1 => .error .taskOnly
  | 2 => .error .taskOnly
  | 3 => .error .taskOnly
  | 4 => .error .taskOnly
  | 5 => .error .taskOnly
  | 6 => .error .taskOnly
  | 7 => .error .taskOnly
  | 8 => .error .taskOnly
  | 9 => .error .taskOnly
  | 10 => .error .taskOnly
  | 11 => .error .taskOnly
  | 12 => .error .taskOnly
  | 13 => .error .taskOnly
  | 14 => .error .taskOnly
  | _ => .error .opRes

/-- The op word of a row, its route and register-address fields already taken apart. -/
def decodeOp (w : BitVec 24) (wr : Wires) : Except DecErr Instr :=
  let lo := (fld w 16 4).toNat
  match (fld w 20 4).toNat with
  | 0 => decodeOp0 lo w wr
  | 1 => decodeOp1 lo w wr
  | 2 => decodeOp2 lo w wr
  | 3 => decodeOp3 lo w wr
  | 4 => decodeOp4 lo w wr
  | 5 => decodeOp5 lo w wr
  | 6 => decodeOp6 lo w wr
  | 7 => decodeOp7 lo w wr
  | 8 => decodeOp8 lo w wr
  | 9 => decodeOp9 lo w wr
  | 10 => decodeOpA lo w wr
  | 11 => decodeOpB lo w wr
  | 12 => decodeOpC lo w wr
  | 13 => decodeOpD lo w wr
  | 14 => decodeOpE lo w wr
  | _ => decodeOpF lo w wr

/-- Opcodes 0x00-0x0F of the opcode map (R44). -/
noncomputable def decodeTaskOp0 (lo : Nat) (w : BitVec 32) : Except DecErr Instr :=
  match lo with
  | 0 => need [(fld w 19 5 == 0, .resBit), (fld w 14 5 == 0, .resBit), (fld w 9 5 == 0, .resBit), (fld w 0 9 == 0, .resBit)] .nopTask
  | 1 => need [(fld w 0 9 == 0, .resBit)] (.addTask (fld w 19 5) (fld w 14 5) (fld w 9 5))
  | 2 => need [(fld w 0 9 == 0, .resBit)] (.subTask (fld w 19 5) (fld w 14 5) (fld w 9 5))
  | 3 => need [] (.addiTask (fld w 19 5) (fld w 14 5) (fld w 0 14))
  | 4 => need [(fld w 0 9 == 0, .resBit)] (.mulTask (fld w 19 5) (fld w 14 5) (fld w 9 5))
  | 5 => need [(fld w 0 9 == 0, .resBit)] (.mulhTask (fld w 19 5) (fld w 14 5) (fld w 9 5))
  | 6 => need [(fld w 0 9 == 0, .resBit)] (.mulhnTask (fld w 19 5) (fld w 14 5) (fld w 9 5))
  | 7 => need [(fld w 0 9 == 0, .resBit)] (.div (fld w 19 5) (fld w 14 5) (fld w 9 5))
  | 8 => need [(fld w 0 9 == 0, .resBit)] (.divn (fld w 19 5) (fld w 14 5) (fld w 9 5))
  | 9 => need [(fld w 0 9 == 0, .resBit)] (.rem (fld w 19 5) (fld w 14 5) (fld w 9 5))
  | 10 => need [(fld w 0 9 == 0, .resBit)] (.remn (fld w 19 5) (fld w 14 5) (fld w 9 5))
  | 11 => need [(fld w 0 9 == 0, .resBit)] (.minTask (fld w 19 5) (fld w 14 5) (fld w 9 5))
  | 12 => need [(fld w 0 9 == 0, .resBit)] (.maxTask (fld w 19 5) (fld w 14 5) (fld w 9 5))
  | 13 => need [(fld w 0 9 == 0, .resBit)] (.minnTask (fld w 19 5) (fld w 14 5) (fld w 9 5))
  | 14 => need [(fld w 0 9 == 0, .resBit)] (.maxnTask (fld w 19 5) (fld w 14 5) (fld w 9 5))
  | 15 => need [(fld w 9 5 == 0, .resBit), (fld w 0 9 == 0, .resBit)] (.absTask (fld w 19 5) (fld w 14 5))
  | _ => .error .opRes

/-- Opcodes 0x10-0x1F of the opcode map (R44). -/
noncomputable def decodeTaskOp1 (lo : Nat) (w : BitVec 32) : Except DecErr Instr :=
  match lo with
  | 0 => need [(fld w 9 5 == 0, .resBit), (fld w 0 9 == 0, .resBit)] (.negTask (fld w 19 5) (fld w 14 5))
  | 1 => need [(fld w 0 9 == 0, .resBit)] (.andTask (fld w 19 5) (fld w 14 5) (fld w 9 5))
  | 2 => need [(fld w 0 9 == 0, .resBit)] (.orTask (fld w 19 5) (fld w 14 5) (fld w 9 5))
  | 3 => need [(fld w 0 9 == 0, .resBit)] (.xorTask (fld w 19 5) (fld w 14 5) (fld w 9 5))
  | 4 => need [(fld w 0 9 == 0, .resBit)] (.andnTask (fld w 19 5) (fld w 14 5) (fld w 9 5))
  | 5 => need [(fld w 9 5 == 0, .resBit), (fld w 0 9 == 0, .resBit)] (.notTask (fld w 19 5) (fld w 14 5))
  | 6 => need [(fld w 0 9 == 0, .resBit)] (.shlTask (fld w 19 5) (fld w 14 5) (fld w 9 5))
  | 7 => need [(fld w 0 9 == 0, .resBit)] (.shrTask (fld w 19 5) (fld w 14 5) (fld w 9 5))
  | 8 => need [(fld w 0 9 == 0, .resBit)] (.shaTask (fld w 19 5) (fld w 14 5) (fld w 9 5))
  | 9 => need [(fld w 0 9 == 0, .resBit)] (.rotTask (fld w 19 5) (fld w 14 5) (fld w 9 5))
  | 10 => need [(fld w 9 5 == 0, .resBit), (fld w 0 9 == 0, .resBit)] (.clzTask (fld w 19 5) (fld w 14 5))
  | 11 => need [(fld w 9 5 == 0, .resBit), (fld w 0 9 == 0, .resBit)] (.popcTask (fld w 19 5) (fld w 14 5))
  | 12 => need [(fld w 0 9 == 0, .resBit)] (.selTask (fld w 19 5) (fld w 14 5) (fld w 9 5))
  | 13 => need [(fld w 0 9 == 0, .resBit)] (.cmpeqTask (fld w 19 5) (fld w 14 5) (fld w 9 5))
  | 14 => need [(fld w 0 9 == 0, .resBit)] (.cmpneTask (fld w 19 5) (fld w 14 5) (fld w 9 5))
  | 15 => need [(fld w 0 9 == 0, .resBit)] (.cmpltTask (fld w 19 5) (fld w 14 5) (fld w 9 5))
  | _ => .error .opRes

/-- Opcodes 0x20-0x2F of the opcode map (R44). -/
noncomputable def decodeTaskOp2 (lo : Nat) (w : BitVec 32) : Except DecErr Instr :=
  match lo with
  | 0 => need [(fld w 0 9 == 0, .resBit)] (.cmpleTask (fld w 19 5) (fld w 14 5) (fld w 9 5))
  | 1 => need [(fld w 0 9 == 0, .resBit)] (.cmpltnTask (fld w 19 5) (fld w 14 5) (fld w 9 5))
  | 2 => need [(fld w 0 9 == 0, .resBit)] (.cmplenTask (fld w 19 5) (fld w 14 5) (fld w 9 5))
  | 3 => need [(fld w 14 5 == 0, .resBit)] (.moviTask (fld w 19 5) (fld w 0 14))
  | 4 => need [(fld w 14 5 == 0, .resBit)] (.movhiTask (fld w 19 5) (fld w 0 14))
  | 5 => need [(fld w 9 5 == 0, .resBit), (fld w 0 9 == 0, .resBit)] (.movTask (fld w 19 5) (fld w 14 5))
  | 6 => need [(fld w 0 9 == 0, .resBit)] (.sextTask (fld w 19 5) (fld w 14 5) (fld w 9 5))
  | 7 => need [(fld w 0 9 == 0, .resBit)] (.bfxTask (fld w 19 5) (fld w 14 5) (fld w 9 5))
  | 8 => need [(fld w 0 9 == 0, .resBit)] (.bfiTask (fld w 19 5) (fld w 14 5) (fld w 9 5))
  | 9 => need [(fld w 0 9 == 0, .resBit)] (.addsTask (fld w 19 5) (fld w 14 5) (fld w 9 5))
  | 10 => need [(fld w 0 9 == 0, .resBit)] (.subsTask (fld w 19 5) (fld w 14 5) (fld w 9 5))
  | _ => .error .opRes

/-- Opcodes 0x30-0x3F of the opcode map (R44). -/
noncomputable def decodeTaskOp3 (lo : Nat) (_w : BitVec 32) : Except DecErr Instr :=
  match lo with
  | 0 => .error .elementOnly
  | 1 => .error .elementOnly
  | 2 => .error .elementOnly
  | 3 => .error .elementOnly
  | 4 => .error .elementOnly
  | 5 => .error .elementOnly
  | 6 => .error .elementOnly
  | 7 => .error .elementOnly
  | 8 => .error .elementOnly
  | 9 => .error .elementOnly
  | 10 => .error .elementOnly
  | 11 => .error .elementOnly
  | 12 => .error .elementOnly
  | 13 => .error .elementOnly
  | 14 => .error .elementOnly
  | 15 => .error .elementOnly
  | _ => .error .opRes

/-- Opcodes 0x40-0x4F of the opcode map (R44). -/
noncomputable def decodeTaskOp4 (lo : Nat) (_w : BitVec 32) : Except DecErr Instr :=
  match lo with
  | 0 => .error .elementOnly
  | 1 => .error .elementOnly
  | 2 => .error .elementOnly
  | 3 => .error .elementOnly
  | 4 => .error .elementOnly
  | 5 => .error .elementOnly
  | 6 => .error .elementOnly
  | 7 => .error .elementOnly
  | 8 => .error .elementOnly
  | _ => .error .opRes

/-- Opcodes 0x50-0x5F of the opcode map (R44). -/
noncomputable def decodeTaskOp5 (lo : Nat) (_w : BitVec 32) : Except DecErr Instr :=
  match lo with
  | 0 => .error .elementOnly
  | 1 => .error .elementOnly
  | 2 => .error .elementOnly
  | 3 => .error .elementOnly
  | 4 => .error .elementOnly
  | 5 => .error .elementOnly
  | 8 => .error .elementOnly
  | 9 => .error .elementOnly
  | 10 => .error .elementOnly
  | 11 => .error .elementOnly
  | 12 => .error .elementOnly
  | 13 => .error .elementOnly
  | 14 => .error .elementOnly
  | 15 => .error .elementOnly
  | _ => .error .opRes

/-- Opcodes 0x60-0x6F of the opcode map (R44). -/
noncomputable def decodeTaskOp6 (lo : Nat) (_w : BitVec 32) : Except DecErr Instr :=
  match lo with
  | 0 => .error .elementOnly
  | 1 => .error .elementOnly
  | 2 => .error .elementOnly
  | 3 => .error .elementOnly
  | 4 => .error .elementOnly
  | 5 => .error .elementOnly
  | 6 => .error .elementOnly
  | 7 => .error .elementOnly
  | 8 => .error .elementOnly
  | 9 => .error .elementOnly
  | 10 => .error .elementOnly
  | 11 => .error .elementOnly
  | 12 => .error .elementOnly
  | 13 => .error .elementOnly
  | _ => .error .opRes

/-- Opcodes 0x70-0x7F of the opcode map (R44). -/
noncomputable def decodeTaskOp7 (lo : Nat) (_w : BitVec 32) : Except DecErr Instr :=
  match lo with
  | 0 => .error .elementOnly
  | 1 => .error .elementOnly
  | 2 => .error .elementOnly
  | 3 => .error .elementOnly
  | 4 => .error .elementOnly
  | 5 => .error .elementOnly
  | 6 => .error .elementOnly
  | 7 => .error .elementOnly
  | 8 => .error .elementOnly
  | 9 => .error .elementOnly
  | 10 => .error .elementOnly
  | 11 => .error .elementOnly
  | 12 => .error .elementOnly
  | _ => .error .opRes

/-- Opcodes 0x80-0x8F of the opcode map (R44). -/
noncomputable def decodeTaskOp8 (lo : Nat) (w : BitVec 32) : Except DecErr Instr :=
  match lo with
  | 0 => need [] (.gldTask (fld w 19 5) (fld w 14 5) (fld w 0 14))
  | 1 => need [] (.gstTask (fld w 19 5) (fld w 14 5) (fld w 0 14))
  | 2 => need [(fld w 19 1 == 0, .resBit)] (.gldsTask (fld w 20 4) (fld w 14 5) (fld w 0 14))
  | 3 => need [(fld w 19 1 == 0, .resBit)] (.gstfTask (fld w 20 4) (fld w 14 5) (fld w 0 14))
  | 4 => .error .elementOnly
  | 5 => .error .elementOnly
  | 6 => .error .elementOnly
  | 7 => .error .elementOnly
  | 8 => .error .elementOnly
  | 9 => .error .elementOnly
  | 10 => .error .elementOnly
  | 11 => need [(fld w 0 9 == 0, .resBit)] (.aaddTask (fld w 19 5) (fld w 14 5) (fld w 9 5))
  | 12 => need [(fld w 0 9 == 0, .resBit)] (.aminTask (fld w 19 5) (fld w 14 5) (fld w 9 5))
  | 13 => need [(fld w 0 9 == 0, .resBit)] (.amaxTask (fld w 19 5) (fld w 14 5) (fld w 9 5))
  | 14 => need [(fld w 0 9 == 0, .resBit)] (.aandTask (fld w 19 5) (fld w 14 5) (fld w 9 5))
  | 15 => need [(fld w 0 9 == 0, .resBit)] (.aorTask (fld w 19 5) (fld w 14 5) (fld w 9 5))
  | _ => .error .opRes

/-- Opcodes 0x90-0x9F of the opcode map (R44). -/
noncomputable def decodeTaskOp9 (lo : Nat) (w : BitVec 32) : Except DecErr Instr :=
  match lo with
  | 0 => need [(fld w 0 9 == 0, .resBit)] (.axchTask (fld w 19 5) (fld w 14 5) (fld w 9 5))
  | 1 => need [(fld w 0 9 == 0, .resBit)] (.acasTask (fld w 19 5) (fld w 14 5) (fld w 9 5))
  | 2 => need [(fld w 0 9 == 0, .resBit)] (.afaddTask (fld w 19 5) (fld w 14 5) (fld w 9 5))
  | 3 => need [(fld w 19 5 == 0, .resBit), (fld w 14 5 == 0, .resBit), (fld w 9 5 == 0, .resBit), (fld w 3 6 == 0, .resBit)] (.fenceTask (fld w 0 3))
  | 4 => need [(fld w 19 5 == 0, .resBit), (fld w 14 5 == 0, .resBit), (fld w 9 5 == 0, .resBit), (fld w 0 9 == 0, .resBit)] .relsTask
  | 5 => need [(fld w 19 5 == 0, .resBit), (fld w 14 5 == 0, .resBit), (fld w 9 5 == 0, .resBit), (fld w 0 9 == 0, .resBit)] .acqsTask
  | 6 => need [(fld w 9 5 == 0, .resBit), (fld w 0 9 == 0, .resBit)] (.xferTask (fld w 19 5) (fld w 14 5))
  | 7 => need [(fld w 9 5 == 0, .resBit), (fld w 0 9 == 0, .resBit)] (.mirrTask (fld w 19 5) (fld w 14 5))
  | 8 => .error .elementOnly
  | 9 => need [(fld w 9 5 == 0, .resBit), (fld w 0 9 == 0, .resBit)] (.pagem (fld w 19 5) (fld w 14 5))
  | _ => .error .opRes

/-- Opcodes 0xA0-0xAF of the opcode map (R44). -/
noncomputable def decodeTaskOpA (lo : Nat) (_w : BitVec 32) : Except DecErr Instr :=
  match lo with
  | 0 => .error .elementOnly
  | 1 => .error .elementOnly
  | 2 => .error .elementOnly
  | 3 => .error .elementOnly
  | 4 => .error .elementOnly
  | 5 => .error .elementOnly
  | 6 => .error .elementOnly
  | 7 => .error .elementOnly
  | 8 => .error .elementOnly
  | 9 => .error .elementOnly
  | _ => .error .opRes

/-- Opcodes 0xB0-0xBF of the opcode map (R44). -/
noncomputable def decodeTaskOpB (lo : Nat) (_w : BitVec 32) : Except DecErr Instr :=
  match lo with
  | 0 => .error .elementOnly
  | 1 => .error .elementOnly
  | 2 => .error .elementOnly
  | 3 => .error .elementOnly
  | 4 => .error .elementOnly
  | 5 => .error .elementOnly
  | 6 => .error .elementOnly
  | 7 => .error .elementOnly
  | 8 => .error .elementOnly
  | 9 => .error .elementOnly
  | 10 => .error .elementOnly
  | 11 => .error .elementOnly
  | 12 => .error .elementOnly
  | 13 => .error .elementOnly
  | 14 => .error .elementOnly
  | 15 => .error .elementOnly
  | _ => .error .opRes

/-- Opcodes 0xC0-0xCF of the opcode map (R44). -/
noncomputable def decodeTaskOpC (lo : Nat) (_w : BitVec 32) : Except DecErr Instr :=
  match lo with
  | 4 => .error .elementOnly
  | 5 => .error .elementOnly
  | 6 => .error .elementOnly
  | 7 => .error .elementOnly
  | 8 => .error .elementOnly
  | 12 => .error .elementOnly
  | 13 => .error .elementOnly
  | 14 => .error .elementOnly
  | 15 => .error .elementOnly
  | _ => .error .opRes

/-- Opcodes 0xD0-0xDF of the opcode map (R44). -/
noncomputable def decodeTaskOpD (lo : Nat) (w : BitVec 32) : Except DecErr Instr :=
  match lo with
  | 0 => .error .elementOnly
  | 1 => .error .elementOnly
  | 2 => .error .elementOnly
  | 3 => .error .elementOnly
  | 4 => .error .elementOnly
  | 5 => .error .elementOnly
  | 6 => .error .elementOnly
  | 7 => .error .elementOnly
  | 8 => .error .elementOnly
  | 9 => need [(fld w 0 9 == 0, .resBit)] (.verdTask (fld w 19 5) (fld w 14 5) (fld w 9 5))
  | 10 => need [(fld w 9 5 == 0, .resBit), (fld w 0 9 == 0, .resBit)] (.purge (fld w 19 5) (fld w 14 5))
  | 11 => need [(fld w 9 5 == 0, .resBit), (fld w 0 9 == 0, .resBit)] (.keepc (fld w 19 5) (fld w 14 5))
  | 12 => .error .elementOnly
  | _ => .error .opRes

/-- Opcodes 0xE0-0xEF of the opcode map (R44). -/
noncomputable def decodeTaskOpE (lo : Nat) (w : BitVec 32) : Except DecErr Instr :=
  match lo with
  | 0 => need [(fld w 0 9 == 0, .resBit)] (.lnch (fld w 19 5) (fld w 14 5) (fld w 9 5))
  | 1 => need [(fld w 0 9 == 0, .resBit)] (.lnchi (fld w 19 5) (fld w 14 5) (fld w 9 5))
  | 2 => need [(fld w 9 5 == 0, .resBit), (fld w 0 9 == 0, .resBit)] (.tblsw (fld w 19 5) (fld w 14 5))
  | 3 => need [(fld w 0 9 == 0, .resBit)] (.ctxld (fld w 19 5) (fld w 14 5) (fld w 9 5))
  | 4 => need [(fld w 0 9 == 0, .resBit)] (.ctxsw (fld w 19 5) (fld w 14 5) (fld w 9 5))
  | 5 => need [(fld w 0 9 == 0, .resBit)] (.drnq (fld w 19 5) (fld w 14 5) (fld w 9 5))
  | 6 => need [(fld w 9 5 == 0, .resBit), (fld w 0 9 == 0, .resBit)] (.ovrq (fld w 19 5) (fld w 14 5))
  | 7 => need [(fld w 0 9 == 0, .resBit)] (.fbsel (fld w 19 5) (fld w 14 5) (fld w 9 5))
  | 8 => need [(fld w 0 9 == 0, .resBit)] (.teard (fld w 19 5) (fld w 14 5) (fld w 9 5))
  | 9 => need [(fld w 0 9 == 0, .resBit)] (.partm (fld w 19 5) (fld w 14 5) (fld w 9 5))
  | 10 => need [(fld w 0 9 == 0, .resBit)] (.doff (fld w 19 5) (fld w 14 5) (fld w 9 5))
  | 11 => need [(fld w 0 9 == 0, .resBit)] (.spare (fld w 19 5) (fld w 14 5) (fld w 9 5))
  | 12 => need [(fld w 19 5 == 0, .resBit)] (.br (fld w 0 19))
  | 13 => need [] (.brz (fld w 19 5) (fld w 0 19))
  | 14 => need [] (.brnz (fld w 19 5) (fld w 0 19))
  | 15 => need [(fld w 19 5 == 0, .resBit)] (.call (fld w 0 19))
  | _ => .error .opRes

/-- Opcodes 0xF0-0xFF of the opcode map (R44). -/
noncomputable def decodeTaskOpF (lo : Nat) (w : BitVec 32) : Except DecErr Instr :=
  match lo with
  | 0 => need [(fld w 19 5 == 0, .resBit), (fld w 14 5 == 0, .resBit), (fld w 9 5 == 0, .resBit), (fld w 0 9 == 0, .resBit)] .ret
  | 1 => need [] (.ldk (fld w 19 5) (fld w 14 5) (fld w 0 14))
  | 2 => need [] (.stk (fld w 19 5) (fld w 14 5) (fld w 0 14))
  | 3 => need [] (.ldio (fld w 19 5) (fld w 14 5) (fld w 0 14))
  | 4 => need [] (.stio (fld w 19 5) (fld w 14 5) (fld w 0 14))
  | 5 => need [(fld w 9 5 == 0, .resBit), (fld w 6 3 == 0, .resBit)] (.send (fld w 19 5) (fld w 14 5) (fld w 0 6))
  | 6 => need [(fld w 9 5 == 0, .resBit), (fld w 6 3 == 0, .resBit)] (.recv (fld w 19 5) (fld w 14 5) (fld w 0 6))
  | 7 => need [(fld w 19 5 == 0, .resBit), (fld w 14 5 == 0, .resBit), (fld w 9 5 == 0, .resBit), (fld w 0 9 == 0, .resBit)] .tend
  | 8 => need [(fld w 6 3 == 0, .resBit)] (.tbind (fld w 19 5) (fld w 14 5) (fld w 9 5) (fld w 0 6))
  | 9 => need [(fld w 9 5 == 0, .resBit), (fld w 6 3 == 0, .resBit)] (.chpri (fld w 19 5) (fld w 14 5) (fld w 0 6))
  | 10 => need [(fld w 19 5 == 0, .resBit), (fld w 14 5 == 0, .resBit), (fld w 9 5 == 0, .resBit)] (.traps (fld w 0 9))
  | 11 => need [(fld w 0 9 == 0, .resBit)] (.timeq (fld w 19 5) (fld w 14 5) (fld w 9 5))
  | 12 => need [(fld w 9 5 == 0, .resBit), (fld w 0 9 == 0, .resBit)] (.hashb (fld w 19 5) (fld w 14 5))
  | 13 => need [(fld w 9 5 == 0, .resBit), (fld w 0 9 == 0, .resBit)] (.sigv (fld w 19 5) (fld w 14 5))
  | 14 => need [(fld w 9 5 == 0, .resBit)] (.sysx (fld w 19 5) (fld w 14 5) (fld w 0 9))
  | _ => .error .opRes

/-- The fields of a task-core word (R40). -/
noncomputable def decodeTaskOp (w : BitVec 32) : Except DecErr Instr :=
  let lo := (fld w 24 4).toNat
  match (fld w 28 4).toNat with
  | 0 => decodeTaskOp0 lo w
  | 1 => decodeTaskOp1 lo w
  | 2 => decodeTaskOp2 lo w
  | 3 => decodeTaskOp3 lo w
  | 4 => decodeTaskOp4 lo w
  | 5 => decodeTaskOp5 lo w
  | 6 => decodeTaskOp6 lo w
  | 7 => decodeTaskOp7 lo w
  | 8 => decodeTaskOp8 lo w
  | 9 => decodeTaskOp9 lo w
  | 10 => decodeTaskOpA lo w
  | 11 => decodeTaskOpB lo w
  | 12 => decodeTaskOpC lo w
  | 13 => decodeTaskOpD lo w
  | 14 => decodeTaskOpE lo w
  | _ => decodeTaskOpF lo w

/-- An instruction that also passes the checks on its own words. -/
def checked (r : Except DecErr Instr) : Except DecErr Instr :=
  match r with
  | .error e => .error e
  | .ok i => match i.err with
    | none => .ok i
    | some e => .error e

/-- An element row from its three ring words (R21). -/
def decodeRow (op : BitVec 24) (route reg : BitVec 16) : Except DecErr Instr :=
  checked (decodeOp op ⟨decodeRoute route, decodeReg reg⟩)

/-- A task-core instruction from its word (R40, R48). -/
noncomputable def decodeTask (w : BitVec 32) : Except DecErr Instr := checked (decodeTaskOp w)

/-- An element row from bytes: op word, route word, register-address word, each little-endian (R5, R50). -/
def decodeRowBytes : List Byte → Except DecErr Instr
  | b0 :: b1 :: b2 :: r0 :: r1 :: a0 :: a1 :: _ => decodeRow (b2 ++ b1 ++ b0) (r1 ++ r0) (a1 ++ a0)
  | _ => .error .truncated

/-- A task-core instruction from the four bytes at its address, little-endian (R40). -/
noncomputable def decodeTaskBytes : List Byte → Except DecErr Instr
  | b0 :: b1 :: b2 :: b3 :: _ => decodeTask (b3 ++ b2 ++ b1 ++ b0)
  | _ => .error .truncated

/-- The instruction that the decoder reads from an instruction whose bits are `w`, bit 0 the least significant bit of the
first word: an element row of 56 bits when the table gives 24, a task-core word when it gives 32. -/
noncomputable def decodeTableWord (nbits w : Nat) : Option Instr :=
  if nbits = 24 then (decodeRowBytes (leBytes 7 w)).toOption
  else if nbits = 32 then (decodeTaskBytes (leBytes 4 w)).toOption
  else none

/-- The route word of its fields (R37). -/
def encodeRoute (r : Route) : BitVec 16 :=
  r.a ++ r.b ++ bit 1 r.n ++ bit 1 r.e ++ bit 1 r.s ++ bit 1 r.w ++ bit 1 r.reg ++ bit 1 r.ctl ++ r.mode

/-- The register-address word of its fields (R39). -/
def encodeReg (r : RegWord) : BitVec 16 := r.ra ++ r.rb ++ r.rd ++ bit 1 r.we

/-- The op word of an element row and its wires; none for a step that is no element row (R34). -/
def encodeOp : Instr → Option (BitVec 24 × Wires)
  | .nop t wr => some (0#12 ++ t ++ 0#11, wr)
  | .add t i wr => some (16#12 ++ t ++ 0#1 ++ i, wr)
  | .sub t i wr => some (32#12 ++ t ++ 0#1 ++ i, wr)
  | .addi t i wr => some (48#12 ++ t ++ 0#1 ++ i, wr)
  | .mul t i wr => some (64#12 ++ t ++ 0#1 ++ i, wr)
  | .mulh t i wr => some (80#12 ++ t ++ 0#1 ++ i, wr)
  | .mulhn t i wr => some (96#12 ++ t ++ 0#1 ++ i, wr)
  | .min t i wr => some (176#12 ++ t ++ 0#1 ++ i, wr)
  | .max t i wr => some (192#12 ++ t ++ 0#1 ++ i, wr)
  | .minn t i wr => some (208#12 ++ t ++ 0#1 ++ i, wr)
  | .maxn t i wr => some (224#12 ++ t ++ 0#1 ++ i, wr)
  | .abs t i wr => some (240#12 ++ t ++ 0#1 ++ i, wr)
  | .neg t i wr => some (256#12 ++ t ++ 0#1 ++ i, wr)
  | .and t i wr => some (272#12 ++ t ++ 0#1 ++ i, wr)
  | .or t i wr => some (288#12 ++ t ++ 0#1 ++ i, wr)
  | .xor t i wr => some (304#12 ++ t ++ 0#1 ++ i, wr)
  | .andn t i wr => some (320#12 ++ t ++ 0#1 ++ i, wr)
  | .not t i wr => some (336#12 ++ t ++ 0#1 ++ i, wr)
  | .shl t i wr => some (352#12 ++ t ++ 0#1 ++ i, wr)
  | .shr t i wr => some (368#12 ++ t ++ 0#1 ++ i, wr)
  | .sha t i wr => some (384#12 ++ t ++ 0#1 ++ i, wr)
  | .rot t i wr => some (400#12 ++ t ++ 0#1 ++ i, wr)
  | .clz t i wr => some (416#12 ++ t ++ 0#1 ++ i, wr)
  | .popc t i wr => some (432#12 ++ t ++ 0#1 ++ i, wr)
  | .sel t i wr => some (448#12 ++ t ++ 0#1 ++ i, wr)
  | .cmpeq t i wr => some (464#12 ++ t ++ 0#1 ++ i, wr)
  | .cmpne t i wr => some (480#12 ++ t ++ 0#1 ++ i, wr)
  | .cmplt t i wr => some (496#12 ++ t ++ 0#1 ++ i, wr)
  | .cmple t i wr => some (512#12 ++ t ++ 0#1 ++ i, wr)
  | .cmpltn t i wr => some (528#12 ++ t ++ 0#1 ++ i, wr)
  | .cmplen t i wr => some (544#12 ++ t ++ 0#1 ++ i, wr)
  | .movi i wr => some (35#8 ++ i, wr)
  | .movhi i wr => some (36#8 ++ i, wr)
  | .mov t i wr => some (592#12 ++ t ++ 0#2 ++ i, wr)
  | .movSpecialRead t s wr => some (592#12 ++ t ++ 256#10 ++ s, wr)
  | .movSpecialWrite t s wr => some (592#12 ++ t ++ 384#10 ++ s, wr)
  | .sext t i wr => some (608#12 ++ t ++ 0#1 ++ i, wr)
  | .bfx t i wr => some (624#12 ++ t ++ 0#1 ++ i, wr)
  | .bfi t i wr => some (640#12 ++ t ++ 0#1 ++ i, wr)
  | .adds t i wr => some (656#12 ++ t ++ 0#1 ++ i, wr)
  | .subs t i wr => some (672#12 ++ t ++ 0#1 ++ i, wr)
  | .fadd r t wr => some (48#8 ++ r ++ 0#1 ++ t ++ 0#11, wr)
  | .fsub r t wr => some (49#8 ++ r ++ 0#1 ++ t ++ 0#11, wr)
  | .fmul r t wr => some (50#8 ++ r ++ 0#1 ++ t ++ 0#11, wr)
  | .fma r t wr => some (51#8 ++ r ++ 0#1 ++ t ++ 0#11, wr)
  | .fms r t wr => some (52#8 ++ r ++ 0#1 ++ t ++ 0#11, wr)
  | .fnma r t wr => some (53#8 ++ r ++ 0#1 ++ t ++ 0#11, wr)
  | .fmin t wr => some (864#12 ++ t ++ 0#11, wr)
  | .fmax t wr => some (880#12 ++ t ++ 0#11, wr)
  | .fabs t wr => some (896#12 ++ t ++ 0#11, wr)
  | .fneg t wr => some (912#12 ++ t ++ 0#11, wr)
  | .fcmpeq t wr => some (928#12 ++ t ++ 0#11, wr)
  | .fcmplt t wr => some (944#12 ++ t ++ 0#11, wr)
  | .fcmple t wr => some (960#12 ++ t ++ 0#11, wr)
  | .fcmpun t wr => some (976#12 ++ t ++ 0#11, wr)
  | .fcvt r s t wr => some (62#8 ++ r ++ s ++ t ++ 0#11, wr)
  | .fclass t wr => some (1008#12 ++ t ++ 0#11, wr)
  | .frnd r t wr => some (64#8 ++ r ++ 0#1 ++ t ++ 0#11, wr)
  | .ftoi r s t wr => some (65#8 ++ r ++ s ++ t ++ 0#11, wr)
  | .itof r t wr => some (66#8 ++ r ++ 0#1 ++ t ++ 0#11, wr)
  | .fscale r t wr => some (67#8 ++ r ++ 0#1 ++ t ++ 0#11, wr)
  | .fdot2 r t wr => some (68#8 ++ r ++ 0#1 ++ t ++ 0#11, wr)
  | .fexpn t wr => some (1104#12 ++ t ++ 0#11, wr)
  | .fmant t wr => some (1120#12 ++ t ++ 0#11, wr)
  | .qnt r s t m e wr => some (71#8 ++ r ++ s ++ t ++ 0#1 ++ m ++ 0#4 ++ e, wr)
  | .dqnt r t wr => some (72#8 ++ r ++ 0#1 ++ t ++ 0#11, wr)
  | .lut r t k wr => some (80#8 ++ r ++ 0#1 ++ t ++ 0#9 ++ k, wr)
  | .lutix t m s wr => some (1296#12 ++ t ++ 0#1 ++ m ++ 0#3 ++ s, wr)
  | .rredf t wr => some (1312#12 ++ t ++ 0#11, wr)
  | .rredn t wr => some (1328#12 ++ t ++ 0#11, wr)
  | .rexp r t wr => some (84#8 ++ r ++ 0#1 ++ t ++ 0#11, wr)
  | .lutsel r t wr => some (85#8 ++ r ++ 0#1 ++ t ++ 0#11, wr)
  | .steer c o m wr => some (88#8 ++ c ++ o ++ 0#4 ++ m, wr)
  | .merge c o wr => some (89#8 ++ c ++ o ++ 0#8, wr)
  | .mergea o wr => some (1440#12 ++ o ++ 0#8, wr)
  | .gate c o m wr => some (91#8 ++ c ++ o ++ 0#7 ++ m, wr)
  | .drop c o m wr => some (92#8 ++ c ++ o ++ 0#7 ++ m, wr)
  | .cemit c o m wr => some (93#8 ++ c ++ o ++ 0#7 ++ m, wr)
  | .ctest o m wr => some (1504#12 ++ o ++ m, wr)
  | .cand c o m wr => some (95#8 ++ c ++ o ++ 0#5 ++ m, wr)
  | .cor c o m wr => some (96#8 ++ c ++ o ++ 0#5 ++ m, wr)
  | .cnot c o wr => some (97#8 ++ c ++ o ++ 0#8, wr)
  | .eose c m wr => some (98#8 ++ c ++ 0#11 ++ m, wr)
  | .eosq o m wr => some (1584#12 ++ o ++ 0#7 ++ m, wr)
  | .cnti m wr => some (1638400#22 ++ m, wr)
  | .cnts c o m wr => some (101#8 ++ c ++ o ++ 0#5 ++ m, wr)
  | .cntl m wr => some (835584#21 ++ m, wr)
  | .phase c m wr => some (103#8 ++ c ++ 0#9 ++ m, wr)
  | .ctxp c m wr => some (104#8 ++ c ++ 0#10 ++ m, wr)
  | .rowq m wr => some (1720320#22 ++ m, wr)
  | .iofq m wr => some (1736704#22 ++ m, wr)
  | .frmq m wr => some (876544#21 ++ m, wr)
  | .dly m wr => some (442368#20 ++ m, wr)
  | .armx c o m wr => some (109#8 ++ c ++ o ++ 0#5 ++ m, wr)
  | .talloc b w s q wr => some (112#8 ++ b ++ w ++ s ++ q ++ 0#6, wr)
  | .tfree w s q wr => some (7232#14 ++ w ++ s ++ q ++ 0#6, wr)
  | .tqry w s q v u wr => some (7296#14 ++ w ++ s ++ q ++ v ++ u, wr)
  | .ldt w z x t p i wr => some (115#8 ++ w ++ z ++ x ++ t ++ p ++ i, wr)
  | .stt w z t p i wr => some (116#8 ++ w ++ z ++ 0#1 ++ t ++ p ++ i, wr)
  | .ldts w z x t p i wr => some (117#8 ++ w ++ z ++ x ++ t ++ p ++ i, wr)
  | .sttf w z t p i wr => some (118#8 ++ w ++ z ++ 0#1 ++ t ++ p ++ i, wr)
  | .ldte w z x t p i wr => some (119#8 ++ w ++ z ++ x ++ t ++ p ++ i, wr)
  | .feset w z t p i wr => some (120#8 ++ w ++ z ++ 0#1 ++ t ++ p ++ i, wr)
  | .feq w z t p i wr => some (121#8 ++ w ++ z ++ 0#1 ++ t ++ p ++ i, wr)
  | .tcopy b w s q wr => some (122#8 ++ b ++ w ++ s ++ q ++ 0#6, wr)
  | .tfill b w s q wr => some (123#8 ++ b ++ w ++ s ++ q ++ 0#6, wr)
  | .tlevel w s q v u wr => some (7936#14 ++ w ++ s ++ q ++ v ++ u, wr)
  | .gld w z x t p i wr => some (128#8 ++ w ++ z ++ x ++ t ++ p ++ i, wr)
  | .gst w z t p i wr => some (129#8 ++ w ++ z ++ 0#1 ++ t ++ p ++ i, wr)
  | .glds w z x t p i wr => some (130#8 ++ w ++ z ++ x ++ t ++ p ++ i, wr)
  | .gstf w z t p i wr => some (131#8 ++ w ++ z ++ 0#1 ++ t ++ p ++ i, wr)
  | .strmi b w s q u wr => some (132#8 ++ b ++ w ++ s ++ q ++ 0#2 ++ u, wr)
  | .strmo b w s q u wr => some (133#8 ++ b ++ w ++ s ++ q ++ 0#2 ++ u, wr)
  | .gath b w s q u wr => some (134#8 ++ b ++ w ++ s ++ q ++ 0#2 ++ u, wr)
  | .scat b w s q u wr => some (135#8 ++ b ++ w ++ s ++ q ++ 0#2 ++ u, wr)
  | .sprg w s q v u wr => some (8704#14 ++ w ++ s ++ q ++ v ++ u, wr)
  | .sabt w s q v wr => some (8768#14 ++ w ++ s ++ q ++ v ++ 0#4, wr)
  | .sres w s q v wr => some (8832#14 ++ w ++ s ++ q ++ v ++ 0#4, wr)
  | .aadd w z t p i wr => some (139#8 ++ w ++ 1#1 ++ z ++ 0#1 ++ t ++ p ++ i, wr)
  | .amin w z t p i wr => some (140#8 ++ w ++ 1#1 ++ z ++ 0#1 ++ t ++ p ++ i, wr)
  | .amax w z t p i wr => some (141#8 ++ w ++ 1#1 ++ z ++ 0#1 ++ t ++ p ++ i, wr)
  | .aand w z t p i wr => some (142#8 ++ w ++ 1#1 ++ z ++ 0#1 ++ t ++ p ++ i, wr)
  | .aor w z t p i wr => some (143#8 ++ w ++ 1#1 ++ z ++ 0#1 ++ t ++ p ++ i, wr)
  | .axch w z t p i wr => some (144#8 ++ w ++ 1#1 ++ z ++ 0#1 ++ t ++ p ++ i, wr)
  | .acas w z t p i wr => some (145#8 ++ w ++ 1#1 ++ z ++ 0#1 ++ t ++ p ++ i, wr)
  | .afadd w t p i wr => some (146#8 ++ w ++ 4#3 ++ t ++ p ++ i, wr)
  | .fence u wr => some (602112#20 ++ u, wr)
  | .rels wr => some (9699328#24, wr)
  | .acqs wr => some (9764864#24, wr)
  | .xfer b w s q wr => some (150#8 ++ b ++ w ++ s ++ q ++ 0#6, wr)
  | .mirr b w s q wr => some (151#8 ++ b ++ w ++ s ++ q ++ 0#6, wr)
  | .coll b w s q wr => some (152#8 ++ b ++ w ++ s ++ q ++ 0#6, wr)
  | .mma b w s q wr => some (160#8 ++ b ++ w ++ s ++ q ++ 0#6, wr)
  | .mmas b w s q wr => some (161#8 ++ b ++ w ++ s ++ q ++ 0#6, wr)
  | .mmav b w s q wr => some (162#8 ++ b ++ w ++ s ++ q ++ 0#6, wr)
  | .mmab b w s q wr => some (163#8 ++ b ++ w ++ s ++ q ++ 0#6, wr)
  | .macc b w s q u wr => some (164#8 ++ b ++ w ++ s ++ q ++ 0#2 ++ u, wr)
  | .mdrn b w s q v wr => some (165#8 ++ b ++ w ++ s ++ q ++ v ++ 0#4, wr)
  | .mprg u wr => some (679936#20 ++ u, wr)
  | .mres wr => some (10944512#24, wr)
  | .mabt wr => some (11010048#24, wr)
  | .mshp w s q wr => some (10816#14 ++ w ++ s ++ q ++ 0#6, wr)
  | .xld b w s q v u wr => some (176#8 ++ b ++ w ++ s ++ q ++ v ++ u, wr)
  | .xst b w s q wr => some (177#8 ++ b ++ w ++ s ++ q ++ 0#6, wr)
  | .cbld b w s q u wr => some (178#8 ++ b ++ w ++ s ++ q ++ 0#3 ++ u, wr)
  | .vqx w s q v u wr => some (11456#14 ++ w ++ s ++ q ++ v ++ 0#1 ++ u, wr)
  | .compm b w s q wr => some (180#8 ++ b ++ w ++ s ++ q ++ 0#6, wr)
  | .expdm b w s q wr => some (181#8 ++ b ++ w ++ s ++ q ++ 0#6, wr)
  | .fibp b w s q wr => some (182#8 ++ b ++ w ++ s ++ q ++ 0#6, wr)
  | .fibu b w s q wr => some (183#8 ++ b ++ w ++ s ++ q ++ 0#6, wr)
  | .isect b w s q u wr => some (184#8 ++ b ++ w ++ s ++ q ++ 0#2 ++ u, wr)
  | .dcmpj b w s q wr => some (185#8 ++ b ++ w ++ s ++ q ++ 0#6, wr)
  | .dcmpq w s q v u wr => some (11904#14 ++ w ++ s ++ q ++ v ++ u, wr)
  | .lzcp b w s q u wr => some (187#8 ++ b ++ w ++ s ++ q ++ 0#2 ++ u, wr)
  | .layw b wr => some (188#8 ++ b ++ 0#10, wr)
  | .layr b v wr => some (189#8 ++ b ++ 0#4 ++ v ++ 0#4, wr)
  | .trns b w s q wr => some (190#8 ++ b ++ w ++ s ++ q ++ 0#6, wr)
  | .redx b w s q wr => some (191#8 ++ b ++ w ++ s ++ q ++ 0#6, wr)
  | .cinit b wr => some (196#8 ++ b ++ 0#10, wr)
  | .carr b v wr => some (197#8 ++ b ++ 0#4 ++ v ++ 0#4, wr)
  | .cexpb b wr => some (198#8 ++ b ++ 0#10, wr)
  | .cqry b u wr => some (199#8 ++ b ++ 0#6 ++ u, wr)
  | .cdrop b wr => some (200#8 ++ b ++ 0#10, wr)
  | .tapeb b wr => some (204#8 ++ b ++ 0#10, wr)
  | .tapee wr => some (13434880#24, wr)
  | .tapev b v wr => some (206#8 ++ b ++ 0#5 ++ v ++ 0#4, wr)
  | .taper b wr => some (207#8 ++ b ++ 0#10, wr)
  | .tapep b wr => some (208#8 ++ b ++ 0#10, wr)
  | .tapec wr => some (13697024#24, wr)
  | .tapeq u wr => some (860160#20 ++ u, wr)
  | .tapek b wr => some (211#8 ++ b ++ 0#10, wr)
  | .mark wr => some (13893632#24, wr)
  | .snapq u wr => some (872448#20 ++ u, wr)
  | .rtag wr => some (14024704#24, wr)
  | .poisn u wr => some (880640#20 ++ u, wr)
  | .poisq wr => some (14155776#24, wr)
  | .verd u wr => some (888832#20 ++ u, wr)
  | .cmpv b wr => some (220#8 ++ b ++ 0#10, wr)
  | .powerUp _ _ => none
  | .ident _ => none
  | .status _ => none
  | .featnegRead _ => none
  | .featnegWrite _ => none
  | .loadimg _ => none
  | .loadtbl _ => none
  | .startMode _ => none
  | .startEntry _ => none
  | .hostLaunch _ => none
  | .modesw _ => none
  | .qrec _ => none
  | .purgeCmd _ => none
  | .mircfg _ => none
  | .timecfg _ => none
  | .partmode _ => none
  | .dieoff _ => none
  | .attest _ => none
  | .throttle _ => none
  | .keyinst _ => none
  | .sysmapMap _ => none
  | .sysmapUnmap _ => none
  | .taskDispatch => none
  | .watchdog => none
  | .timerCompare _ => none
  | .cryptoCompletion _ => none
  | .monitorSample _ _ => none
  | .thrlvlWrite _ _ => none
  | .alertstWrite _ _ => none
  | .registerWrite _ _ => none
  | .throttleLevelApply _ => none
  | .ingcfgWrite _ _ => none
  | .safeevWrite _ => none
  | .linkTokenArrival _ _ _ => none
  | .controlTokenArrival _ _ _ => none
  | .bypassHop _ _ _ => none
  | .laneDiscardDrop _ _ _ => none
  | .markerTaken _ _ _ => none
  | .teardownToken _ _ => none
  | .scalarAccessCompletion _ => none
  | .parkedAccessRetest _ => none
  | .jobElement _ _ => none
  | .jobFaultStop _ _ => none
  | .jobRetirement _ _ => none
  | .portWeightRecompute _ => none
  | .heldOpRetirement _ => none
  | .pommelStoreDrain => none
  | .hostWrite _ _ => none
  | .migrationSwitch _ => none
  | .pagemCompletion _ => none
  | .pommelJobCompletion _ => none
  | .mirrorWriteReceive _ => none
  | .matrixGroupCommit _ => none
  | .matrixCommandRetirement _ => none
  | .matrixFeedFault _ => none
  | .mdDrainToken _ => none
  | .cinchRequestArrival _ => none
  | .cinchPendSubtract _ _ _ => none
  | .collContributionArrival _ => none
  | .collRetirement _ => none
  | .tapeRecordAccept _ _ => none
  | .tapeKeyWrite _ _ => none
  | .tapeClose _ _ => none
  | .tapeRegeneration _ _ => none
  | .dcmpjEngineStart _ _ => none
  | .dcmpjCompletion _ _ => none
  | .tableActivation _ => none
  | .runStart _ _ => none
  | .countTake _ _ => none
  | .deadline _ => none
  | .completionRecordWrite _ => none
  | .modeChangePoint _ => none
  | .ctxldDone _ => none
  | .partmDone _ => none
  | .doffDone _ => none
  | .spareDone _ => none
  | .voteCompare _ => none
  | .voteCopyStart _ => none
  | .keeperAdvance _ _ => none
  | .keeperCompare _ => none
  | .rollback _ _ => none
  | .configReload _ _ => none
  | .machineCheck _ => none
  | .dieLinkRetrainFailure _ => none
  | .heartbeatSend => none
  | .heartbeatReceive _ => none
  | .heartbeatTimeout => none
  | .pfaultAssert => none
  | .berylLinkDown => none
  | .sensorFrame _ _ => none
  | .nopTask => none
  | .addTask _ _ _ => none
  | .subTask _ _ _ => none
  | .addiTask _ _ _ => none
  | .mulTask _ _ _ => none
  | .mulhTask _ _ _ => none
  | .mulhnTask _ _ _ => none
  | .div _ _ _ => none
  | .divn _ _ _ => none
  | .rem _ _ _ => none
  | .remn _ _ _ => none
  | .minTask _ _ _ => none
  | .maxTask _ _ _ => none
  | .minnTask _ _ _ => none
  | .maxnTask _ _ _ => none
  | .absTask _ _ => none
  | .negTask _ _ => none
  | .andTask _ _ _ => none
  | .orTask _ _ _ => none
  | .xorTask _ _ _ => none
  | .andnTask _ _ _ => none
  | .notTask _ _ => none
  | .shlTask _ _ _ => none
  | .shrTask _ _ _ => none
  | .shaTask _ _ _ => none
  | .rotTask _ _ _ => none
  | .clzTask _ _ => none
  | .popcTask _ _ => none
  | .selTask _ _ _ => none
  | .cmpeqTask _ _ _ => none
  | .cmpneTask _ _ _ => none
  | .cmpltTask _ _ _ => none
  | .cmpleTask _ _ _ => none
  | .cmpltnTask _ _ _ => none
  | .cmplenTask _ _ _ => none
  | .moviTask _ _ => none
  | .movhiTask _ _ => none
  | .movTask _ _ => none
  | .sextTask _ _ _ => none
  | .bfxTask _ _ _ => none
  | .bfiTask _ _ _ => none
  | .addsTask _ _ _ => none
  | .subsTask _ _ _ => none
  | .gldTask _ _ _ => none
  | .gstTask _ _ _ => none
  | .gldsTask _ _ _ => none
  | .gstfTask _ _ _ => none
  | .aaddTask _ _ _ => none
  | .aminTask _ _ _ => none
  | .amaxTask _ _ _ => none
  | .aandTask _ _ _ => none
  | .aorTask _ _ _ => none
  | .axchTask _ _ _ => none
  | .acasTask _ _ _ => none
  | .afaddTask _ _ _ => none
  | .fenceTask _ => none
  | .relsTask => none
  | .acqsTask => none
  | .xferTask _ _ => none
  | .mirrTask _ _ => none
  | .pagem _ _ => none
  | .purge _ _ => none
  | .keepc _ _ => none
  | .verdTask _ _ _ => none
  | .lnch _ _ _ => none
  | .lnchi _ _ _ => none
  | .tblsw _ _ => none
  | .ctxld _ _ _ => none
  | .ctxsw _ _ _ => none
  | .drnq _ _ _ => none
  | .ovrq _ _ => none
  | .fbsel _ _ _ => none
  | .teard _ _ _ => none
  | .partm _ _ _ => none
  | .doff _ _ _ => none
  | .spare _ _ _ => none
  | .br _ => none
  | .brz _ _ => none
  | .brnz _ _ => none
  | .call _ => none
  | .ret => none
  | .ldk _ _ _ => none
  | .stk _ _ _ => none
  | .ldio _ _ _ => none
  | .stio _ _ _ => none
  | .send _ _ _ => none
  | .recv _ _ _ => none
  | .tend => none
  | .tbind _ _ _ _ => none
  | .chpri _ _ _ => none
  | .traps _ => none
  | .timeq _ _ _ => none
  | .hashb _ _ => none
  | .sigv _ _ => none
  | .sysx _ _ _ => none
  | .tickCounterAdvance => none
  | .ptpServoAdjust _ _ => none
  | .ptpSynchronisation _ _ => none
  | .illegalInstruction => none
  | .fetchFault => none
  | .unknownCommandCode _ _ => none
  | .tileMoveCompletion _ => none
  | .cinchAnswerArrival _ => none
  | .migrationSweep _ => none

/-- The word of a task-core instruction; none for a step that is none (R40). -/
def encodeTask : Instr → Option (BitVec 32)
  | .nopTask => some (0#32)
  | .addTask d a b => some (1#8 ++ d ++ a ++ b ++ 0#9)
  | .subTask d a b => some (2#8 ++ d ++ a ++ b ++ 0#9)
  | .addiTask d a i => some (3#8 ++ d ++ a ++ i)
  | .mulTask d a b => some (4#8 ++ d ++ a ++ b ++ 0#9)
  | .mulhTask d a b => some (5#8 ++ d ++ a ++ b ++ 0#9)
  | .mulhnTask d a b => some (6#8 ++ d ++ a ++ b ++ 0#9)
  | .div d a b => some (7#8 ++ d ++ a ++ b ++ 0#9)
  | .divn d a b => some (8#8 ++ d ++ a ++ b ++ 0#9)
  | .rem d a b => some (9#8 ++ d ++ a ++ b ++ 0#9)
  | .remn d a b => some (10#8 ++ d ++ a ++ b ++ 0#9)
  | .minTask d a b => some (11#8 ++ d ++ a ++ b ++ 0#9)
  | .maxTask d a b => some (12#8 ++ d ++ a ++ b ++ 0#9)
  | .minnTask d a b => some (13#8 ++ d ++ a ++ b ++ 0#9)
  | .maxnTask d a b => some (14#8 ++ d ++ a ++ b ++ 0#9)
  | .absTask d a => some (15#8 ++ d ++ a ++ 0#14)
  | .negTask d a => some (16#8 ++ d ++ a ++ 0#14)
  | .andTask d a b => some (17#8 ++ d ++ a ++ b ++ 0#9)
  | .orTask d a b => some (18#8 ++ d ++ a ++ b ++ 0#9)
  | .xorTask d a b => some (19#8 ++ d ++ a ++ b ++ 0#9)
  | .andnTask d a b => some (20#8 ++ d ++ a ++ b ++ 0#9)
  | .notTask d a => some (21#8 ++ d ++ a ++ 0#14)
  | .shlTask d a b => some (22#8 ++ d ++ a ++ b ++ 0#9)
  | .shrTask d a b => some (23#8 ++ d ++ a ++ b ++ 0#9)
  | .shaTask d a b => some (24#8 ++ d ++ a ++ b ++ 0#9)
  | .rotTask d a b => some (25#8 ++ d ++ a ++ b ++ 0#9)
  | .clzTask d a => some (26#8 ++ d ++ a ++ 0#14)
  | .popcTask d a => some (27#8 ++ d ++ a ++ 0#14)
  | .selTask d a b => some (28#8 ++ d ++ a ++ b ++ 0#9)
  | .cmpeqTask d a b => some (29#8 ++ d ++ a ++ b ++ 0#9)
  | .cmpneTask d a b => some (30#8 ++ d ++ a ++ b ++ 0#9)
  | .cmpltTask d a b => some (31#8 ++ d ++ a ++ b ++ 0#9)
  | .cmpleTask d a b => some (32#8 ++ d ++ a ++ b ++ 0#9)
  | .cmpltnTask d a b => some (33#8 ++ d ++ a ++ b ++ 0#9)
  | .cmplenTask d a b => some (34#8 ++ d ++ a ++ b ++ 0#9)
  | .moviTask d i => some (35#8 ++ d ++ 0#5 ++ i)
  | .movhiTask d i => some (36#8 ++ d ++ 0#5 ++ i)
  | .movTask d a => some (37#8 ++ d ++ a ++ 0#14)
  | .sextTask d a b => some (38#8 ++ d ++ a ++ b ++ 0#9)
  | .bfxTask d a b => some (39#8 ++ d ++ a ++ b ++ 0#9)
  | .bfiTask d a b => some (40#8 ++ d ++ a ++ b ++ 0#9)
  | .addsTask d a b => some (41#8 ++ d ++ a ++ b ++ 0#9)
  | .subsTask d a b => some (42#8 ++ d ++ a ++ b ++ 0#9)
  | .gldTask d a i => some (128#8 ++ d ++ a ++ i)
  | .gstTask d a i => some (129#8 ++ d ++ a ++ i)
  | .gldsTask d a i => some (130#8 ++ d ++ 0#1 ++ a ++ i)
  | .gstfTask d a i => some (131#8 ++ d ++ 0#1 ++ a ++ i)
  | .aaddTask d a b => some (139#8 ++ d ++ a ++ b ++ 0#9)
  | .aminTask d a b => some (140#8 ++ d ++ a ++ b ++ 0#9)
  | .amaxTask d a b => some (141#8 ++ d ++ a ++ b ++ 0#9)
  | .aandTask d a b => some (142#8 ++ d ++ a ++ b ++ 0#9)
  | .aorTask d a b => some (143#8 ++ d ++ a ++ b ++ 0#9)
  | .axchTask d a b => some (144#8 ++ d ++ a ++ b ++ 0#9)
  | .acasTask d a b => some (145#8 ++ d ++ a ++ b ++ 0#9)
  | .afaddTask d a b => some (146#8 ++ d ++ a ++ b ++ 0#9)
  | .fenceTask s => some (308281344#29 ++ s)
  | .relsTask => some (2483027968#32)
  | .acqsTask => some (2499805184#32)
  | .xferTask d a => some (150#8 ++ d ++ a ++ 0#14)
  | .mirrTask d a => some (151#8 ++ d ++ a ++ 0#14)
  | .pagem d a => some (153#8 ++ d ++ a ++ 0#14)
  | .purge d a => some (218#8 ++ d ++ a ++ 0#14)
  | .keepc d a => some (219#8 ++ d ++ a ++ 0#14)
  | .verdTask d a b => some (217#8 ++ d ++ a ++ b ++ 0#9)
  | .lnch d a b => some (224#8 ++ d ++ a ++ b ++ 0#9)
  | .lnchi d a b => some (225#8 ++ d ++ a ++ b ++ 0#9)
  | .tblsw d a => some (226#8 ++ d ++ a ++ 0#14)
  | .ctxld d a b => some (227#8 ++ d ++ a ++ b ++ 0#9)
  | .ctxsw d a b => some (228#8 ++ d ++ a ++ b ++ 0#9)
  | .drnq d a b => some (229#8 ++ d ++ a ++ b ++ 0#9)
  | .ovrq d a => some (230#8 ++ d ++ a ++ 0#14)
  | .fbsel d a b => some (231#8 ++ d ++ a ++ b ++ 0#9)
  | .teard d a b => some (232#8 ++ d ++ a ++ b ++ 0#9)
  | .partm d a b => some (233#8 ++ d ++ a ++ b ++ 0#9)
  | .doff d a b => some (234#8 ++ d ++ a ++ b ++ 0#9)
  | .spare d a b => some (235#8 ++ d ++ a ++ b ++ 0#9)
  | .br f => some (7552#13 ++ f)
  | .brz a f => some (237#8 ++ a ++ f)
  | .brnz a f => some (238#8 ++ a ++ f)
  | .call f => some (7648#13 ++ f)
  | .ret => some (4026531840#32)
  | .ldk d a i => some (241#8 ++ d ++ a ++ i)
  | .stk d a i => some (242#8 ++ d ++ a ++ i)
  | .ldio d a i => some (243#8 ++ d ++ a ++ i)
  | .stio d a i => some (244#8 ++ d ++ a ++ i)
  | .send d a c => some (245#8 ++ d ++ a ++ 0#8 ++ c)
  | .recv d a c => some (246#8 ++ d ++ a ++ 0#8 ++ c)
  | .tend => some (4143972352#32)
  | .tbind d a b c => some (248#8 ++ d ++ a ++ b ++ 0#3 ++ c)
  | .chpri d a c => some (249#8 ++ d ++ a ++ 0#8 ++ c)
  | .traps i => some (8192000#23 ++ i)
  | .timeq d a b => some (251#8 ++ d ++ a ++ b ++ 0#9)
  | .hashb d a => some (252#8 ++ d ++ a ++ 0#14)
  | .sigv d a => some (253#8 ++ d ++ a ++ 0#14)
  | .sysx d a i => some (254#8 ++ d ++ a ++ 0#5 ++ i)
  | .powerUp _ _ => none
  | .ident _ => none
  | .status _ => none
  | .featnegRead _ => none
  | .featnegWrite _ => none
  | .loadimg _ => none
  | .loadtbl _ => none
  | .startMode _ => none
  | .startEntry _ => none
  | .hostLaunch _ => none
  | .modesw _ => none
  | .qrec _ => none
  | .purgeCmd _ => none
  | .mircfg _ => none
  | .timecfg _ => none
  | .partmode _ => none
  | .dieoff _ => none
  | .attest _ => none
  | .throttle _ => none
  | .keyinst _ => none
  | .sysmapMap _ => none
  | .sysmapUnmap _ => none
  | .taskDispatch => none
  | .watchdog => none
  | .timerCompare _ => none
  | .cryptoCompletion _ => none
  | .monitorSample _ _ => none
  | .thrlvlWrite _ _ => none
  | .alertstWrite _ _ => none
  | .registerWrite _ _ => none
  | .throttleLevelApply _ => none
  | .ingcfgWrite _ _ => none
  | .safeevWrite _ => none
  | .linkTokenArrival _ _ _ => none
  | .controlTokenArrival _ _ _ => none
  | .bypassHop _ _ _ => none
  | .laneDiscardDrop _ _ _ => none
  | .markerTaken _ _ _ => none
  | .teardownToken _ _ => none
  | .scalarAccessCompletion _ => none
  | .parkedAccessRetest _ => none
  | .jobElement _ _ => none
  | .jobFaultStop _ _ => none
  | .jobRetirement _ _ => none
  | .portWeightRecompute _ => none
  | .heldOpRetirement _ => none
  | .pommelStoreDrain => none
  | .hostWrite _ _ => none
  | .migrationSwitch _ => none
  | .pagemCompletion _ => none
  | .pommelJobCompletion _ => none
  | .mirrorWriteReceive _ => none
  | .matrixGroupCommit _ => none
  | .matrixCommandRetirement _ => none
  | .matrixFeedFault _ => none
  | .mdDrainToken _ => none
  | .cinchRequestArrival _ => none
  | .cinchPendSubtract _ _ _ => none
  | .collContributionArrival _ => none
  | .collRetirement _ => none
  | .tapeRecordAccept _ _ => none
  | .tapeKeyWrite _ _ => none
  | .tapeClose _ _ => none
  | .tapeRegeneration _ _ => none
  | .dcmpjEngineStart _ _ => none
  | .dcmpjCompletion _ _ => none
  | .tableActivation _ => none
  | .runStart _ _ => none
  | .countTake _ _ => none
  | .deadline _ => none
  | .completionRecordWrite _ => none
  | .modeChangePoint _ => none
  | .ctxldDone _ => none
  | .partmDone _ => none
  | .doffDone _ => none
  | .spareDone _ => none
  | .voteCompare _ => none
  | .voteCopyStart _ => none
  | .keeperAdvance _ _ => none
  | .keeperCompare _ => none
  | .rollback _ _ => none
  | .configReload _ _ => none
  | .machineCheck _ => none
  | .dieLinkRetrainFailure _ => none
  | .heartbeatSend => none
  | .heartbeatReceive _ => none
  | .heartbeatTimeout => none
  | .pfaultAssert => none
  | .berylLinkDown => none
  | .sensorFrame _ _ => none
  | .nop _ _ => none
  | .add _ _ _ => none
  | .sub _ _ _ => none
  | .addi _ _ _ => none
  | .mul _ _ _ => none
  | .mulh _ _ _ => none
  | .mulhn _ _ _ => none
  | .min _ _ _ => none
  | .max _ _ _ => none
  | .minn _ _ _ => none
  | .maxn _ _ _ => none
  | .abs _ _ _ => none
  | .neg _ _ _ => none
  | .and _ _ _ => none
  | .or _ _ _ => none
  | .xor _ _ _ => none
  | .andn _ _ _ => none
  | .not _ _ _ => none
  | .shl _ _ _ => none
  | .shr _ _ _ => none
  | .sha _ _ _ => none
  | .rot _ _ _ => none
  | .clz _ _ _ => none
  | .popc _ _ _ => none
  | .sel _ _ _ => none
  | .cmpeq _ _ _ => none
  | .cmpne _ _ _ => none
  | .cmplt _ _ _ => none
  | .cmple _ _ _ => none
  | .cmpltn _ _ _ => none
  | .cmplen _ _ _ => none
  | .movi _ _ => none
  | .movhi _ _ => none
  | .mov _ _ _ => none
  | .movSpecialRead _ _ _ => none
  | .movSpecialWrite _ _ _ => none
  | .sext _ _ _ => none
  | .bfx _ _ _ => none
  | .bfi _ _ _ => none
  | .adds _ _ _ => none
  | .subs _ _ _ => none
  | .fadd _ _ _ => none
  | .fsub _ _ _ => none
  | .fmul _ _ _ => none
  | .fma _ _ _ => none
  | .fms _ _ _ => none
  | .fnma _ _ _ => none
  | .fmin _ _ => none
  | .fmax _ _ => none
  | .fabs _ _ => none
  | .fneg _ _ => none
  | .fcmpeq _ _ => none
  | .fcmplt _ _ => none
  | .fcmple _ _ => none
  | .fcmpun _ _ => none
  | .fcvt _ _ _ _ => none
  | .fclass _ _ => none
  | .frnd _ _ _ => none
  | .ftoi _ _ _ _ => none
  | .itof _ _ _ => none
  | .fscale _ _ _ => none
  | .fdot2 _ _ _ => none
  | .fexpn _ _ => none
  | .fmant _ _ => none
  | .qnt _ _ _ _ _ _ => none
  | .dqnt _ _ _ => none
  | .lut _ _ _ _ => none
  | .lutix _ _ _ _ => none
  | .rredf _ _ => none
  | .rredn _ _ => none
  | .rexp _ _ _ => none
  | .lutsel _ _ _ => none
  | .steer _ _ _ _ => none
  | .merge _ _ _ => none
  | .mergea _ _ => none
  | .gate _ _ _ _ => none
  | .drop _ _ _ _ => none
  | .cemit _ _ _ _ => none
  | .ctest _ _ _ => none
  | .cand _ _ _ _ => none
  | .cor _ _ _ _ => none
  | .cnot _ _ _ => none
  | .eose _ _ _ => none
  | .eosq _ _ _ => none
  | .cnti _ _ => none
  | .cnts _ _ _ _ => none
  | .cntl _ _ => none
  | .phase _ _ _ => none
  | .ctxp _ _ _ => none
  | .rowq _ _ => none
  | .iofq _ _ => none
  | .frmq _ _ => none
  | .dly _ _ => none
  | .armx _ _ _ _ => none
  | .talloc _ _ _ _ _ => none
  | .tfree _ _ _ _ => none
  | .tqry _ _ _ _ _ _ => none
  | .ldt _ _ _ _ _ _ _ => none
  | .stt _ _ _ _ _ _ => none
  | .ldts _ _ _ _ _ _ _ => none
  | .sttf _ _ _ _ _ _ => none
  | .ldte _ _ _ _ _ _ _ => none
  | .feset _ _ _ _ _ _ => none
  | .feq _ _ _ _ _ _ => none
  | .tcopy _ _ _ _ _ => none
  | .tfill _ _ _ _ _ => none
  | .tlevel _ _ _ _ _ _ => none
  | .gld _ _ _ _ _ _ _ => none
  | .gst _ _ _ _ _ _ => none
  | .glds _ _ _ _ _ _ _ => none
  | .gstf _ _ _ _ _ _ => none
  | .strmi _ _ _ _ _ _ => none
  | .strmo _ _ _ _ _ _ => none
  | .gath _ _ _ _ _ _ => none
  | .scat _ _ _ _ _ _ => none
  | .sprg _ _ _ _ _ _ => none
  | .sabt _ _ _ _ _ => none
  | .sres _ _ _ _ _ => none
  | .aadd _ _ _ _ _ _ => none
  | .amin _ _ _ _ _ _ => none
  | .amax _ _ _ _ _ _ => none
  | .aand _ _ _ _ _ _ => none
  | .aor _ _ _ _ _ _ => none
  | .axch _ _ _ _ _ _ => none
  | .acas _ _ _ _ _ _ => none
  | .afadd _ _ _ _ _ => none
  | .fence _ _ => none
  | .rels _ => none
  | .acqs _ => none
  | .xfer _ _ _ _ _ => none
  | .mirr _ _ _ _ _ => none
  | .coll _ _ _ _ _ => none
  | .mma _ _ _ _ _ => none
  | .mmas _ _ _ _ _ => none
  | .mmav _ _ _ _ _ => none
  | .mmab _ _ _ _ _ => none
  | .macc _ _ _ _ _ _ => none
  | .mdrn _ _ _ _ _ _ => none
  | .mprg _ _ => none
  | .mres _ => none
  | .mabt _ => none
  | .mshp _ _ _ _ => none
  | .xld _ _ _ _ _ _ _ => none
  | .xst _ _ _ _ _ => none
  | .cbld _ _ _ _ _ _ => none
  | .vqx _ _ _ _ _ _ => none
  | .compm _ _ _ _ _ => none
  | .expdm _ _ _ _ _ => none
  | .fibp _ _ _ _ _ => none
  | .fibu _ _ _ _ _ => none
  | .isect _ _ _ _ _ _ => none
  | .dcmpj _ _ _ _ _ => none
  | .dcmpq _ _ _ _ _ _ => none
  | .lzcp _ _ _ _ _ _ => none
  | .layw _ _ => none
  | .layr _ _ _ => none
  | .trns _ _ _ _ _ => none
  | .redx _ _ _ _ _ => none
  | .cinit _ _ => none
  | .carr _ _ _ => none
  | .cexpb _ _ => none
  | .cqry _ _ _ => none
  | .cdrop _ _ => none
  | .tapeb _ _ => none
  | .tapee _ => none
  | .tapev _ _ _ => none
  | .taper _ _ => none
  | .tapep _ _ => none
  | .tapec _ => none
  | .tapeq _ _ => none
  | .tapek _ _ => none
  | .mark _ => none
  | .snapq _ _ => none
  | .rtag _ => none
  | .poisn _ _ => none
  | .poisq _ => none
  | .verd _ _ => none
  | .cmpv _ _ => none
  | .tickCounterAdvance => none
  | .ptpServoAdjust _ _ => none
  | .ptpSynchronisation _ _ => none
  | .illegalInstruction => none
  | .fetchFault => none
  | .unknownCommandCode _ _ => none
  | .tileMoveCompletion _ => none
  | .cinchAnswerArrival _ => none
  | .migrationSweep _ => none

/-- The words of an instruction: those of a row, that of a task-core instruction, or none for a step without bits. -/
inductive Words where
  | row (op : BitVec 24) (route reg : BitVec 16)
  | task (w : BitVec 32)
  | none
  deriving DecidableEq, Repr

/-- The encoder, from the tables of R34-R45. -/
def encode (i : Instr) : Words :=
  match encodeOp i with
  | some (op, wr) => .row op (encodeRoute wr.route) (encodeReg wr.reg)
  | none => match encodeTask i with
    | some w => .task w
    | none => .none

/-- The decoder on the words of the encoder. -/
noncomputable def decodeWords : Words → Option Instr
  | .row op route reg => (decodeRow op route reg).toOption
  | .task w => (decodeTask w).toOption
  | .none => none

end Sys2Proof
end

