-- ==== Sys2Proof/Machine/Num.lean ====
section
/-! DEFINITION. Number formats, exact values, rounding and conversion (spec 03_numbers R61-R77, R81). Values are exact
rationals with a sign; each format rounds once. -/

namespace Sys2Proof.Machine

/-- The type of a code (R61). -/
def tyOf (code : Nat) : Ty :=
  match code with
  | 0 => .untyped | 1 => .i32 | 2 => .n32 | 3 => .i16 | 4 => .n16 | 5 => .i8 | 6 => .n8 | 7 => .i4
  | 8 => .n4 | 9 => .fp32 | 10 => .fp19 | 11 => .bf16 | 12 => .fp16 | 13 => .fp8e4 | 14 => .fp8e5 | 15 => .fp6e3
  | 16 => .fp6e2 | 17 => .fp4e2 | 18 => .mx8e4 | 19 => .mx8e5 | 20 => .mx6e3 | 21 => .mx6e2 | 22 => .mx4e2 | 23 => .mxi8
  | 24 => .fb4 | 25 => .gi4 | 26 => .vq4b | 27 => .vq4f | 28 => .hdl | 29 => .ctl | 30 => .fib
  | _ => .reserved

/-- The sticky floating flags of R71 and the saturation flag of R88. -/
structure Flags where
  nv : Bool := false
  dz : Bool := false
  of : Bool := false
  uf : Bool := false
  nx : Bool := false
  sat : Bool := false
  deriving DecidableEq, Repr

/-- Flags of either of two operations. -/
def Flags.or (a b : Flags) : Flags :=
  ⟨a.nv || b.nv, a.dz || b.dz, a.of || b.of, a.uf || b.uf, a.nx || b.nx, a.sat || b.sat⟩

/-- The flags at their places in ESR (R88). -/
def Flags.toEsr (f : Flags) : W32 :=
  bit 32 f.nv ||| (bit 32 f.dz <<< 1) ||| (bit 32 f.of <<< 2) ||| (bit 32 f.uf <<< 3) ||| (bit 32 f.nx <<< 4) |||
    (bit 32 f.sat <<< 5)

/-- An exact value: NaN (signalling or quiet), an infinity, or a signed rational (R63, R70). -/
inductive Num where
  | nan (sig : Bool)
  | inf (neg : Bool)
  | fin (neg : Bool) (n d : Nat)
  deriving DecidableEq, Repr

/-- A floating format of R63: exponent and mantissa bits, bias, IEEE-style infinities, the magnitude code of the canonical
NaN where the format has NaN, the largest finite magnitude code, and the container shift of fp19 (R62). -/
structure Fmt where
  e : Nat
  m : Nat
  bias : Nat
  ieee : Bool
  nan : Option Nat
  maxCode : Nat
  shift : Nat := 0
  deriving DecidableEq, Repr

namespace Fmt
def fp32 : Fmt := ⟨8, 23, 127, true, some 0x7FC00000, 0x7F7FFFFF, 0⟩
def fp19 : Fmt := ⟨8, 10, 127, true, some 0x3FE00, 0x3FBFF, 13⟩
def bf16 : Fmt := ⟨8, 7, 127, true, some 0x7FC0, 0x7F7F, 0⟩
def fp16 : Fmt := ⟨5, 10, 15, true, some 0x7E00, 0x7BFF, 0⟩
def fp8e4 : Fmt := ⟨4, 3, 7, false, some 0x7F, 0x7E, 0⟩
def fp8e5 : Fmt := ⟨5, 2, 15, true, some 0x7E, 0x7B, 0⟩
def fp6e3 : Fmt := ⟨3, 2, 3, false, none, 0x1F, 0⟩
def fp6e2 : Fmt := ⟨2, 3, 1, false, none, 0x1F, 0⟩
def fp4e2 : Fmt := ⟨2, 1, 1, false, none, 0x7, 0⟩
end Fmt

/-- Width of a code of the format: sign, exponent, mantissa. -/
def Fmt.width (f : Fmt) : Nat := 1 + f.e + f.m

/-- The format of a scalar float type (R61). -/
def fmtOf : Ty → Option Fmt
  | .fp32 => some .fp32 | .fp19 => some .fp19 | .bf16 => some .bf16 | .fp16 => some .fp16
  | .fp8e4 => some .fp8e4 | .fp8e5 => some .fp8e5 | .fp6e3 => some .fp6e3 | .fp6e2 => some .fp6e2
  | .fp4e2 => some .fp4e2
  | _ => none

/-- The value range of an integer type (R61). -/
def rangeOf : Ty → Option (Int × Int)
  | .i32 => some (-2147483648, 2147483647) | .n32 => some (0, 4294967295)
  | .i16 => some (-32768, 32767) | .n16 => some (0, 65535)
  | .i8 => some (-128, 127) | .n8 => some (0, 255)
  | .i4 => some (-8, 7) | .n4 => some (0, 15)
  | _ => none

/-- Width in bits of an element of a type in memory or a container (R61, R64). -/
def widthOf : Ty → Nat
  | .i16 | .n16 | .bf16 | .fp16 => 16
  | .i8 | .n8 | .fp8e4 | .fp8e5 | .mx8e4 | .mx8e5 | .mxi8 => 8
  | .fp6e3 | .fp6e2 | .mx6e3 | .mx6e2 => 6
  | .i4 | .n4 | .fp4e2 | .mx4e2 | .fb4 | .gi4 => 4
  | .vq4b | .vq4f => 8
  | _ => 32

/-- Is the type a signed integer type? -/
def isSigned : Ty → Bool
  | .i32 | .i16 | .i8 | .i4 => true
  | _ => false

/-- Is the type a scalar float type? -/
def isFloat (t : Ty) : Bool := (fmtOf t).isSome
/-- Is the type an integer type? -/
def isInt (t : Ty) : Bool := (rangeOf t).isSome
/-- fp32, bf16 or fp16: the types of the floating instructions (R74). -/
def isF3 : Ty → Bool
  | .fp32 | .bf16 | .fp16 => true
  | _ => false

/-- The rational k·2^ex as numerator and denominator. -/
def scaled (k : Nat) (ex : Int) : Nat × Nat :=
  if 0 ≤ ex then (k * 2 ^ ex.toNat, 1) else (k, 2 ^ (-ex).toNat)

/-- The exact finite value ±k·2^ex. -/
def Num.mk (neg : Bool) (k : Nat) (ex : Int) : Num :=
  let (n, d) := scaled k ex
  .fin neg n d

/-- Value of a magnitude code (R63). -/
def Fmt.magnitude (f : Fmt) (c : Nat) : Nat × Int :=
  let ex := c / 2 ^ f.m
  let ma := c % 2 ^ f.m
  if ex = 0 then (ma, 1 - f.bias - f.m) else (2 ^ f.m + ma, (ex : Int) - f.bias - f.m)

/-- The value of a code of the format (R63, R70). -/
def Fmt.value (f : Fmt) (code : Nat) : Num :=
  let c := code % 2 ^ f.width
  let neg := c / 2 ^ (f.e + f.m) == 1
  let mag := c % 2 ^ (f.e + f.m)
  let ma := mag % 2 ^ f.m
  if mag > f.maxCode then
    (if f.ieee then (if ma = 0 then .inf neg else .nan (ma < 2 ^ (f.m - 1))) else .nan false)
  else
    let (k, ex) := f.magnitude mag
    Num.mk neg k ex

/-- The value that a 32-bit container holds in a float format (R62). -/
def Fmt.read (f : Fmt) (w : W32) : Num := f.value (w.toNat / 2 ^ f.shift)

/-- The container of a code (R62). -/
def Fmt.pack (f : Fmt) (code : Nat) : W32 := BitVec.ofNat 32 (code * 2 ^ f.shift)

/-- ⌊log2 (n/d)⌋ for n, d > 0. -/
def floorLog2 (n d : Nat) : Int :=
  let k : Int := (n.log2 : Int) - (d.log2 : Int)
  let (p, q) := scaled 1 k
  if n * q < p * d then k - 1 else k

/-- Does the mode take the neighbour of greater magnitude, for remainder r of divisor d after the even or odd quotient lo
(R66, R68)? -/
def roundUp (m : RM) (draw : Nat) (neg : Bool) (lo r d : Nat) : Bool :=
  match m with
  | .rne => decide (2 * r > d) || (2 * r == d && lo % 2 == 1)
  | .rtz => false
  | .rdn => neg
  | .rup => !neg
  | .rna => decide (2 * r ≥ d)
  | .rsr => decide (r * 65536 / d + draw ≥ 65536)

/-- n/d rounded to an integer multiple of 2^q: the multiple and whether it is exact (R66). -/
def roundQuantum (m : RM) (draw : Nat) (neg : Bool) (n d : Nat) (q : Int) : Nat × Bool :=
  let (p, r) := scaled 1 (-q)
  let num := n * p
  let den := d * r
  let lo := num / den
  let rem := num % den
  if rem = 0 then (lo, true) else (lo + (if roundUp m draw neg lo rem den then 1 else 0), false)

/-- The code of a rounded magnitude with a sign. -/
def Fmt.signed (f : Fmt) (neg : Bool) (mag : Nat) : Nat := (if neg then 2 ^ (f.e + f.m) else 0) + mag

/-- Magnitude code of infinity in an IEEE-style format. -/
def Fmt.infCode (f : Fmt) : Nat := (2 ^ f.e - 1) * 2 ^ f.m

/-- The canonical NaN, or +0 where the format has none (R70, R72). -/
def Fmt.nanCode (f : Fmt) : Nat := f.nan.getD 0

/-- Does an overflow in this mode deliver the infinity (R72)? -/
def overflowsToInf (m : RM) (neg : Bool) : Bool :=
  match m with
  | .rne | .rna | .rsr => true
  | .rtz => false
  | .rdn => neg
  | .rup => !neg

/-- An exact value rounded once to a format, with its flags (R66, R71, R72). -/
def Fmt.round (f : Fmt) (m : RM) (sat : Bool) (draw : Nat) : Num → Nat × Flags
  | .nan _ => (f.nanCode, { nv := f.nan.isNone })
  | .inf neg =>
    if f.ieee && !sat then (f.signed neg f.infCode, {}) else (f.signed neg f.maxCode, { nx := true })
  | .fin neg n d =>
    if n = 0 then (f.signed neg 0, {}) else
      let ex := floorLog2 n d
      let qmin : Int := 1 - f.bias - f.m
      let q := max (ex - f.m) qmin
      let (k, exact) := roundQuantum m draw neg n d q
      let mag := (q - qmin).toNat * 2 ^ f.m + k
      if mag > f.maxCode then
        let top := if f.ieee && !sat && overflowsToInf m neg then f.infCode else f.maxCode
        (f.signed neg top, { of := true, nx := true })
      else
        let (k', _) := roundQuantum m draw neg n d (ex - f.m)
        let tiny := decide (floorLog2 (max k' 1) 1 + (ex - f.m) < 1 - (f.bias : Int))
        (f.signed neg mag, { uf := tiny && !exact, nx := !exact })

/-- A finite value rounded to an integer, and whether it is exact. -/
def roundInt (m : RM) (draw : Nat) (neg : Bool) (n d : Nat) : Int × Bool :=
  let (k, exact) := roundQuantum m draw neg n d 0
  (if neg then -(k : Int) else (k : Int), exact)

/-- Low w bits of an integer as a container: sign-extended for an i-type, zero-extended otherwise (R62). -/
def intContainer (t : Ty) (v : Int) : W32 :=
  let w := widthOf t
  if isSigned t then (BitVec.ofInt w v).signExtend 32 else (BitVec.ofInt w v).zeroExtend 32

/-- The value of an integer container in its own type (R61, R62). -/
def intValue (t : Ty) (v : W32) : Int :=
  let w := widthOf t
  if isSigned t || t == .untyped then (v.setWidth w).toInt else ((v.setWidth w).toNat : Int)

/-- A container read in a type, extended as R62 states for narrow types; the consumer ignores the bits above (R62). -/
def readContainer (t : Ty) (v : W32) : W32 :=
  match t with
  | .i16 | .i8 | .i4 => (v.setWidth (widthOf t)).signExtend 32
  | .n16 | .n8 | .n4 | .bf16 | .fp16 | .fp8e4 | .fp8e5 | .fp6e3 | .fp6e2 | .fp4e2 =>
    (v.setWidth (widthOf t)).zeroExtend 32
  | .fp19 => (v >>> 13) <<< 13
  | .hdl => v &&& 0x3FF
  | .ctl => v &&& 1
  | _ => v

/-- A 32-bit result delivered in the container form of its destination type (R62, R85). -/
def deliver (t : Ty) (v : W32) : W32 :=
  match t with
  | .ctl => bit 32 (v != 0)
  | _ => readContainer t v

/-- Clamp an integer to a range. -/
def clampInt (lo hi v : Int) : Int := if v < lo then lo else if v > hi then hi else v

/-- A float value converted to an integer type (R73). -/
def floatToInt (t : Ty) (m : RM) (sat : Bool) (draw : Nat) (x : Num) : W32 × Flags :=
  let (lo, hi) := (rangeOf t).getD (0, 0)
  let bad := if isSigned t then lo else hi
  match x with
  | .nan _ => (intContainer t (if sat then 0 else bad), { nv := true })
  | .inf neg => (intContainer t (if sat then (if neg then lo else hi) else bad), { nv := true })
  | .fin neg n d =>
    let (v, exact) := roundInt m draw neg n d
    if lo ≤ v ∧ v ≤ hi then (intContainer t v, { nx := !exact })
    else (intContainer t (if sat then clampInt lo hi v else bad), { nv := true })

/-- An integer converted to an integer type (R73). -/
def intToInt (t : Ty) (sat : Bool) (v : Int) : W32 × Flags :=
  let (lo, hi) := (rangeOf t).getD (0, 0)
  if sat then
    (if lo ≤ v ∧ v ≤ hi then (intContainer t v, {}) else (intContainer t (clampInt lo hi v), { of := true, nx := true }))
  else (intContainer t v, {})

/-- The exact value of an integer. -/
def Num.ofInt (v : Int) : Num := .fin (decide (v < 0)) v.natAbs 1

/-- Is the value a signalling NaN (R70)? -/
def Num.isSig : Num → Bool
  | .nan s => s
  | _ => false
/-- Is the value NaN? -/
def Num.isNan : Num → Bool
  | .nan _ => true
  | _ => false
/-- Is the value a zero? -/
def Num.isZero : Num → Bool
  | .fin _ n _ => n == 0
  | _ => false
/-- Sign of a value; NaN counts as positive. -/
def Num.sign : Num → Bool
  | .nan _ => false
  | .inf s => s
  | .fin s _ _ => s
/-- The value with its sign inverted. -/
def Num.neg : Num → Num
  | .nan s => .nan s
  | .inf s => .inf (!s)
  | .fin s n d => .fin (!s) n d
/-- The value with sign 0. -/
def Num.abs : Num → Num
  | .nan s => .nan s
  | .inf _ => .inf false
  | .fin _ n d => .fin false n d

/-- Exact product, and whether it is invalid (R96). -/
def Num.mul (a b : Num) : Num × Bool :=
  match a, b with
  | .nan _, _ | _, .nan _ => (.nan false, false)
  | .inf s, .inf t => (.inf (s != t), false)
  | .inf s, .fin t n _ => if n = 0 then (.nan false, true) else (.inf (s != t), false)
  | .fin s n _, .inf t => if n = 0 then (.nan false, true) else (.inf (s != t), false)
  | .fin s n d, .fin t n' d' => (.fin (s != t) (n * n') (d * d'), false)

/-- Exact sum, and whether it is invalid. `rdn` says that the rounding mode is rdn, which decides the sign of an exact zero
sum of terms of opposite sign (R66, R96). -/
def Num.add (rdn : Bool) (a b : Num) : Num × Bool :=
  match a, b with
  | .nan _, _ | _, .nan _ => (.nan false, false)
  | .inf s, .inf t => if s = t then (.inf s, false) else (.nan false, true)
  | .inf s, _ => (.inf s, false)
  | _, .inf t => (.inf t, false)
  | .fin s n d, .fin t n' d' =>
    let x := n * d'
    let y := n' * d
    if s = t then (.fin s (x + y) (d * d'), false)
    else if x > y then (.fin s (x - y) (d * d'), false)
    else if y > x then (.fin t (y - x) (d * d'), false)
    else (.fin rdn 0 1, false)

/-- Exact quotient of finite values with a nonzero divisor; an infinite dividend stays infinite. -/
def Num.div (a b : Num) : Num :=
  match a, b with
  | .fin s n d, .fin t n' d' => .fin (s != t) (n * d') (d * n')
  | .inf s, .fin t _ _ => .inf (s != t)
  | .fin s _ _, .inf t => .fin (s != t) 0 1
  | _, _ => .nan false

/-- The value times 2^k. -/
def Num.scale (k : Int) : Num → Num
  | .fin s n d => let (p, q) := scaled 1 k; .fin s (n * p) (d * q)
  | x => x

/-- a < b for values that are not NaN; the zeros are equal (R63, R98). -/
def Num.lt (a b : Num) : Bool :=
  match a, b with
  | .inf s, .inf t => s && !t
  | .inf s, .fin .. => s
  | .fin .., .inf t => !t
  | .fin s n d, .fin t n' d' =>
    let x : Int := (if s then -1 else 1) * ((n * d' : Nat) : Int)
    let y : Int := (if t then -1 else 1) * ((n' * d : Nat) : Int)
    decide (x < y)
  | _, _ => false

/-- a = b for values that are not NaN. -/
def Num.eqv (a b : Num) : Bool :=
  !a.isNan && !b.isNan && !(a.lt b) && !(b.lt a)

/-- The value of an E8M0 code: NaN for 0xFF (R63). -/
def e8m0 (c : Nat) : Num := if c % 256 = 255 then .nan false else Num.mk false 1 ((c % 256 : Nat) - 127)

/-- The next state of the 16-bit LFSR of R68. -/
def lfsrNext (l : BitVec 16) : BitVec 16 :=
  (l <<< 1) ||| ((l >>> 15 ^^^ l >>> 13 ^^^ l >>> 12 ^^^ l >>> 10) &&& 1)

/-- The LFSR value that a seed loads (R68, R87). -/
def lfsrSeed (v : BitVec 16) : BitVec 16 := if v = 0 then 1 else v

/-- The state of the LFSR after a rounding: it advances once for each result rounded in rsr (R68, R69). -/
def lfsrAfter (m : RM) (l : BitVec 16) : BitVec 16 := if m = .rsr then lfsrNext l else l

/-- The element format of a block-scaled type (R64). -/
def elemFmt : Ty → Option Fmt
  | .mx8e4 => some .fp8e4 | .mx8e5 => some .fp8e5 | .mx6e3 => some .fp6e3 | .mx6e2 => some .fp6e2
  | .mx4e2 => some .fp4e2 | .fb4 => some .fp4e2
  | _ => none

/-- The largest element exponent of an mx format (R77). -/
def emaxOf : Ty → Int
  | .mx8e4 => 8 | .mx8e5 => 15 | .mx6e3 => 4 | .mx6e2 => 2 | .mx4e2 => 2
  | _ => 0

/-- Elements per block of a block-scaled format (R64). -/
def blockOf : Ty → Nat
  | .mx8e4 | .mx8e5 | .mx6e3 | .mx6e2 | .mx4e2 | .mxi8 | .gi4 => 32
  | .fb4 => 16
  | _ => 1

/-- Is the type one of the mx formats? -/
def isMx : Ty → Bool
  | .mx8e4 | .mx8e5 | .mx6e3 | .mx6e2 | .mx4e2 | .mxi8 => true
  | _ => false
/-- Is the type block-scaled (R64)? -/
def isBlock (t : Ty) : Bool := isMx t || t == .fb4 || t == .gi4
/-- Is the type a codebook format (R64)? -/
def isVq : Ty → Bool
  | .vq4b | .vq4f => true
  | _ => false

/-- Bytes of one scale of a block (R65). -/
def scaleBytes : Ty → Nat
  | .gi4 => 2
  | _ => 1

/-- The largest magnitude of a list of values that are neither NaN nor infinite. -/
def maxAbs (xs : List Num) : Num :=
  xs.foldl (fun a x => if a.lt x.abs then x.abs else a) (.fin false 0 1)

/-- Does the list hold a NaN or an infinity? -/
def anySpecial (xs : List Num) : Bool :=
  xs.any fun x => match x with
    | .fin .. => false
    | _ => true

/-- The mx scale code of a block maximum, and whether the exponent was clamped at 127 (R77, R101). -/
def mxScale (emax : Int) (a : Num) : Nat × Flags :=
  match a with
  | .fin _ n d =>
    if n = 0 then (0, {}) else
      let s := floorLog2 n d - emax
      ((clampInt (-127) 127 s + 127).toNat, { of := decide (s > 127) })
  | _ => (255, { nv := true })

/-- One element of an mx block rounded under the scale X (R75, R77): a saturation caused by the scale selection alone sets
inexact alone. -/
def mxElem (f : Fmt) (emax : Int) (m : RM) (draw : Nat) (q : Num) : Nat × Flags :=
  let (c, fl) := f.round m true draw q
  if fl.of && q.abs.lt (Num.mk false 1 (emax + 1)) then (c, { fl with of := false }) else (c, fl)

/-- round(64·x/X) clamped to ±127, as the element of an mxi8 block (R77, R101). -/
def mxi8Elem (m : RM) (draw : Nat) (q : Num) : Int × Flags :=
  match q with
  | .fin neg n d =>
    let (v, exact) := roundInt m draw neg (64 * n) d
    if v > 127 ∨ v < -127 then
      (clampInt (-127) 127 v, { nx := true, of := !(q.abs.lt (Num.ofInt 2)) })
    else (v, { nx := !exact })
  | .inf neg => (if neg then -127 else 127, { nv := true })
  | .nan _ => (0, { nv := true })

/-- x/X rounded and clamped to a symmetric or unsigned range (R77, R101). -/
def clampElem (lo hi : Int) (m : RM) (draw : Nat) (q : Num) : Int × Flags :=
  match q with
  | .fin neg n d =>
    let (v, exact) := roundInt m draw neg n d
    if v > hi ∨ v < lo then (clampInt lo hi v, { nx := true, of := true }) else (v, { nx := !exact })
  | .inf neg => (if neg then lo else hi, { nv := true })
  | .nan _ => (0, { nv := true })

/-- Rounding in one mode along a list, each element taking the next LFSR value in ascending index (R68, R69). -/
def roundList (m : RM) (one : Nat → Num → Nat × Flags) : BitVec 16 → List Num → List Nat × Flags × BitVec 16
  | l, [] => ([], {}, l)
  | l, x :: xs =>
    let (c, fl) := one l.toNat x
    let (cs, fls, l') := roundList m one (lfsrAfter m l) xs
    (c :: cs, fl.or fls, l')

/-- Quantise one block (R75-R77): scale code, element codes, flags, LFSR. `tscale` is the fb4 tensor scale. The model's choices where R68 and
R77 are silent (log 51): an fb4 block's NaN inputs are left out of its maximum and an infinite one gives the scale 448; the rounding of an fb4
or gi4 scale raises no flag of its own; an all-zero, NaN or invalid block draws nothing from the LFSR. -/
def quantBlock (t : Ty) (m : RM) (l : BitVec 16) (tscale : Num) (xs : List Num) :
    Nat × List Nat × Flags × BitVec 16 :=
  let zeros := xs.map fun _ => 0
  match t with
  | .fb4 =>
    let okT := match tscale with
      | .fin neg n _ => !neg && n != 0
      | _ => false
    if !okT then (0x7F, zeros, { nv := true }, l) else
      let a := maxAbs (xs.filter (!·.isNan))
      if a.isZero then (0, xs.map fun _ => 0, { nv := xs.any (·.isNan) }, l) else
        let (c0, _) := Fmt.fp8e4.round .rup true 0 (a.div (Num.mul (Num.ofInt 6) tscale).1)
        let c := max c0 1
        let sc := (Num.mul (Fmt.fp8e4.value c) tscale).1
        let (cs, fl, l') := roundList m (fun d x => Fmt.fp4e2.round m true d (x.div sc)) l xs
        (c, cs, fl, l')
  | .gi4 =>
    if anySpecial xs then (0x7E00, zeros, { nv := true }, l) else
      let a := maxAbs xs
      if a.isZero then (0, zeros, {}, l) else
        let (c, _) := Fmt.fp16.round .rup false 0 (a.div (Num.ofInt 7))
        let sc := Fmt.fp16.value c
        let (cs, fl, l') := roundList m (fun d x =>
          let (v, f) := clampElem (-7) 7 m d (x.div sc); ((v % 16).toNat, f)) l xs
        (c, cs, fl, l')
  | _ =>
    if anySpecial xs then (0xFF, zeros, { nv := true }, l) else
      let a := maxAbs xs
      if a.isZero then (0, zeros, {}, l) else
        let (c, _) := mxScale (emaxOf t) a
        let sc := e8m0 c
        let (cs, fl, l') := match elemFmt t with
          | some f => roundList m (fun d x => mxElem f (emaxOf t) m d (x.div sc)) l xs
          | none => roundList m (fun d x =>
              let (v, f) := mxi8Elem m d (x.div sc); ((v % 256).toNat, f)) l xs
        (c, cs, fl, l')

/-- The exact value of a block element code under its scale value, tensor scale left out (R64); a signalling NaN read and an invalid
product show as a signalling NaN (R70, R71). -/
def blockElem (t : Ty) (sc : Num) (c : Nat) : Num :=
  let v := match elemFmt t with
    | some f => f.value c
    | none => if t = .mxi8 then Num.scale (-6) (Num.ofInt ((BitVec.ofNat 8 c).toInt))
              else Num.ofInt ((BitVec.ofNat 4 c).toInt)
  let (x, bad) := Num.mul v sc
  if v.isSig || sc.isSig || bad then .nan true else x

/-- The value of a scale code of a block format (R63, R64). -/
def scaleValue (t : Ty) (c : Nat) : Num :=
  match t with
  | .fb4 => Fmt.fp8e4.value c
  | .gi4 => Fmt.fp16.value c
  | _ => e8m0 c

end Sys2Proof.Machine
end

