-- ==== Sys2Proof/Machine/Classes.lean ====
section
/-! DEFINITION. Which types each instruction accepts for its operands and its result, and which instructions give a result (spec
04_arithmetic R84, R85, R92-R106, 06_routing R149, 07_tiles R173-R179, 08_global R191-R212, 09_ordering R229-R240, 10_matrix R253-R264,
11_transform R269-R294, 12_tape R311-R319, 14_containment R356-R370; log 30). -/

namespace Sys2Proof.Machine

/-- Sets of types that an operand or a result may have. `no` is no operand: the source is Z, or there is no result. -/
inductive Acc where
  | no | scalar | arith | result | intU | int | num | float | f3 | f3x | narrow | scale | quant | gi | mxs | bool | query | hdl | fp32 | i32
  | aint | abits | codebook | n32
  deriving DecidableEq, Repr

/-- Is a type one that stands in a register or token as a scalar (R62)? -/
def isScalar (t : Ty) : Bool := isInt t || isFloat t || [Ty.untyped, .hdl, .ctl, .fib].contains t

/-- Is a type of a set? -/
def Acc.has : Acc → Ty → Bool
  | .no, _ => false
  | .scalar, t => isScalar t
  | .arith, t => isInt t || t == .untyped || t == .hdl
  | .result, t => isInt t || t == .untyped || t == .hdl || t == .ctl
  | .intU, t => isInt t || t == .untyped
  | .int, t => isInt t
  | .num, t => isInt t || isFloat t
  | .float, t => isFloat t
  | .f3, t => isF3 t
  | .f3x, t => isF3 t || t == .fp19
  | .narrow, t => [Ty.fp8e4, .fp8e5, .fp6e3, .fp6e2, .fp4e2, .i16, .n16, .i8, .n8, .i4, .n4].contains t
  | .scale, t => isF3 t || t == .n8
  | .quant, t => [Ty.fp16, .bf16, .fp8e4, .fp8e5, .fp6e3, .fp6e2, .fp4e2, .i8, .i4, .i16, .n8, .n4, .n16].contains t
  | .mxs, t => t == .n8
  | .gi, t => t == .fp16
  | .bool, t => isInt t || t == .ctl || t == .untyped
  | .query, t => [Ty.n32, .i32, .untyped].contains t
  | .hdl, t => t == .hdl || t == .untyped
  | .fp32, t => t == .fp32
  | .i32, t => t == .i32
  | .aint, t => [Ty.i32, .n32, .untyped].contains t
  | .abits, t => [Ty.i32, .n32, .fp32, .fp19, .hdl, .ctl, .fib, .untyped].contains t
  | .codebook, t => [Ty.bf16, .fp8e4, .fp32].contains t
  | .n32, t => t == .n32

/-- What an instruction takes and gives: its operands A and B (`optA`, `optB`: the source may also be Z), what it reads of rd (`rd2`: also
of the other register of rd's pair), its result. -/
structure Sig where
  a : Acc := .no
  b : Acc := .no
  optA : Bool := false
  optB : Bool := false
  rd : Acc := .no
  rd2 : Bool := false
  res : Acc := .no
  deriving DecidableEq, Repr

/-- Integer and bit instructions (R90, R92, R93). -/
def sigInt (op : BitVec 24) : Sig :=
  let o := (fld op 16 8).toNat
  if o = 0 then {}
  else if o = 0x03 ∨ o = 0x0F ∨ o = 0x10 then { a := .arith, res := .result }
  else if 0x11 ≤ o ∧ o ≤ 0x14 then { a := .scalar, b := .scalar, res := .scalar }
  else if o = 0x15 ∨ o = 0x1A ∨ o = 0x1B then { a := .scalar, res := .scalar }
  else if (0x16 ≤ o ∧ o ≤ 0x19) ∨ o = 0x26 ∨ o = 0x27 then { a := .scalar, b := .int, res := .scalar }
  else if 0x1C ≤ o ∧ o ≤ 0x1E then { a := .scalar, b := .scalar, res := .scalar }
  else if o = 0x23 then { res := .scalar }
  else if o = 0x24 then { a := .scalar, optA := true, res := .scalar }
  else if o = 0x25 then
    if !op.getLsbD 9 then { a := .scalar, res := .scalar }
    else if !op.getLsbD 8 then { res := .query }
    else { a := .scalar, res := .query }
  else if o = 0x28 then { a := .scalar, b := .int, rd := .scalar, res := .scalar }
  else { a := .arith, b := .arith, res := .result }

/-- Floating, quantising and table instructions (R95-R106). -/
def sigFloat (op : BitVec 24) : Sig :=
  let o := (fld op 16 8).toNat
  if (0x33 ≤ o ∧ o ≤ 0x35) then { a := .f3, b := .f3, rd := .f3, res := .f3 }
  else if o = 0x44 then { a := .f3, b := .f3, rd := .f3, rd2 := true, res := .f3 }
  else if o = 0x38 ∨ o = 0x39 ∨ o = 0x40 ∨ o = 0x46 ∨ o = 0x52 ∨ o = 0x53 then { a := .f3, res := .f3 }
  else if 0x3A ≤ o ∧ o ≤ 0x3D then { a := .f3, b := .f3, res := .bool }
  else if o = 0x3E then { a := .num, res := .num }
  else if o = 0x3F then { a := .float, res := .i32 }
  else if o = 0x41 then { a := .float, res := .int }
  else if o = 0x42 then { a := .int, res := .float }
  else if o = 0x43 ∨ o = 0x50 ∨ o = 0x55 then { a := .f3, b := .int, res := .f3 }
  else if o = 0x45 then { a := .f3x, res := .i32 }
  else if o = 0x47 then
    match (fld op 8 2).toNat with
    | 0 => { a := .f3, b := .scale, res := .quant }
    | 1 => { a := .f3, res := .mxs }
    | _ => { a := .f3, res := .gi }
  else if o = 0x48 then { a := .narrow, b := .scale, res := .f3 }
  else if o = 0x51 then { a := .f3, res := .intU }
  else { a := .f3, b := .f3, res := .f3 }

/-- Control instructions (R149). -/
def sigControl (op : BitVec 24) : Sig :=
  let o := (fld op 16 8).toNat
  if o = 0x58 ∨ o = 0x5B ∨ o = 0x6C then { a := .scalar, res := .scalar }
  else if o = 0x59 ∨ o = 0x5A then { a := .scalar, b := .scalar, res := .scalar }
  else if o = 0x5C then { a := .scalar }
  else if o = 0x5D then { a := .scalar, optA := true, res := .bool }
  else if o = 0x5E ∨ o = 0x63 then { a := .scalar, res := .bool }
  else if o = 0x5F ∨ o = 0x60 ∨ o = 0x61 ∨ o = 0x65 then { res := .bool }
  else if o = 0x64 then { a := .arith }
  else if o = 0x66 ∨ o = 0x68 ∨ o = 0x69 ∨ o = 0x6A ∨ o = 0x6B then { res := .query }
  else {}

/-- Tile, global and atomic instructions of form OM (R177, R178, R191, R229). -/
def sigMem (op : BitVec 24) : Sig :=
  let o := (fld op 16 8).toNat
  if o = 0x74 ∨ o = 0x76 ∨ o = 0x78 ∨ o = 0x81 ∨ o = 0x83 then { a := .scalar, b := .intU, rd := .hdl }
  else if 0x8B ≤ o ∧ o ≤ 0x8D then { a := .hdl, b := .intU, rd := .aint, res := .scalar }
  else if 0x8E ≤ o ∧ o ≤ 0x90 then { a := .hdl, b := .intU, rd := .abits, res := .scalar }
  else if o = 0x91 then { a := .hdl, b := .intU, rd := .abits, rd2 := true, res := .scalar }
  else if o = 0x92 then { a := .hdl, b := .intU, rd := .fp32, res := .scalar }
  else { a := .hdl, b := .intU, res := .scalar }

/-- Macros (R173-R179, R194, R204, R211, R212, R235-R240, R253-R264, R269-R294, R311, R356, R361, R368, R370); `coll` is the operation of
a COLL's block. -/
def sigMacro (op : BitVec 24) (coll : Nat) : Sig :=
  let o := (fld op 16 8).toNat
  let var := (fld op 4 2).toNat
  let sub := (fld op 0 4).toNat
  if o = 0x70 then { res := .hdl }
  else if o = 0x71 ∨ o = 0x7C then { a := .hdl, res := .scalar }
  else if o = 0x72 then (if sub < 8 then { a := .hdl, res := .scalar } else { res := .scalar })
  else if o = 0x7A then { a := .hdl, b := .hdl }
  else if o = 0x7B then { a := .scalar, b := .hdl }
  else if o = 0x84 ∨ o = 0x85 ∨ o = 0x97 ∨ o = 0xB1 ∨ o = 0xB2 ∨ o = 0xBF then { a := .hdl }
  else if o = 0x86 ∨ o = 0x87 ∨ o = 0xB6 ∨ o = 0xB7 ∨ o = 0xB9 ∨ o = 0xBE then { a := .hdl, b := .hdl }
  else if (0x93 ≤ o ∧ o ≤ 0x95) ∨ o = 0xD4 then {}
  else if o = 0x96 then { a := .hdl, b := .hdl, optB := true }
  else if o = 0x98 then { a := if coll < 3 then .fp32 else .i32 }
  else if 0xA0 ≤ o ∧ o ≤ 0xA3 then { a := .hdl, b := .hdl, optA := true, optB := true }
  else if o = 0xA4 then (if sub = 0 then { a := .hdl, optA := true } else {})
  else if o = 0xA5 then (if var = 0 then { a := .hdl, optA := true } else {})
  else if o = 0xA9 then { a := .query, res := .scalar }
  else if o = 0xB0 then (if sub = 0 then {} else { b := .hdl })
  else if o = 0xB3 then { a := .intU, res := .codebook }
  else if o = 0xB4 ∨ o = 0xB5 ∨ o = 0xB8 then { a := .hdl, b := .hdl, res := .scalar }
  else if o = 0xBB then { a := .intU, b := .intU, rd := .intU, res := .scalar }
  else if o = 0xBC ∨ o = 0xBD then { a := .hdl, res := .scalar }
  else if o = 0xC6 then { a := .hdl, b := .n32, res := .scalar }
  else if o = 0xCE then (if var = 0 then { a := .scalar, res := .scalar } else { a := .hdl, res := .scalar })
  else if o = 0xD1 then { res := .bool }
  else if o = 0xD8 ∨ o = 0xDC then { a := .scalar, res := .scalar }
  else { res := .scalar }

/-- What the instruction of an op word takes and gives. -/
def sigOf (op : BitVec 24) (coll : Nat) : Sig :=
  let o := (fld op 16 8).toNat
  if o < 0x30 then sigInt op
  else if o < 0x58 then sigFloat op
  else if o < 0x70 then sigControl op
  else if (0x73 ≤ o ∧ o ≤ 0x79) ∨ (0x80 ≤ o ∧ o ≤ 0x83) ∨ (0x8B ≤ o ∧ o ≤ 0x92) then sigMem op
  else sigMacro op coll

end Sys2Proof.Machine
end

