-- ==== Sys2Proof/Config.lean ====
section
/-! DEFINITION. What the manual leaves to the part or leaves open: free constants without a value here, so that no proof can
rest on one (spec 01_machine R14, 05_taskcore R132, R133, 15_package R375; log 4). -/

namespace Sys2Proof

/-- The Bridle version that IDENT reports (R132). -/
opaque Config.bridleVersion : BitVec 32
/-- SHA-512 of the signed part record (R132). -/
opaque Config.partRecordHash : BitVec 512
/-- SHA-512 of the Bridle ROM (R132). -/
opaque Config.bridleHash : BitVec 512
/-- The product public key held in ROM (R135). -/
opaque Config.productKey : BitVec 256
/-- The public identity key that the PUF gives (R132, R133). -/
opaque Config.identityKey : BitVec 256
/-- The identity key's signature of a 64-byte message hash (R132). -/
opaque Config.identitySign : BitVec 512 → BitVec 512
/-- Ingress latency of each sensor port (R375). -/
opaque Config.ingressLatency : Nat → BitVec 32
/-- A value that the manual does not fix, one for each draw. -/
opaque Config.freeValue : Nat → BitVec 64

end Sys2Proof
end

