-- ==== Sys2Proof/Machine/State.lean ====
section
/-! DEFINITION. The state of the part as plain data, and the state after reset. INVENTORY.md names the rule and the reset
value of every field; log 2 to log 7 name what the model adds or chooses. -/

namespace Sys2Proof.Machine

/-- A sparse table from numbers: pairs in rising order of key. -/
abbrev FMap (α : Type) := List (Nat × α)

/-! ### Values, tokens and lanes (spec 04_arithmetic R82, 06_routing R136-R142) -/

/-- A register's value and poison bit (R82). -/
structure Val where
  v : W32 := 0
  p : Bool := false
  deriving DecidableEq, Repr

/-- A value with its poison bit and type, as a row reads it (R84). -/
structure TV where
  v : W32 := 0
  p : Bool := false
  ty : Ty := .untyped
  deriving DecidableEq, Repr

/-- Token kinds that stand in a lane (R136); teardown travels on a sideband (R332). -/
inductive TKind where
  | data | eos | marker
  deriving DecidableEq, Repr

/-- A token: kind, payload, poison and type tags (R136). -/
structure Token where
  kind : TKind := .data
  v : W32 := 0
  p : Bool := false
  ty : Ty := .untyped
  deriving DecidableEq, Repr

/-- A token in the pipeline of a link: the tick of its push and the first tick on which it may be at the head (R137). -/
structure Flying where
  pushed : Nat
  due : Nat
  tok : Token
  deriving DecidableEq, Repr

/-- A lane at its receiving end (R137, R142, R358): tokens in the pipeline and tokens held, oldest first; the last tick on which
tokens were taken and how many were; the tick on which the present head reached the head; the discard bit; the log of a cut
that awaits its marker. -/
structure Lane where
  pipe : List Flying := []
  buf : List Token := []
  popAt : Nat := 0
  pops : Nat := 0
  headAt : Nat := 0
  discard : Bool := false
  log : Option (List Token) := none
  deriving DecidableEq, Repr

/-- A counter: count, limit, wrap (R159). -/
structure Counter where
  count : W32 := 0
  limit : W32 := 0
  wrap : Bool := false
  deriving DecidableEq, Repr

/-- A token FIFO (R19, R169): snapshots with the tick of their push, oldest first, and the pushes reserved. -/
structure Fifo where
  q : List (Nat × BitVec 16) := []
  rsv : Nat := 0
  deriving DecidableEq, Repr

/-! ### Images (spec 02_encoding R49-R51) -/

/-- One element's share of a block image, as loaded (R49-R51): the image-store number, the descriptor, the three rings, the arm
store (16 arms, empty where none), the wave table, the parameter blocks, LUT sections (bank, first index, pairs), codebooks
(number, format, bytes), FB's type before each pairing that reads it (R84), the wave entries that a shipped matrix command can name (16 × block + entry,
R224, R264) and the header fields that rows read. -/
structure Share where
  img : Nat := 0
  elem : Nat := 0
  stage : Nat := 0
  op : List (BitVec 24) := [0]
  route : List (BitVec 16) := [0xFF00]
  reg : List (BitVec 16) := [0]
  inmap : BitVec 16 := 0
  outmap : BitVec 16 := 0
  outTy : List Ty := []
  inTy : List Ty := []
  regTy : List Ty := []
  arms : List (BitVec 64) := []
  wave : List W32 := []
  params : FMap (BitVec 256) := []
  luts : List (Nat × Nat × List W64) := []
  cbs : List (Nat × Ty × List Byte) := []
  fbTy : List (Option Ty) := []
  ship : List Nat := []
  ii : Nat := 1
  stages : Nat := 1
  copies : Nat := 1
  step : W32 := 0
  flags : BitVec 16 := 0
  hash : BitVec 512 := 0
  bytes : Nat := 0
  deriving DecidableEq, Repr

/-- A block image in the image store (R49, R190, R325): header fields, one share for each element of the shape, copy start-tick
offsets, its length in bytes. -/
structure Image where
  cols : Nat := 1
  rows : Nat := 1
  ii : Nat := 1
  stages : Nat := 1
  copies : Nat := 1
  step : W32 := 0
  home : Nat := 255
  flags : BitVec 16 := 0
  hash : BitVec 512 := 0
  shares : List Share := []
  offs : List Nat := []
  len : Nat := 0
  deriving DecidableEq, Repr

/-! ### Context slots and elements (spec 04_arithmetic R82, 06_routing R159, R162, 07_tiles R164-R170, 13_sequencing R337) -/

/-- The states of a physical slot (R337). -/
inductive SlotState where
  | empty | loading | resident | running
  deriving DecidableEq, Repr

/-- A value stream of a tape (R299, R305): records stored, or while a replay runs those to pop; the last value; the chunk that holds it
(65535 for none) and the bits used in it, or the read position. -/
structure VStream where
  n : Nat := 0
  last : W32 := 0
  ch : Nat := 65535
  pos : Nat := 0
  deriving DecidableEq, Repr

/-- A branch stream of a tape (R299, R305): decisions stored or to pop, the chunk of the last one, the bytes up to it and the last run
byte with what is left of it. -/
structure BStream where
  n : Nat := 0
  ch : Nat := 65535
  pos : Nat := 0
  run : Nat := 0
  deriving DecidableEq, Repr

/-- The tape position of a slot (R298, R305, R306, R310): values, regenerated values, decisions, and the decision at which a
regeneration stands. -/
structure TPos where
  v : VStream := {}
  r : VStream := {}
  b : BStream := {}
  at_ : Nat := 0
  deriving DecidableEq, Repr

/-- What a tape record holds (R295): a value or a decision, its poison, the tick from which the engine may accept it, and the frame of
its row. -/
structure Rec where
  branch : Bool
  v : W32
  p : Bool
  due : Nat
  frame : Nat
  deriving DecidableEq, Repr

/-- A key asked for by TAPEK (R300, R319): the tape, frame, register mask, latch and FB included; the entry once captured and the tick
of its write. -/
structure KeyReq where
  tape : Nat
  frame : Nat
  mask : W32
  incl : Bool
  due : Nat := 0
  saved : Option (List Byte) := none
  deriving DecidableEq, Repr

/-- The part of a context slot that a marker cut saves and a rollback restores (R82, R159, R162, R169, R310, R359); `esrIn` holds the flags
of transfers that retired on this tick, which ESR shows from the next (R89, R90). -/
structure Body where
  regs : Vector Val 32 := Vector.replicate 32 {}
  emr : W32 := 0x00010000
  esr : W32 := 0
  esrIn : W32 := 0
  fb : TV := {}
  lt : TV := {}
  latch : Bool := false
  latchP : Bool := false
  cnt : Vector Counter 4 := Vector.replicate 4 {}
  dly : List Val := []
  fifos : Vector Fifo 6 := Vector.replicate 6 {}
  tp : TPos := {}
  recq : List Rec := []
  keyq : List KeyReq := []
  deriving DecidableEq, Repr

/-- A tile-table entry (R164); `lvl` 1 E, 2 D, 3 G; `loc` and `len` are the first segment or unit and their count, or the
virtual base. -/
structure Tile where
  lvl : Nat := 1
  spl : Bool := false
  lay : Nat := 0
  fmt : Ty := .fp32
  ctx : Ctx := 0
  rows : Nat := 1
  cols : Nat := 1
  homeg : Bool := false
  tscale : W32 := 0
  loc : Nat := 0
  len : Nat := 0
  lastUse : Nat := 0
  deriving DecidableEq, Repr

/-- The states of a matrix command (R251). -/
inductive MState where
  | idle | feeding | draining | stopped | done | aborted
  deriving DecidableEq, Repr

/-- The fields of the matrix progress register (R251). -/
structure MProg where
  st : MState := .idle
  cause : Nat := 0
  opc : Nat := 0
  xcause : Nat := 0
  opnd : Bool := false
  sat : Bool := false
  flags : W32 := 0
  psn : Bool := false
  safe : Bool := false
  fidx : Nat := 0
  total : Nat := 0
  done : Nat := 0
  deriving DecidableEq, Repr

/-- The cell array of a matrix node: cells with poison by 64 i + j (absent ones are +0), accumulator type (true for i32), tensor
scales, error marks of cells (4 uncorrectable, 8 single-bit, as of a memory word), progress register (R243, R251). The owner is the context of the commands in queue M (R244). -/
structure Node where
  cells : FMap Val := []
  i32 : Bool := false
  ta : W32 := 0x3F800000
  tb : W32 := 0x3F800000
  marks : FMap Nat := []
  prg : MProg := {}
  deriving DecidableEq, Repr

/-- An instruction that holds its element (R139): what it is, the row that issued it and what it needs to complete.
`kind` names it; `due` is the tick on which it completes or is next tried. -/
inductive HoldKind where
  | scalar | op | cinch | tapev | tile | fence
  deriving DecidableEq, Repr

/-- A hold: the context, run, copy, frame and row counter, the op word, wires and arm poison of the row, its operands A, B and rd as read;
the handle; the place accessed in the
flat space once known, with the virtual address behind it; the tick on which it completes or is next tried; whether
it is parked at the atomics unit (R191); what it will deliver once performed; `aux` is the kind's own data. -/
structure Hold where
  kind : HoldKind := .scalar
  c : Ctx := 0
  run : Nat := 0
  copy : Nat := 0
  frame : Nat := 0
  g : Nat := 0
  op : BitVec 24 := 0
  wr : Wires := {}
  armP : Bool := false
  a : TV := {}
  b : TV := {}
  d : TV := {}
  h : Nat := 0
  loc : Nat := 0
  va : Nat := 0
  isG : Bool := false
  placed : Bool := false
  due : Nat := 0
  parked : Bool := false
  got : Option TV := none
  aux : List Nat := []
  deriving DecidableEq, Repr

/-- One half of a snapshot area (R359); `st` 0 empty, 1 open, 2 complete, 3 lost; `hold` is a TAPEV.v1 that was under way (R309). -/
structure Snap where
  cut : W32 := 0
  st : Nat := 0
  row : Nat := 0
  frame : Nat := 0
  body : Body := {}
  disc : List Bool := []
  tiles : FMap Tile := []
  logs : FMap (List Token) := []
  ctl : FMap (List Token) := []
  node : Option Node := none
  hold : Option Hold := none
  elog : List (Nat × W64 × Bool × Bool) := []
  deriving DecidableEq, Repr

/-- A context slot of an element (R25): its state and share, the run that holds it (run and copy number), lanes, handoff bit and
level (R148), the snapshots last taken from M and S (R169), unaccepted tape records, TAPEV progress, key asked for, the pattern
registers of P0, P1 and W (handle and block, R268), redundant-run signature (R367), the request tag of its last run (R340), snapshot halves, the tick on which a reload
of its share ends (R362), and `oldL`: one more than the tick of the last write of LFSR and the sequence that the write port still uses on that
tick (R90). -/
structure Slot extends Body where
  st : SlotState := .empty
  share : Option Share := none
  run : Option (Nat × Nat) := none
  lanes : Vector Lane 16 := Vector.replicate 16 {}
  lastM : BitVec 16 := 0
  lastS : BitVec 16 := 0
  h : Bool := false
  lvl : BitVec 2 := 0
  tapeIdx : Nat := 0
  pats : Vector (Nat × BitVec 256) 3 := Vector.replicate 3 (0, 0)
  sig : W32 := 0xFFFFFFFF
  sigN : W32 := 0
  sigP : Bool := false
  tag : BitVec 16 := 0
  snap : List Snap := []
  reload : Option Nat := none
  oldL : Nat × BitVec 16 := (0, 1)
  deriving DecidableEq, Repr

/-- The states of a job (R181, R199). -/
inductive JobState where
  | idle | running | stopped | done | aborted
  deriving DecidableEq, Repr

/-- A job of a slot of queue S (R170, R181, R199, R293): progress register fields, context, run, copy, frame and request tag, the
admission number, whether it still holds its slot, the op word, parameter block and operands, the number of its elements, the tick
of its next element, the tick on which it ended, the F changes that wait for a cinch's subtraction, each with its tick and element (R238), the FIFO it pushes, IX,
the handle it writes, the bits that an element takes of the 512 moved in a tick (R182), the tick of its admission, EMR as its row issued (R67), its port's pattern as copied at admission (R268), whether it has taken its port (R267), what an expand engine passes on (R291, R293: the states still to come, each with its tick, bytes
produced, input place in bits and final block, and the bytes still to write), and data of its own
kind. -/
structure Job where
  st : JobState := .idle
  cause : Nat := 0
  xcause : Nat := 0
  idxph : Bool := false
  oor : Bool := false
  safe : Bool := false
  opc : Nat := 0
  idx : Nat := 0
  live : Bool := false
  c : Ctx := 0
  run : Nat := 0
  copy : Nat := 0
  frame : Nat := 0
  tag : BitVec 16 := 0
  seq : Nat := 0
  op : BitVec 24 := 0
  pb : BitVec 256 := 0
  a : TV := {}
  b : TV := {}
  n : Nat := 0
  next : Nat := 0
  fin : Nat := 0
  fpend : List (Nat × Nat) := []
  push : Option (Fin 6) := none
  ix : W32 := 0
  abort : Bool := false
  va : Nat := 0
  dst : Option Nat := none
  rate : Nat := 512
  arr : Nat := 0
  lasts : FMap Nat := []
  nopush : Bool := false
  esr : W32 := 0
  emr : W32 := 0
  pat : Nat × BitVec 256 := (0, 0)
  begun : Bool := false
  trace : List (Nat × Nat × Nat × Nat) := []
  ahead : List Nat := []
  extra : List Nat := []
  deriving DecidableEq, Repr

/-- A command of queue M (R243, R250): op word, context, run, copy, frame, admission number, parameter block, operand handles, EMR as its row issued (R67), the
flags of its half-chain (R259), the FIFO it pushes, a failed check of admission, whether it has begun and on which tick (T), the tick of its next group, row, token or
retirement, the F changes that wait for a cinch's subtraction, the group, row or token at which it last started, the next token of a drain to MD, the
fault met (sub-cause and address). -/
structure MCmd where
  op : BitVec 24 := 0
  c : Ctx := 0
  run : Nat := 0
  copy : Nat := 0
  frame : Nat := 0
  seq : Nat := 0
  pb : BitVec 256 := 0
  ha : Nat := 0
  hb : Nat := 0
  emr : W32 := 0
  esr : W32 := 0
  push : Option (Fin 6) := none
  cause : Nat := 0
  begun : Bool := false
  start : Nat := 0
  due : Nat := 0
  fpend : List (Nat × Nat) := []
  from0 : Nat := 0
  idx : Nat := 0
  fault : Option (Nat × Nat) := none
  lasts : FMap Nat := []
  deriving DecidableEq, Repr

/-- A logical element (R18): slots with the region's slot map (logical to physical, R326), tile table, queues, node, hold, the tick from which rows may issue after an access (R177), tiles freed and handles given on a tick (R174, R175), the port
arbiter (for each slot, inbound then outbound: demand of the last window 0-7, weights 8-15, demand of this window 16-23; 24 and 25 one more
than the tick of the last beat granted; R210), marks. -/
structure Elem where
  slots : Vector Slot 4 := Vector.replicate 4 {}
  smap : Vector (Fin 4) 4 := #v[0, 1, 2, 3]
  tiles : FMap Tile := []
  sq : Vector Job 4 := Vector.replicate 4 {}
  sseq : Nat := 0
  mq : List MCmd := []
  node : Node := {}
  hold : Option Hold := none
  free : Nat := 0
  gone : List (Nat × Tile) := []
  born : List (Nat × Nat) := []
  port : Vector Nat 26 := Vector.replicate 26 0
  failed : Bool := false
  suspectAt : Option Nat := none
  deriving DecidableEq, Repr

/-! ### Runs (spec 01_machine R22-R26, 13_sequencing R328-R333, 14_containment R351, R357-R360, R367) -/

/-- The replay of a tape by a region (R304-R308): the tape (none after a header mismatch), the forward slot, whether it frees the tape,
the tick from which records are ready, divergence, the lowest frame regenerated or past the last one recorded, a segment that waits for
its slot or runs (its frames and, once it runs, its run), segments done, and for each shape element the values that are left to pop of a
segment generated anew after a rollback (R309). -/
structure Replay where
  key : Option Nat := none
  slot : Fin 4 := 0
  release : Bool := false
  ready : Nat := 0
  div : Bool := false
  next : Nat := 0
  seg : Option (Nat × Nat × Option Nat) := none
  regens : Nat := 0
  drop : FMap Nat := []
  deriving DecidableEq, Repr

/-- The recording of a region (R295, R312, R313): the tape, the row of TAPEB, the row of TAPEE, the frame of TAPEB, the last frame with a
recorded row, the overflow frame, whether the recording is over. -/
structure Recording where
  key : Nat
  since : Nat
  stop : Option Nat := none
  start : Nat := 0
  last : Option Nat := none
  ovf : Option Nat := none
  over_ : Bool := false
  deriving DecidableEq, Repr

/-- What a marker cut keeps of a region beside its elements' snapshots (R309, R358): the cut, recording and replay, the keys and header
flags of the recorded tape, the accesses of alias chains performed. -/
structure CutSave where
  cut : W32
  rec_ : Option Recording := none
  replay : Option Replay := none
  keys : Nat := 0
  flags : Nat := 0
  perf : FMap Nat := []
  deriving DecidableEq, Repr

/-- One region of a run (R24): origin and shape, row counter, held ticks, the tick of its first row, the tick up to which it is frozen (R360, R362), the row at which a
regeneration ends, the tape it records or replays, the held ticks at each row while it records (R306), the accesses of alias chains
performed, by frame, element and wave entry (R223), and its marker cuts (R357-R360): a MARK issued on this tick, the last complete cut and
the open one with their rows, the number of the next, the one rolled back to, the row that ends the replay window, the tick of the
restore of a rollback in progress, what the cuts keep, the row of the event that last asked for a rollback. -/
structure Copy where
  ox : Nat := 0
  oy : Nat := 0
  cols : Nat := 1
  rows : Nat := 1
  start : Nat := 0
  g : Nat := 0
  stall : Nat := 0
  pre : Nat := 0
  thr : Nat := 0
  first : Option Nat := none
  passed : Bool := false
  done : Bool := false
  frozen : Nat := 0
  issued : Bool := false
  stop : Option Nat := none
  rec_ : Option Recording := none
  replay : Option Replay := none
  held : List (Nat × Nat × Nat) := []
  perf : FMap Nat := []
  mark : Bool := false
  cutDone : Option (W32 × Nat) := none
  cutOpen : Option (W32 × Nat) := none
  cutNext : W32 := 1
  rolled : Option W32 := none
  replayTo : Option Nat := none
  rollAt : Option Nat := none
  saves : List CutSave := []
  evRow : Nat := 0
  deriving DecidableEq, Repr

/-- Why a run was torn down: it ran to its end, or a deadline, a purge, a tape overflow or TEARD ended it (R331, R332). -/
inductive Torn where
  | no | deadline | purge | tape | teard
  deriving DecidableEq, Repr

/-- An active run (R22-R26, R328-R333, R351): partition, mode, entry, image, request tag, physical slot, frames, start tick and deadline tick,
scalar class, fallback or not, safety class, verdict, flags and progress of its record, tokens discarded; `regen` names the run and copy
for which a regeneration runs (R306); what a teardown is asked for and whether it starts the fallback; why it was torn down; its
copies; rollbacks made; whether a row stored poison since (R355); the vote (R367: its parameter block, and the signatures, counts and poison by copy × 4096 + shape index; 0 not begun, 1 first comparison due, 2 the vote copy runs, 3 second comparison due, 4 over). -/
structure Run where
  regen : Option (Nat × Nat) := none
  startTick : Nat := 0
  want : Torn := .no
  wantFb : Bool := true
  fbStarted : Bool := false
  part : Nat := 0
  mode : Nat := 0
  entry : Nat := 0
  img : Nat := 0
  tag : BitVec 16 := 0
  ctx : Ctx := 0
  n : Nat := 1
  dl : Nat := 0
  cls : Nat := 0
  fallback : Bool := false
  safety : Bool := false
  verdict : Nat := 0
  flagsA : BitVec 8 := 0
  flagsB : BitVec 8 := 0
  progress : W64 := 0
  discard : Nat := 0
  corrSent : Bool := false
  torn : Torn := .no
  copies : List Copy := []
  rollbacks : Nat := 0
  stored : Bool := false
  vote : Nat := 0
  voteBlock : Option (BitVec 256) := none
  sigs : FMap (W32 × W32 × Bool) := []
  deriving DecidableEq, Repr

/-- What the model does next within a fabric clock (log 2): decide which rows issue, an element's row of its ring, a chosen arm
row of ARMX, Pommel's next instruction, the performance at the sequencer of a sequencing instruction that has issued (its word, operands and the cycle of its result), an I/O register write of STIO at its target, the host command at the head of the queue, a
command record written with its doorbell (R131), a sample of a block's sensors (R127), or a step. -/
inductive Work where
  | plan
  | row (e : ElemId) (c : Ctx)
  | arm (e : ElemId) (c : Ctx) (w : BitVec 64) (p : Bool)
  | pommel
  | seq (w : BitVec 32) (a b : W64) (kd : Nat)
  | io (a : BitVec 24) (v : W64)
  | command
  | doorbell (record : List Byte)
  | sample (block : Nat)
  | instr (i : Instr)
  deriving DecidableEq, Repr

/-- Work due on a tick: phase 0 before the rows of the tick, 1 the rows, 2 after them, 3 the retests of parked accesses, later ones what
follows those (log 2). -/
structure Ev where
  tick : Nat
  ph : Nat
  w : Work
  deriving DecidableEq, Repr

/-- A message of four words (R110). -/
structure Msg where
  w0 : W64 := 0
  w1 : W64 := 0
  w2 : W64 := 0
  w3 : W64 := 0
  deriving DecidableEq, Repr

/-! ### Pommel, channels, I/O registers (spec 05_taskcore) -/

/-- A channel's binding (R110, R111): polled, a Bridle handler, or a task's entry address. -/
inductive Binding where
  | polled | bridle
  | task (a : BitVec 32)
  deriving DecidableEq, Repr

/-- A message channel (R110): waiting messages, priority, binding, overflow count. -/
structure Chan where
  q : List Msg := []
  pri : Nat := 15
  bind : Binding := .polled
  lost : Nat := 0
  deriving DecidableEq, Repr

/-- An armed compare slot (R124): partition, channel, tick. -/
structure Timer where
  part : Nat
  ch : Nat
  tick : Nat
  deriving DecidableEq, Repr

/-- A job of the crypto engine (R125): whether it verifies a signature, and its descriptor's fields. -/
structure CJob where
  sigv : Bool := false
  src : W64 := 0
  len : Nat := 0
  dst : Nat := 0
  sig : Nat := 0
  ch : Nat := 0
  tag : BitVec 16 := 0
  deriving DecidableEq, Repr

/-- A job of Pommel at G (R213): a MIRR or an XFER with its descriptor, reply channel and tag, the tick of its admission, and the outcome of
one to the partner, which has been sent: status, words moved, faulting address. -/
structure PJob where
  mirr : Bool := false
  words : List W64 := []
  ch : Nat := 0
  tag : BitVec 16 := 0
  arr : Nat := 0
  res : Option (Nat × Nat × Nat) := none
  deriving DecidableEq, Repr

/-- The task core (R109-R125). `ready` is the cycle on which each register's last result is available (R94); `next` the next issue
cycle, or the cycle from which an idle Pommel may dispatch; `start` the cycle of the task's first fetch; `stio` the cycle on
which the last STIO is performed; `div` the cycle on which another division may issue; `sbuf` the stores not yet performed, each with its address, place and value; `perf` the operands and the cycle of kd of a sequencing instruction while it is performed. -/
structure Pommel where
  k : Vector W64 32 := Vector.replicate 32 0
  ready : Vector Nat 32 := Vector.replicate 32 0
  pc : W64 := 0
  running : Bool := false
  chan : Nat := 0
  nested : Bool := false
  first : Bool := false
  halted : Bool := false
  next : Nat := 0
  start : Nat := 0
  stio : Nat := 0
  div : Nat := 0
  sbuf : List (W64 × Nat × W64) := []
  corrected : Nat := 0
  timers : Vector (Option Timer) 16 := Vector.replicate 16 none
  crypto : List CJob := []
  jobs : FMap PJob := []
  rr : Vector Nat 16 := Vector.replicate 16 63
  perf : Option (W64 × W64 × Nat) := none
  deriving DecidableEq, Repr

/-- The registers of a block of the system I/O space (R126-R129): what its sensors show now, in the order TEMP, VOLT, PROC, set from outside
(log 3), sensor samples, requested level, floor, the effective level
applied and the one to apply, alert state and thresholds. -/
structure Block where
  seen : List W32 := []
  temp : List W32 := []
  volt : List W32 := []
  proc : List W32 := []
  lvl : Nat := 0
  floor : Nat := 0
  eff : Nat := 0
  alrt : Bool := false
  trip : Bool := false
  alertcfg : W32 := 0x690
  tripcfg : BitVec 16 := 0x7D0
  deriving DecidableEq, Repr

/-- A sensor port's registers and its next frame sequence number (R375, R377). -/
structure Ingress where
  base : BitVec 48 := 0
  nslot : Nat := 0
  ssize : Nat := 0
  en : Bool := false
  drop : Nat := 0
  next : Nat := 0
  seq : Nat := 0
  deriving DecidableEq, Repr

/-- What the part shows and takes at the host port and its pins (R119, R131, R133-R135, R369, R373, R374): part state, self-test
outcomes, event log, accepted features, installed key record, the task image's hash, whether an image or a table was loaded,
commands waiting with their codes (each with whether it is a START that the I/O die has performed), that bit of the command at hand, the
response window, MSI-X signals given, the double-fault and safety records, FAULT_N. -/
structure HostIf where
  partState : Nat := 0
  selfTest : List SelfTest := []
  log : List Msg := []
  features : Option (BitVec 128) := none
  keys : Option (List Byte) := none
  taskHash : BitVec 512 := 0
  imgLoaded : Bool := false
  tblLoaded : Bool := false
  cmds : List (BitVec 16 × Cmd × Bool) := []
  ioStart : Bool := false
  resp : List Byte := List.replicate 32 0
  msix : List Nat := []
  dfrec : W64 := 0
  safeev : W64 := 0
  fault : Bool := false
  linkUp : Bool := true
  deriving DecidableEq, Repr

/-- The Beryl unit (R214, R379-R381): the MIRCFG arguments, link state, heartbeat number and timer, the
declaration, flits handed over on this tick with their rank, flits sent. -/
structure Beryl where
  mva : W64 := 0
  ssize : Nat := 0
  nslot : Nat := 0
  hbSend : Bool := false
  hbWatch : Bool := false
  solo : Nat := 0
  xva : W64 := 0
  xlen : Nat := 0
  parts : Nat := 0
  up : Bool := true
  hbSeq : W32 := 0
  hbNext : Nat := 0
  hbDue : Nat := 0
  declared : Bool := false
  cue : List (Nat × Flit) := []
  out : List Flit := []
  deriving DecidableEq, Repr

/-- A leaf entry held by a translation unit (R189): its root (a partition, or none for the system root), first address, page size as
a power of two, the leaf, and whether it is locked. -/
structure TlbEnt where
  root : Option Nat
  va : Nat
  size : Nat
  leaf : W64
  locked : Bool
  deriving DecidableEq, Repr

/-- A page operation of PAGEM (R215-R217): a migration with its old and new frames, leaf entry and sweep, and whether the entry has been
switched, or an invalidation. -/
structure Mig where
  inval : Bool := false
  root : Option Nat := none
  va : Nat := 0
  size : Nat := 0
  old : Nat := 0
  new : Nat := 0
  pte : Nat := 0
  next : Nat := 0
  ch : Nat := 0
  tag : BitVec 16 := 0
  dropped : Nat := 0
  switched : Bool := false
  deriving DecidableEq, Repr

/-- A schedule entry (R323). -/
structure Entry where
  block : Nat := 0
  fblock : Nat := 255
  place : Nat := 0
  fplace : Nat := 255
  slot : Fin 4 := 0
  trig : Bool := false
  safety : Bool := false
  onTainted : Bool := false
  indirect : Bool := false
  tagSrc : Nat := 0
  cls : Nat := 0
  fslot : Fin 4 := 0
  tag : BitVec 16 := 0
  start : Nat := 0
  dline : Nat := 0
  frames : Nat := 1
  fframes : Nat := 0
  cnt : Nat := 0
  preds : List Nat := []
  deriving DecidableEq, Repr

/-- A window of the major frame (R322): its bounds and the rank of each logical slot. -/
structure Window where
  lo : Nat := 0
  hi : Nat := 0
  ranks : List Nat := []
  deriving DecidableEq, Repr

/-- A schedule table (R29, R322): the safe mode, ring size, settings of its partition, entries, placements (origins), windows, mode-change
points, count locations, arbiter slot tables, its hash, and whether it has been active since it was loaded (R326). -/
structure Table where
  safety : Bool := false
  safe : Nat := 255
  recn : Nat := 6
  major : Nat := 4096
  root : Nat := 0
  spillva : Nat := 0
  spilllen : Nat := 0
  evpa : Nat := 0
  evlen : Nat := 0
  evva : Nat := 0
  recva : Nat := 0
  entries : List Entry := []
  places : List (List (Nat × Nat)) := []
  wins : List Window := []
  mcps : List Nat := []
  cnts : List Nat := []
  slots : List Byte := []
  hash : BitVec 512 := 0
  begun : Bool := false
  deriving DecidableEq, Repr

/-- What the sequencer keeps of an entry since its table's activation (R329, R344, R346, R349): the fresh bits (set, and by a tainted record
or not), what the host may launch (count argument, launch tag, indirect), its fallback where FBSEL changed it (block, placement, slot), the
number of its next periodic instance, the verdict and tag of its last record, whether its last run overran, its overruns. -/
structure EntSt where
  fresh : FMap Bool := []
  armed : Option (W64 × BitVec 16 × Bool) := none
  fb : Option (Nat × Nat × Fin 4) := none
  next : Nat := 0
  last : Nat := 0
  lastTag : BitVec 16 := 0
  lastOver : Bool := false
  overs : Nat := 0
  deriving DecidableEq, Repr

/-- The count of an instance (R330): known, to be taken at an address, or parked there. -/
inductive CountSt where
  | known (clamped : Bool)
  | take (va : Nat)
  | parked (va : Nat)
  deriving DecidableEq, Repr

/-- An instance of an entry that waits to start (R328-R331): partition, mode, entry, start and deadline ticks, launch tag, frames, count,
whether it is a fallback with block, placement and slot of its own. -/
structure Inst where
  part : Nat := 0
  mode : Nat := 0
  entry : Nat := 0
  start : Nat := 0
  dl : Nat := 0
  tag : BitVec 16 := 0
  n : Nat := 1
  cnt : CountSt := .known false
  fb : Option (Nat × Nat × Fin 4) := none
  deriving DecidableEq, Repr

/-- An operation of the sequencer in progress (R327, R339-R341, R345, R363): a load of an entry's block into a slot of its elements, with its tick, what is
still to load and the reply channel (none for a load of an activation); a partition-mode change; a die going offline; a move to a hot spare, with its channel (none where the sequencer asked for
it) and whether state is copied. -/
inductive SeqOp where
  | load (part mode entry : Nat) (logical : Fin 4) (started : Nat) (phys : List (ElemId × Ctx)) (ch : Option Nat)
  | partm (mode : Nat) (ch : Option Nat) (tag : Option (BitVec 16))
  | doff (die : Nat) (forced : Bool) (ch : Option Nat) (tag : Option (BitVec 16)) (status stranded : Nat)
  | spare (e : ElemId) (ch : Option Nat) (copied : Bool)
  deriving DecidableEq, Repr

/-- A partition's time, page-table root, physical range and spill area (R28, R186, R320, R321, R339), its active mode with the tick that
bases its periodic starts, the activation that waits for its loads or for its tick (mode, tick once known), the switch and phase step asked
for, records since activation, elements whose SPARE is scheduled with whether state is copied, bytes of the evacuation window in use. -/
structure Part where
  ctr : Nat := 0
  frac : Nat := 0
  rate : Int := 0
  sync : Bool := false
  disciplined : Bool := false
  alim : Nat := 858993
  active : Option Nat := none
  base : Nat := 0
  rising : Option (Nat × Option Nat) := none
  pend : Option Nat := none
  step : Int := 0
  records : Nat := 0
  toSpare : List (ElemId × Bool) := []
  root : Option Nat := none
  lo : Nat := 0
  hi : Nat := 0
  safety : Bool := false
  spill : Nat := 0
  spillLen : Nat := 0
  evUsed : Nat := 0
  deriving DecidableEq, Repr

/-- A cinch (R234): pending bytes, arrivals expected and made, phase, error, the bound tiles, the waiting elements. -/
structure Cinch where
  pend : Nat := 0
  count : Nat := 0
  arr : Nat := 0
  phase : W32 := 0
  err : Bool := false
  binds : List (ElemId × Nat) := []
  waits : List ElemId := []
  deriving DecidableEq, Repr

/-- A contribution of COLL on its way to or at the root unit (R240): run, group, participant, element and slot, value, the tick of its arrival and whether it
has arrived, the tick on which its result is written, and the parameter block. -/
structure Contrib where
  run : Nat
  group : Nat
  p : Nat
  e : ElemId
  slot : Fin 4
  v : TV
  due : Nat := 0
  here : Bool := false
  pb : BitVec 256
  deriving DecidableEq, Repr

/-- A tape (R297): where its storage lies (level 2 D units, 3 spilled to the virtual base), its length in units, last use, whether it is
open or replayed, the chunks taken; the frame count, request tag, row of TAPEE and held ticks of the recording run, and for each shape element the state of its
streams before its first record of each frame. Its bytes are those of R298. -/
structure Tape where
  lvl : Nat := 2
  loc : Nat := 0
  len : Nat := 0
  lastUse : Nat := 0
  openRec : Bool := false
  replayed : Bool := false
  taken : List Nat := []
  n : Nat := 0
  tag : BitVec 16 := 0
  stop : Option Nat := none
  held : List (Nat × Nat × Nat) := []
  marks : FMap (List (Nat × VStream × Nat)) := []
  deriving DecidableEq, Repr

/-- The keeper of one local row of a die (R364, R366): the exponent k of its moves, 0 when stopped, the window exponent w of its
die, and the local column it shadows. -/
structure Keeper where
  k : Nat := 0
  w : Nat := 34
  col : Nat := 0
  deriving DecidableEq, Repr

/-- A keeper's comparison that is not complete (R364): element, context and run of the row; the row's result bits, poison and
flags, and the keeper's own. -/
structure KeepCap where
  e : ElemId := 0
  c : Ctx := 0
  run : Nat := 0
  row : Val × W32 := ({}, 0)
  own : Val × W32 := ({}, 0)
  deriving DecidableEq, Repr

/-- The part but for the order of its steps: fabric, memory, Pommel, sequencer, host port. `tables` are keyed 8 × partition + mode, `ents`
512 × that + entry; `dies` holds 1 for a drain-only die and 2 for an offline one, `spares` the element that a die's hot spare stands in for. `sysFrames` counts the bytes of the reserve taken for system tables
behind the root. `seq` numbers entries of tables that wait for a later step, `free` counts the free values drawn (log 4). -/
structure Fab where
  clock : Nat := 0
  cur : ElemId × Ctx := (0, 0)
  armP : Bool := false
  elems : FMap Elem := []
  runs : FMap Run := []
  images : FMap Image := []
  mem : List Host.Cell := []
  tags : FMap Nat := []
  evq : List Ev := []
  chans : Vector Chan 64 := Vector.replicate 64 {}
  pom : Pommel := {}
  blocks : Vector Block 10 := Vector.replicate 10 {}
  ingress : Vector Ingress 20 := Vector.replicate 20 {}
  host : HostIf := {}
  beryl : Beryl := {}
  parts : FMap Part := []
  pmode : Nat := 1
  sysRoot : Option Nat := none
  sysFrames : Nat := 0
  tlb : FMap (List TlbEnt) := []
  migs : FMap Mig := []
  corr : FMap Nat := []
  cinches : FMap Cinch := []
  colls : FMap Contrib := []
  tapes : FMap Tape := []
  dieRes : FMap Nat := []
  tables : FMap Table := []
  ents : FMap EntSt := []
  insts : FMap Inst := []
  ops : FMap SeqOp := []
  dies : FMap Nat := []
  spares : FMap Nat := []
  keepers : FMap Keeper := []
  keepq : FMap KeepCap := []
  seq : Nat := 0
  free : Nat := 0
  big : Bool := false
  deriving DecidableEq, Repr

/-- The part. -/
structure State where
  fab : Fab := {}
  agenda : List Work := []
  deriving DecidableEq, Repr

/-- Reasons for a fault. -/
inductive Fault where
  /-- A row, an arm or a word at the sequencer came up that is no instruction. Raised by the fetch. Safe: LOADIMG rejects every image that holds such words
  (R48, R52) and Pommel issues only words that decode, so only states that no run reaches raise it. -/
  | rowWords
  deriving DecidableEq, Repr

/-- Reasons for a refusal. -/
inductive Refusal where
  /-- An instruction without a meaning. Raised by the arms of the dispatch. Safe: the machine stops where the part goes on. -/
  | notModelled (mnemonic : String)
  deriving DecidableEq, Repr

/-- A channel as reset leaves it (R110, R111). -/
def resetChan (c : Nat) : Chan := { pri := min c 15, bind := if c < 8 then .bridle else .polled }

/-- The part right after reset, of the ordering code DZ600-096 (log 5): partition mode 1, whose partition 0 has all memory below the
reserve, channels as R111 reserves them, bring-up under way (R1, R17, R111, R133, R190, R339; log 6, log 8). -/
def State.reset : State :=
  { fab := { parts := [(0, { hi := 95 * 2 ^ 30 })], chans := ⟨((List.range 64).map resetChan).toArray, by simp⟩ }
    agenda := [.instr (.powerUp true [])] }

end Sys2Proof.Machine
end

