-- ==== Sys2Proof/Machine/Ops.lean ====
section
/-! DEFINITION. The named operations over tables, memory, elements, slots, lanes and runs (spec 01_machine R15, R16,
06_routing R136-R146, 07_tiles R167, 14_containment R351, R354). -/

namespace Sys2Proof.Machine

/-! ### Sparse tables -/

/-- The entry of a key. -/
def mget {α : Type} (k : Nat) : FMap α → Option α
  | [] => none
  | (j, v) :: m => if j = k then some v else mget k m

/-- The table with an entry set, keys kept rising. -/
def mput {α : Type} (k : Nat) (v : α) : FMap α → FMap α
  | [] => [(k, v)]
  | (j, w) :: m => if k < j then (k, v) :: (j, w) :: m else if k = j then (k, v) :: m else (j, w) :: mput k v m

/-- The table without an entry. -/
def mdel {α : Type} (k : Nat) : FMap α → FMap α
  | [] => []
  | (j, w) :: m => if j = k then mdel k m else (j, w) :: mdel k m

/-- The table with an entry changed, if it is there. -/
def mmod {α : Type} (k : Nat) (g : α → α) (m : FMap α) : FMap α :=
  match mget k m with
  | some v => mput k (g v) m
  | none => m

/-- Replace the entry at an index of a list; past its end nothing changes. -/
def lset {α : Type} : List α → Nat → α → List α
  | [], _, _ => []
  | _ :: xs, 0, v => v :: xs
  | x :: xs, k + 1, v => x :: lset xs k v

/-! ### Memory: one flat space of bytes for all levels, and tag bits for each memory word (R4, R27, R109, R166, R167) -/

/-- What an unlisted address reads as (log 7). -/
def memDefault : Byte := 0

/-- A byte of memory. -/
def memGet : List Host.Cell → Nat → Byte
  | [], _ => memDefault
  | (k, b) :: m, a => if k = a then b else memGet m a

/-- Memory with an address unlisted. -/
def memErase : List Host.Cell → Nat → List Host.Cell
  | [], _ => []
  | (k, c) :: m, a => if k = a then memErase m a else (k, c) :: memErase m a

/-- Memory with a byte listed, addresses kept rising. -/
def memPut : List Host.Cell → Nat → Byte → List Host.Cell
  | [], a, b => [(a, b)]
  | (k, c) :: m, a, b =>
    if a < k then (a, b) :: (k, c) :: m else if a = k then (a, b) :: m else (k, c) :: memPut m a b

/-- Memory with a byte set, in canonical form: addresses rising, no entry that equals what an unlisted address reads as. -/
def memSet (m : List Host.Cell) (a : Nat) (b : Byte) : List Host.Cell :=
  if b = memDefault then memErase m a else memPut m a b

/-- Every address of the list is above a bound, addresses rise, and no byte is the default. -/
def memWfFrom : Nat → List Host.Cell → Bool
  | _, [] => true
  | lo, (k, b) :: m => decide (lo ≤ k) && b != memDefault && memWfFrom (k + 1) m

/-- The canonical form of memory. -/
def Memory.wf (m : List Host.Cell) : Bool := memWfFrom 0 m

/-- The bytes from an address on. -/
def memBytes (m : List Host.Cell) (a : Nat) : Nat → List Byte
  | 0 => []
  | n + 1 => memGet m a :: memBytes m (a + 1) n

/-- Memory with bytes written from an address on. -/
def memWrite (m : List Host.Cell) (a : Nat) : List Byte → List Host.Cell
  | [] => m
  | b :: bs => memWrite (memSet m a b) (a + 1) bs

/-- Base of a die buffer in the flat space (R166). -/
def dieBase (d : Nat) : Nat := 2 ^ 40 + d * 2 ^ 26
/-- Base of an element's local memory in the flat space (R166). -/
def elemBase (e : ElemId) : Nat := 2 ^ 41 + e * 2 ^ 18
/-- Base of task SRAM in the flat space (R109). -/
def sramBase : Nat := 2 ^ 42
/-- Base of an element's codebook SRAM in the flat space (R280). -/
def cbkBase (e : ElemId) : Nat := 2 ^ 43 + e * 2 ^ 13

/-- The bytes at a place. -/
def Fab.bytes (f : Fab) (a n : Nat) : List Byte := memBytes f.mem a n
/-- The little-endian number at a place. -/
def Fab.load (f : Fab) (a n : Nat) : Nat := ofLE (memBytes f.mem a n)
/-- Bytes written at a place. -/
def Fab.store (f : Fab) (a : Nat) (bs : List Byte) : Fab := { f with mem := memWrite f.mem a bs }

/-- The tag bits of the memory word that holds a byte: 1 empty, 2 poison, 4 uncorrectable, 8 single-bit error (R167). -/
def Fab.tag (f : Fab) (a : Nat) : Nat := (mget (a / 8) f.tags).getD 0
/-- The word's tag bits set. -/
def Fab.setTag (f : Fab) (a t : Nat) : Fab :=
  { f with tags := if t = 0 then mdel (a / 8) f.tags else mput (a / 8) t f.tags }
/-- Is the word full (R4)? -/
def Fab.full (f : Fab) (a : Nat) : Bool := f.tag a % 2 == 0
/-- Does the word read as poison: its poison bit is set, or it holds an uncorrectable error (R167)? -/
def Fab.poisoned (f : Fab) (a : Nat) : Bool := f.tag a / 2 % 4 != 0
/-- F of the word set or cleared. -/
def Fab.setFull (f : Fab) (a : Nat) (full : Bool) : Fab :=
  f.setTag a (f.tag a / 2 * 2 + (if full then 0 else 1))
/-- The poison bit of the word set or cleared; the error marks stay. -/
def Fab.setPoison (f : Fab) (a : Nat) (p : Bool) : Fab :=
  f.setTag a (f.tag a / 4 * 4 + (if p then 2 else 0) + f.tag a % 2)

/-- A word after a write: its new code bears no error (R167). -/
def Fab.rewritten (f : Fab) (a : Nat) : Fab := if f.tag a / 4 = 0 then f else f.setTag a (f.tag a % 4)

/-! ### Geometry (R15, R16) -/

/-- Column of an element. -/
def xOf (e : ElemId) : Nat := e % 60
/-- Row of an element. -/
def yOf (e : ElemId) : Nat := e / 60
/-- Field number of a coordinate. -/
def fieldNo (x y : Nat) : ElemId := 60 * y + x
/-- Socket of an element's fabric die. -/
def dieOf (e : ElemId) : Nat := xOf e / 20 + 3 * (yOf e / 16)

/-- The partition of a fabric die in a partition mode (R17). -/
def partOf (mode d : Nat) : Nat :=
  match mode with
  | 1 => 0
  | 2 => d / 3
  | 3 => d % 3
  | _ => d

/-- Index of a direction in lane and mask numbering: N E S W. -/
def dirIdx : Dir → Nat
  | .n => 0 | .e => 1 | .s => 2 | .w => 3

/-- The direction from the far end of a link. -/
def oppDir : Dir → Dir
  | .n => .s | .e => .w | .s => .n | .w => .e

/-- All directions. -/
def dirs : List Dir := [.n, .e, .s, .w]

/-- The neighbour over an edge; none at the edge of the field. -/
def neighbour (e : ElemId) : Dir → Option ElemId
  | .n => if yOf e = 0 then none else some (e - 60)
  | .e => if xOf e = 59 then none else some (e + 1)
  | .s => if yOf e = 31 then none else some (e + 60)
  | .w => if xOf e = 0 then none else some (e - 1)

/-- Does the edge cross a die boundary? -/
def crosses (e : ElemId) (d : Dir) : Bool :=
  match neighbour e d with
  | some e' => dieOf e != dieOf e'
  | none => false

/-- Hop latency of a link (R16). -/
def hop (e : ElemId) (d : Dir) : Nat := if crosses e d then 6 else 1
/-- Capacity of a data lane (R137). -/
def linkCap (e : ElemId) (d : Dir) : Nat := if crosses e d then 8 else 2

/-- The data lane of an edge and track (R338). -/
def dataLane (d : Dir) (track : Nat) : LaneNo := Fin.ofNat 16 (2 * dirIdx d + track % 2)
/-- The control lane of an edge (R338). -/
def ctlLane (d : Dir) : LaneNo := Fin.ofNat 16 (8 + dirIdx d)
/-- The port lanes (R338). -/
def laneP0 : LaneNo := 12
def laneP1 : LaneNo := 13
def laneMD : LaneNo := 14
def laneTR : LaneNo := 15

/-- A bit of a direction mask in the order [3] N, [2] E, [1] S, [0] W (R34, R152). -/
def maskBit (m : BitVec 4) (d : Dir) : Bool := m.getLsbD (3 - dirIdx d)

/-! ### Elements, slots, lanes -/

/-- An element. -/
def Fab.elem (f : Fab) (e : ElemId) : Elem := (mget e f.elems).getD {}
/-- The fabric with an element replaced. -/
def Fab.setElem (f : Fab) (e : ElemId) (x : Elem) : Fab := { f with elems := mput e x f.elems }
/-- The fabric with an element changed. -/
def Fab.modElem (f : Fab) (e : ElemId) (g : Elem → Elem) : Fab := f.setElem e (g (f.elem e))
/-- A slot of an element. -/
def Elem.slot (x : Elem) (c : Ctx) : Slot := x.slots.get c
/-- The element with a slot replaced. -/
def Elem.setSlot (x : Elem) (c : Ctx) (s : Slot) : Elem := { x with slots := x.slots.set c s }
/-- A slot by element and context. -/
def Fab.slot (f : Fab) (e : ElemId) (c : Ctx) : Slot := (f.elem e).slot c
/-- The fabric with a slot changed. -/
def Fab.modSlot (f : Fab) (e : ElemId) (c : Ctx) (g : Slot → Slot) : Fab :=
  f.modElem e fun x => x.setSlot c (g (x.slot c))
/-- A lane of a slot. -/
def Slot.lane (s : Slot) (l : LaneNo) : Lane := s.lanes.get l
/-- The slot with a lane changed. -/
def Slot.modLane (s : Slot) (l : LaneNo) (g : Lane → Lane) : Slot := { s with lanes := s.lanes.set l (g (s.lane l)) }
/-- A lane by element, context and number. -/
def Fab.lane (f : Fab) (e : ElemId) (c : Ctx) (l : LaneNo) : Lane := (f.slot e c).lane l
/-- The fabric with a lane changed. -/
def Fab.modLane (f : Fab) (e : ElemId) (c : Ctx) (l : LaneNo) (g : Lane → Lane) : Fab :=
  f.modSlot e c fun s => s.modLane l g

/-- Tokens of the lane pushed on earlier ticks and not consumed on earlier ticks (R137); markers hold no lane entry (R358). -/
def Lane.occ (l : Lane) (now : Nat) : Nat :=
  (l.pipe.filter fun x => decide (x.pushed < now) && x.tok.kind != .marker).length +
    (l.buf.filter fun t => t.kind != .marker).length + (if l.popAt = now then l.pops else 0)

/-- The token at the head of the lane on a tick: the oldest token held, unless one was already taken on this tick. -/
def Lane.head (l : Lane) (now : Nat) : Option Token :=
  if l.popAt = now ∧ l.pops ≠ 0 then none else l.buf.head?

/-- The lane after its head is taken on a tick, logged while a cut awaits its marker (R358). -/
def Lane.pop (l : Lane) (now : Nat) : Lane :=
  { l with
    buf := l.buf.tail, popAt := now, pops := (if l.popAt = now then l.pops else 0) + 1, headAt := now + 1,
    log := match l.log, l.buf.head? with
      | some xs, some t => if t.kind = .marker then some xs else some (xs ++ [t])
      | lg, _ => lg }

/-- The lane with a token pushed into its pipeline on a tick. -/
def Lane.push (l : Lane) (now h : Nat) (t : Token) : Lane := { l with pipe := l.pipe ++ [⟨now, now + h, t⟩] }

/-- The lane after a token due by a tick has left the pipeline. -/
def Lane.arrive (l : Lane) (now : Nat) : Lane :=
  match l.pipe with
  | x :: xs =>
    if x.due ≤ now then
      { l with pipe := xs, buf := l.buf ++ [x.tok], headAt := if l.buf.isEmpty then max now l.headAt else l.headAt }
    else l
  | [] => l

/-- Is the lane empty, its pipeline included (R338)? -/
def Lane.isEmpty (l : Lane) : Bool := l.pipe.isEmpty && l.buf.isEmpty
/-- Tokens in the lane, its pipeline included (R347). -/
def Lane.count (l : Lane) : Nat := l.pipe.length + l.buf.length

/-! ### Work due later -/

/-- A step due on a tick, in a phase of it. -/
def Fab.at (f : Fab) (t ph : Nat) (i : Instr) : Fab := { f with evq := f.evq ++ [⟨t, ph, .instr i⟩] }

/-- A data or EOS token pushed on a link of an element's row (R137, R140). -/
def Fab.pushLink (f : Fab) (e : ElemId) (c : Ctx) (d : Dir) (track : Nat) (t : Token) : Fab :=
  match neighbour e d with
  | none => f
  | some e' =>
    let l := dataLane (oppDir d) track
    (f.modLane e' c l fun x => x.push f.clock (hop e d) t).at (f.clock + hop e d) 0 (.linkTokenArrival e' c l)

/-- A control token pushed on an edge (R146). -/
def Fab.pushCtl (f : Fab) (e : ElemId) (c : Ctx) (d : Dir) (v p : Bool) : Fab :=
  match neighbour e d with
  | none => f
  | some e' =>
    let l := ctlLane (oppDir d)
    (f.modLane e' c l fun x => x.push f.clock 1 { v := bit 32 v, p := p, ty := .ctl }).at (f.clock + 1) 0
      (.controlTokenArrival e' c l)

/-! ### Free values -/

/-- The next free value (log 4), and the fabric with the draw counted. -/
def Fab.draw (f : Fab) : W64 × Fab := (Config.freeValue f.free, { f with free := f.free + 1 })

/-! ### Runs, verdicts and events (R351, R354) -/

/-- A run by its number. -/
def Fab.run (f : Fab) (r : Nat) : Run := (mget r f.runs).getD {}
/-- The fabric with a run changed, if it is active. -/
def Fab.modRun (f : Fab) (r : Nat) (g : Run → Run) : Fab := { f with runs := mmod r g f.runs }
/-- A copy of a run. -/
def Run.copy (r : Run) (k : Nat) : Copy := r.copies.getD k {}
/-- The run with a copy changed. -/
def Run.modCopy (r : Run) (k : Nat) (g : Copy → Copy) : Run := { r with copies := lset r.copies k (g (r.copy k)) }

/-- The elements of a region in ascending field number; a region ends at the field's edges (R15, R24). -/
def Copy.elems (c : Copy) : List ElemId :=
  (List.range (min c.rows (32 - c.oy))).flatMap fun j =>
    (List.range (min c.cols (60 - c.ox))).map fun i => fieldNo (c.ox + i) (c.oy + j)

/-- A run's verdict raised to at least v (R351). -/
def Run.raise (r : Run) (v : Nat) : Run := { r with verdict := max r.verdict v }

/-- The code spaces of the progress field (R333): poison causes, job causes, record causes. -/
def spacePoison : Nat := 1
def spaceJob : Nat := 2
def spaceRecord : Nat := 3

/-- The run's first error event kept as its progress field (R333, R351). -/
def Run.note (r : Run) (space cause code e idx : Nat) : Run :=
  if r.progress ≠ 0 then r
  else { r with progress := BitVec.ofNat 64 (cause % 256 + code % 256 * 2 ^ 8 + xOf e * 2 ^ 16 + yOf e * 2 ^ 24 +
    space % 8 * 2 ^ 29 + idx % 2 ^ 32 * 2 ^ 32) }

/-- A channel. -/
def Fab.chan (f : Fab) (ch : Nat) : Chan := f.chans.get (Fin.ofNat 64 ch)
/-- The fabric with a channel changed. -/
def Fab.modChan (f : Fab) (ch : Nat) (g : Chan → Chan) : Fab :=
  { f with chans := f.chans.set (Fin.ofNat 64 ch) (g (f.chan ch)) }
/-- Depth of a channel's FIFO (R110). -/
def chanDepth (ch : Nat) : Nat := if ch = 0 then 16 else 8
/-- Is the channel's FIFO full? -/
def Fab.chanFull (f : Fab) (ch : Nat) : Bool := decide (chanDepth ch ≤ (f.chan ch).q.length)

/-- A message from a hardware sender: a full channel loses it and counts the loss; a halted Pommel loses every message (R112,
R119). -/
def Fab.send (f : Fab) (ch : Nat) (m : Msg) : Fab :=
  if f.pom.halted then f
  else if f.chanFull ch then f.modChan ch fun c => { c with lost := min 255 (c.lost + 1) }
  else f.modChan ch fun c => { c with q := c.q ++ [m] }

/-- The tick counter of a partition (R28). -/
def Fab.ctr (f : Fab) (p : Nat) : Nat := ((mget p f.parts).getD {}).ctr

/-- The payload of a poison token made by an element (R144). -/
def poisonOf (cause : Nat) (e : ElemId) : W32 := BitVec.ofNat 32 (cause * 2 ^ 24 + xOf e * 2 ^ 18 + yOf e * 2 ^ 13)

/-- Poison causes of R144. -/
def causeInvalid : Nat := 1
def causeUncorr : Nat := 2
def causeStrmlen : Nat := 3
def causeOverarrive : Nat := 4
def causeStranded : Nat := 5
def causeDecomp : Nat := 6
def causeDiverge : Nat := 7
def causeCtlpoison : Nat := 8
def causeElemfault : Nat := 9

/-- A fresh number for a table whose entries wait for a later step. -/
def Fab.fresh (f : Fab) : Nat × Fab := (f.seq, { f with seq := f.seq + 1 })

/-- Is the element being moved to its hot spare (R341)? -/
def Fab.moving (f : Fab) (e : ElemId) : Bool :=
  f.ops.any fun (_, o) => match o with
    | .spare x _ _ => x == e
    | _ => false

/-- Row counter and frame of a slot's run at an element (R21, R22). -/
def Fab.rowOf (f : Fab) (e : ElemId) (c : Ctx) : Nat × Nat :=
  let s := f.slot e c
  match s.run with
  | none => (0, 0)
  | some (r, k) =>
    let g := ((f.run r).copy k).g
    let sh := s.share.getD {}
    (g, (g - sh.stage * sh.ii) / max sh.ii 1)

/-- A containment event of a row of a frame on channel 3 (R354). -/
def Fab.eventOf (f : Fab) (g fr kind : Nat) (e : ElemId) (c : Ctx) (r : Run) (cause : Nat) (payload : W32) : Fab :=
  f.send 3
    { w0 := BitVec.ofNat 64 (8 * 2 ^ 56 + kind * 2 ^ 48 + xOf e * 2 ^ 42 + yOf e * 2 ^ 37 + c.val * 2 ^ 35 +
        r.part % 8 * 2 ^ 32 + r.tag.toNat * 2 ^ 16 + cause % 256 * 2 ^ 8)
      w1 := BitVec.ofNat 64 g
      w2 := BitVec.ofNat 64 (fr % 2 ^ 32 + payload.toNat * 2 ^ 32)
      w3 := BitVec.ofNat 64 (f.ctr r.part) }

/-- A containment event of the row that the element's region stands at. -/
def Fab.event (f : Fab) (kind : Nat) (e : ElemId) (c : Ctx) (r : Run) (cause : Nat) (payload : W32) : Fab :=
  f.eventOf (f.rowOf e c).1 (f.rowOf e c).2 kind e c r cause payload

/-- What follows a poison-consumed event (R357): a rollback, or the purge of a replay window, resolved at the end of the tick, or
a tainted verdict. -/
def Copy.contain (k : Copy) : Bool :=
  k.replayTo.isSome || (match k.cutDone with
    | some (n, _) => decide (k.rolled ≠ some n)
    | none => false)

/-- A poison-consumed event of row g of a frame at an element (R355, R357): its message, then containment. -/
def Fab.poisonConsumedAt (f : Fab) (g fr : Nat) (e : ElemId) (c : Ctx) (cause : Nat) (payload : W32) : Fab :=
  match (f.slot e c).run with
  | none => f
  | some (r, k) =>
    let run := f.run r
    let f := f.eventOf g fr 1 e c run cause payload
    if (run.copy k).contain then (f.modRun r fun x => x.modCopy k fun y => { y with evRow := g }).at f.clock 2 (.rollback r k)
    else f.modRun r fun x => (x.raise 2).note spacePoison cause 0 e 0

/-- A poison-consumed event of the row that the element's region stands at. -/
def Fab.poisonConsumed (f : Fab) (e : ElemId) (c : Ctx) (cause : Nat) (payload : W32) : Fab :=
  f.poisonConsumedAt (f.rowOf e c).1 (f.rowOf e c).2 e c cause payload

/-- The cause code of a poison payload (R144). -/
def causeOf (payload : W32) : Nat := (payload.extractLsb' 24 8).toNat

/-! ### Beryl (R214) -/

/-- The rank of a flit of a job among those of a tick: jobs of a class other than 0 first, each group in order of admission; a heartbeat has
rank 0 (R214). -/
def berylRank (cls arr e : Nat) : Nat := 1 + ((if cls = 0 then 2 ^ 64 else 0) + arr) * 4096 + e

/-- A flit handed to Beryl on this tick. -/
def Fab.berylSend (f : Fab) (rank : Nat) (x : Flit) : Fab := { f with beryl := { f.beryl with cue := f.beryl.cue ++ [(rank, x)] } }

/-- The flits of a tick sent in order of rank (R214). -/
def Fab.berylFlush (f : Fab) : Fab :=
  let b := f.beryl
  { f with beryl := { b with cue := [], out := b.out ++ (b.cue.mergeSort fun x y => decide (x.1 ≤ y.1)).map (·.2) } }

/-! ### Traps (R116-R119) -/

/-- Trap causes (R116). -/
def trapIllegal : Nat := 1
def trapMisalign : Nat := 2
def trapBuserr : Nat := 3
def trapEcc : Nat := 4
def trapFetch : Nat := 5
def trapWatchdog : Nat := 6
def trapSoft : Nat := 7

/-- The base of host memory in the flat space. -/
def hostBase : Nat := 2 ^ 64

/-- A word of task SRAM (R109). -/
def Fab.sram (f : Fab) (a n : Nat) : Nat := f.load (sramBase + a) n
/-- Task SRAM written. -/
def Fab.setSram (f : Fab) (a : Nat) (bs : List Byte) : Fab := f.store (sramBase + a) bs

/-- The cycle of the instruction that Pommel executes. -/
def Fab.cyc (f : Fab) : Nat := f.pom.next

/-- Pommel after its task ends: the next dispatch is counted from the following cycle (R113). -/
def Pommel.idle (p : Pommel) : Pommel := { p with running := false, next := p.next + 1 }

/-- A response in the response window, with MSI-X vector 0 (R131). -/
def Fab.respond (f : Fab) (tag : BitVec 16) (status : Nat) (result : List Byte) : Fab :=
  { f with host := { f.host with
      resp := (leBytes 2 tag.toNat ++ [BitVec.ofNat 8 status, 0] ++ result ++ List.replicate 28 0).take 32
      msix := f.host.msix ++ [0] } }

/-- The outcome of a self-test in two bytes (log 29). -/
def selfTestCode : SelfTest → Nat
  | .good => 0
  | .replaced e => 2 ^ 15 + e % 2 ^ 15
  | .failed => 2 ^ 16 - 1

/-- The result of STATUS: state, event-log count, self-test outcomes (R132, log 29). -/
def HostIf.statusBytes (h : HostIf) : List Byte :=
  leBytes 4 h.partState ++ leBytes 4 h.log.length ++ h.selfTest.flatMap fun o => leBytes 2 (selfTestCode o)

/-- The fixed ROM routine of a double fault (R119): DFREC, FAULT_N low, a STATUS response with state DOUBLEFAULT where the link is
up, Pommel halted. No command asked for the response, and R119 gives it no tag: tag 0 is the model's choice (log 52). -/
def Fab.doubleFault (f : Fab) (w0 : W64) : Fab :=
  let f := { f with host := { f.host with dfrec := w0, fault := true, partState := 3 } }
  let f := if f.host.linkUp then f.respond 0 0 f.host.statusBytes else f
  { f with pom := { f.pom with halted := true, running := false } }

/-- A trap (R116-R119): the faulting instruction has no effect, the task ends, and its message goes to channel 0; a first fetch of
a channel-0 task that faults, a trap of a task dispatched from a nested trap message, and a full channel 0 are double faults. `w` is
the faulting word, `x` the data or fetch address or the code. While an STIO of the task is outstanding the instruction is held (R115); the
next dispatch is counted from the trap (R113). -/
def Fab.trap (f : Fab) (cause : Nat) (w : Nat) (x : W64) : Fab :=
  let p := f.pom
  if p.next < p.stio then { f with pom := { p with next := p.stio } } else
  let nest := p.chan == 0
  let w0 := BitVec.ofNat 64 (2 ^ 56 + cause * 2 ^ 48 + p.chan * 2 ^ 40 + (if nest then 2 ^ 39 else 0) + p.pc.toNat % 2 ^ 32)
  let m : Msg := ⟨w0, BitVec.ofNat 64 w, x, BitVec.ofNat 64 f.cyc⟩
  if nest && (p.nested || (p.first && cause == trapFetch)) || f.chanFull 0 then f.doubleFault w0
  else { f.send 0 m with pom := { p with running := false } }

/-- A trap of the instruction at the pc. -/
def Fab.trapHere (f : Fab) (cause : Nat) (x : W64) : Fab := f.trap cause (f.sram f.pom.pc.toNat 4) x

end Sys2Proof.Machine
end

