-- ==== Sys2Proof/Machine/Flags.lean ====
section
/-! DEFINITION. The element mode and status registers: fields, rounding mode, flags raised, reads and writes (spec 03_numbers
R67-R71, 04_arithmetic R87-R90). -/

namespace Sys2Proof.Machine

/-- Bits of ESR above the floating flags (R88). -/
def esrPsn : W32 := 1 <<< 6
def esrTfull : W32 := 1 <<< 7
def esrStrmlen : W32 := 1 <<< 8
def esrStray : W32 := 1 <<< 9
def esrOverarr : W32 := 1 <<< 10

/-- The LFSR field of EMR (R87). -/
def lfsrOf (emr : W32) : BitVec 16 := emr.extractLsb' 16 16
/-- EMR with its LFSR field replaced. -/
def setLfsr (emr : W32) (l : BitVec 16) : W32 := l ++ emr.extractLsb' 0 16
/-- Poison on invalid (R87). -/
def pinv (emr : W32) : Bool := emr.getLsbD 3

/-- A rounding mode from its code (R35); `dyn` reads the RND field, whose values 110 and 111 act as rne (R67). -/
def rmOf (code : Nat) (emr : W32) : RM :=
  let plain (k : Nat) : RM :=
    match k with
    | 1 => .rtz | 2 => .rdn | 3 => .rup | 4 => .rna | 5 => .rsr
    | _ => .rne
  if code = 6 then plain (emr.toNat % 8) else plain code

/-- EMR after a write: RND, PINV and the LFSR take the value's bits, reserved bits stay 0, a zero seed loads 1 (R87). -/
def emrWrite (v : W32) : W32 := lfsrSeed (v.extractLsb' 16 16) ++ (v.extractLsb' 0 16 &&& 0xF)

/-- ESR after a write: every flag that is 1 in the value is cleared (R88). -/
def esrWrite (esr v : W32) : W32 := esr &&& ~~~(v &&& 0x7FF)

/-- A slot with ESR flags raised (R89). -/
def Slot.raise (s : Slot) (m : W32) : Slot := { s with esr := s.esr ||| m }

/-- Flags of a transfer that retires on this tick: rows of the tick do not read them, and a write of the tick does not clear them
(R89, R90). -/
def Slot.raiseIn (s : Slot) (m : W32) : Slot := { s with esrIn := s.esrIn ||| m }

/-- The flags of the tick's retirements in ESR, as the tick ends. -/
def Slot.joinFlags (s : Slot) : Slot := { s with esr := s.esr ||| s.esrIn, esrIn := 0 }

/-- The LFSR as the write port draws from it on a tick: a seed written on this tick waits for the port's roundings (R69, R90). -/
def Slot.portLfsr (s : Slot) (now : Nat) : BitVec 16 := if s.oldL.1 = now + 1 then s.oldL.2 else lfsrOf s.emr

/-- The LFSR after the write port's draws of a tick. -/
def Slot.setPortLfsr (s : Slot) (now : Nat) (l : BitVec 16) : Slot :=
  if s.oldL.1 = now + 1 then { s with oldL := (now + 1, l) } else { s with emr := setLfsr s.emr l }

end Sys2Proof.Machine
end

