-- ==== Sys2Proof/Machine/Operands.lean ====
section
/-! DEFINITION. A row of an element: how its sources are read, whether it may issue and how it issues, what it delivers where
(spec 02_encoding R34-R39, 03_numbers R74, 04_arithmetic R83-R86, 06_routing R138-R151, 07_tiles R169, R170, R177). -/

namespace Sys2Proof.Machine

/-- A row about to issue: the fabric, the element and context, the op word and the wires. -/
structure Row where
  f : Fab
  e : ElemId
  c : Ctx
  op : BitVec 24
  wr : Wires

/-- The row that the current element issues. -/
def Fab.rowCtx (f : Fab) (op : BitVec 24) (wr : Wires) : Row := ⟨f, f.cur.1, f.cur.2, op, wr⟩

/-- The op word of a row instruction; zero for anything else. -/
def opWord (i : Instr) : BitVec 24 := ((encodeOp i).map (·.1)).getD 0
/-- The wires of a row instruction. -/
def wiresOf (i : Instr) : Wires := ((encodeOp i).map (·.2)).getD {}

namespace Row
def el (r : Row) : Elem := r.f.elem r.e
def sl (r : Row) : Slot := r.el.slot r.c
def sh (r : Row) : Share := r.sl.share.getD {}
def now (r : Row) : Nat := r.f.clock
def opc (r : Row) : Nat := (fld r.op 16 8).toNat
def rm (r : Row) : Nat := (fld r.op 13 3).toNat
def sat (r : Row) : Bool := r.op.getLsbD 12
def tm (r : Row) : Bool := r.op.getLsbD 11
def imm10 (r : Row) : BitVec 10 := fld r.op 0 10
def imm16 (r : Row) : BitVec 16 := fld r.op 0 16
def wave (r : Row) : Nat := (fld r.op 12 4).toNat
def size (r : Row) : Nat := (fld r.op 10 2).toNat
def sx (r : Row) : Bool := r.op.getLsbD 9
def imm7 (r : Row) : Nat := (fld r.op 0 7).toNat
def pb (r : Row) : Nat := (fld r.op 10 6).toNat
def pq (r : Row) : Nat := (fld r.op 6 2).toNat
def var (r : Row) : Nat := (fld r.op 4 2).toNat
def sub (r : Row) : Nat := (fld r.op 0 4).toNat
def cin (r : Row) : Nat := (fld r.op 12 4).toNat
def cout (r : Row) : BitVec 4 := fld r.op 8 4
def imm8 (r : Row) : Nat := (fld r.op 0 8).toNat
end Row

/-- The parameter block that the row names (R50). -/
def Row.block (r : Row) : BitVec 256 := (mget r.pb r.sh.params).getD 0
/-- Word k of a parameter block. -/
def pword (b : BitVec 256) (k : Nat) : Nat := (b.extractLsb' (32 * k) 32).toNat

/-- The forms of the op word (R34, R45). -/
inductive Form where
  | oa | oi | om | ox | oc
  deriving DecidableEq, Repr

/-- The element form of an opcode (R45). -/
def formOf (opc : Nat) : Form :=
  if opc = 0x23 ∨ opc = 0x24 then .oi
  else if opc < 0x58 then .oa
  else if opc < 0x70 then .oc
  else if (0x73 ≤ opc ∧ opc ≤ 0x79) ∨ (0x80 ≤ opc ∧ opc ≤ 0x83) ∨ (0x8B ≤ opc ∧ opc ≤ 0x92) then .om
  else .ox

/-- The executing queue of an opcode (R45). -/
def queueOf (opc : Nat) : Queue :=
  if opc = 0x7A ∨ opc = 0x7B ∨ (0x84 ≤ opc ∧ opc ≤ 0x8A) ∨ (0x96 ≤ opc ∧ opc ≤ 0x98) ∨ (0xB0 ≤ opc ∧ opc ≤ 0xBF) then .s
  else if 0xA0 ≤ opc ∧ opc ≤ 0xA9 then .m
  else .c

/-! ### The rows of a share (R42, R50) -/

/-- The arm rows of a share that are defined: an all-zero arm pair is not (log 20). -/
def Share.armDefined (sh : Share) (k : Nat) : Bool := sh.arms.getD (2 * k) 0 != 0 || sh.arms.getD (2 * k + 1) 0 != 0

/-- The arm rows of the pairs defined, with their index 2k + arm. -/
def Share.armRows (sh : Share) : List (Nat × BitVec 64) :=
  ((List.range sh.arms.length).filter fun k => sh.armDefined (k / 2)).map fun k => (k, sh.arms.getD k 0)

/-- Op words of a share, ring and arms. -/
def Share.opWords (sh : Share) : List (BitVec 24) := sh.op ++ sh.armRows.map fun (_, x) => x.extractLsb' 32 24
/-- Route words of a share, ring and arms. -/
def Share.routeWords (sh : Share) : List (BitVec 16) := sh.route ++ sh.armRows.map fun (_, x) => x.extractLsb' 16 16

/-- Parameter block that an op word of form OX names. -/
def Share.block (sh : Share) (w : BitVec 24) : BitVec 256 := (mget (fld w 10 6).toNat sh.params).getD 0

/-! ### Sources (R37, R38, R84, R138) -/

/-- The direction of a source code N, E, S, W. -/
def srcDir (code : Nat) : Option Dir :=
  match code with
  | 1 => some .n | 2 => some .e | 3 => some .s | 4 => some .w
  | _ => none

/-- Does a source code of this edge read track 1 (R43, R51)? -/
def Share.inTrack (sh : Share) (d : Dir) : Nat := if sh.inmap.getLsbD (4 * dirIdx d + 3) then 1 else 0
/-- Does a destination bit of this edge drive track 1 (R43, R51)? -/
def Share.outTrack (sh : Share) (d : Dir) : Nat := if sh.outmap.getLsbD (dirIdx d) then 1 else 0
/-- The declared type of an output link of the destination bit (R51). -/
def Share.outType (sh : Share) (d : Dir) : Ty := sh.outTy.getD (2 * dirIdx d + sh.outTrack d) .untyped
/-- The declared type of a register (R51). -/
def Share.regType (sh : Share) (r : BitVec 5) : Ty := sh.regTy.getD r.toNat .untyped

/-- The lane that a token source code reads (R138). -/
def Share.srcLane (sh : Share) (code : BitVec 4) : Option LaneNo :=
  match code.toNat with
  | 1 => some (dataLane .n (sh.inTrack .n)) | 2 => some (dataLane .e (sh.inTrack .e))
  | 3 => some (dataLane .s (sh.inTrack .s)) | 4 => some (dataLane .w (sh.inTrack .w))
  | 5 => some laneP0 | 6 => some laneP1 | 8 => some laneMD | 11 => some laneTR
  | _ => none

/-- The token at the head of a lane of the row's slot; a marker is never an operand (R141). -/
def Row.head (r : Row) (l : LaneNo) : Option Token :=
  match (r.sl.lane l).head r.now with
  | some t => if t.kind = .marker then none else some t
  | none => none

/-- Is the lane in discard (R142)? -/
def Row.discarding (r : Row) (l : LaneNo) : Bool := (r.sl.lane l).discard

/-- Row counter, run and copy of the row's region (R21, R22). -/
def Row.runId (r : Row) : Nat := (r.sl.run.getD (0, 0)).1
def Row.copyNo (r : Row) : Nat := (r.sl.run.getD (0, 0)).2
def Row.run (r : Row) : Run := r.f.run r.runId
def Row.cp (r : Row) : Copy := r.run.copy r.copyNo
def Row.g (r : Row) : Nat := r.cp.g

/-- The iteration offset c × step (R24). -/
def Row.ix (r : Row) : W32 := BitVec.ofNat 32 r.copyNo * r.sh.step

/-- A value in the container its type gives it; a poison payload stands as it is (R62, R144). -/
def TV.norm (t : TV) : TV := if t.p then t else { t with v := readContainer t.ty t.v }

/-- A register as a typed operand (R84). -/
def Row.reg (r : Row) (k : BitVec 5) : TV :=
  let x := r.sl.regs.get k.toFin
  TV.norm ⟨x.v, x.p, r.sh.regType k⟩

/-- FB read in the type that the loader found for the row, else in the type in which it stands (R84). -/
def Row.fbValue (r : Row) : TV :=
  let n := r.sh.fbTy.length
  TV.norm { r.sl.fb with ty := (r.sh.fbTy.getD (r.g % max n 1) none).getD r.sl.fb.ty }

/-- The control latch read as a value: a poisoned latch is a poison value of cause CTLPOISON (R145). -/
def Row.latchTV (r : Row) : TV :=
  if r.sl.latchP then ⟨poisonOf causeCtlpoison r.e, true, .ctl⟩ else ⟨bit 32 r.sl.latch, false, .ctl⟩

/-- The value of a source (R84, R138). -/
def Row.src (r : Row) (code : BitVec 4) (k : BitVec 5) : TV :=
  match r.sh.srcLane code with
  | some l => match r.head l with
    | some t => TV.norm ⟨t.v, t.p, t.ty⟩
    | none => {}
  | none =>
    match code.toNat with
    | 0 => r.reg k
    | 7 => TV.norm r.sl.lt
    | 9 => ⟨r.imm10.signExtend 32, false, .i32⟩
    | 10 => r.latchTV
    | 12 => r.fbValue
    | 13 => ⟨r.ix, false, .i32⟩
    | 14 => ⟨BitVec.ofNat 32 r.g, false, .n32⟩
    | _ => {}

/-- The link destinations of the route word, as a mask [3] N, [2] E, [1] S, [0] W. -/
def Route.links (t : Route) : BitVec 4 := bit 1 t.n ++ bit 1 t.e ++ bit 1 t.s ++ bit 1 t.w

/-- The result type of a row: the type of rd where a typed register is written, else the type of its first output link, else
a default (R74, R85). -/
def Row.resTy (r : Row) (dflt : Ty) : Ty :=
  let rt := r.sh.regType r.wr.reg.rd
  if r.wr.route.reg ∧ rt ≠ .untyped then rt
  else match dirs.find? (fun d => maskBit (Route.links r.wr.route) d) with
    | some d => r.sh.outType d
    | none => dflt

/-- What the row's instruction takes and gives. -/
def Row.sig (r : Row) : Sig := sigOf r.op (bits (pword r.block 0) 8 4)

/-- Does the row accept a type that only the token tells (R275, R316)? An instruction that passes its data unchanged also needs it to be
the type of its destinations (R149). -/
def Row.accepts (r : Row) (acc : Acc) (t : Ty) : Bool :=
  acc.has t && (!([0x58, 0x59, 0x5A, 0x5B, 0x6C].contains r.opc) || r.resTy t == t)

/-- A source read as an operand: a token of a port lane or of TR whose type the instruction does not accept is poison of cause ELEMFAULT
(R275, R316). -/
def Row.operand (r : Row) (acc : Acc) (code : BitVec 4) (k : BitVec 5) : TV :=
  let t := r.src code k
  if [5, 6, 11].contains code.toNat && !r.accepts acc t.ty then ⟨poisonOf causeElemfault r.e, true, t.ty⟩ else t

/-- Operand A, operand B, and the third operand rd (R39). -/
def Row.a (r : Row) : TV := r.operand r.sig.a r.wr.route.a r.wr.reg.ra
def Row.b (r : Row) : TV := r.operand r.sig.b r.wr.route.b r.wr.reg.rb
def Row.d (r : Row) : TV := r.reg r.wr.reg.rd

/-- The token lanes that A and B name. -/
def Row.laneA (r : Row) : Option LaneNo := r.sh.srcLane r.wr.route.a
def Row.laneB (r : Row) : Option LaneNo := r.sh.srcLane r.wr.route.b

/-! ### Destinations (R37, R43, R137, R146) -/

/-- Has the lane at the far end of an edge room for a push on this tick (R137)? -/
def Row.linkRoom (r : Row) (d : Dir) : Bool :=
  match neighbour r.e d with
  | none => true
  | some e' => decide ((r.f.lane e' r.c (dataLane (oppDir d) (r.sh.outTrack d))).occ r.now < linkCap r.e d)

/-- Has every link of a mask room? -/
def Row.room (r : Row) (m : BitVec 4) : Bool := dirs.all fun d => !maskBit m d || r.linkRoom d

/-- Has every control lane of a mask room (R146)? -/
def Row.ctlRoom (r : Row) (m : BitVec 4) : Bool :=
  dirs.all fun d => !maskBit m d ||
    match neighbour r.e d with
    | none => true
    | some e' => decide ((r.f.lane e' r.c (ctlLane (oppDir d))).occ r.now < 2)

/-! ### Predicates (R150, R151) -/

/-- The predicate behind a cin code: its value and poison bit; none when an edge lane holds no token (R150). -/
def Row.pred (r : Row) (sel : Nat) : Option (Bool × Bool) :=
  if sel = 5 then some (if r.sl.latchP then false else r.sl.latch, r.sl.latchP)
  else match srcDir sel with
    | some d => ((r.sl.lane (ctlLane d)).head r.now).map fun t => (t.v != 0, t.p)
    | none => some (false, false)

/-- The fabric after the predicate of a cin code is consumed: an edge lane gives its head (R147). -/
def Fab.takePred (f : Fab) (e : ElemId) (c : Ctx) (sel : Nat) : Fab :=
  match srcDir sel with
  | some d => f.modLane e c (ctlLane d) fun l => l.pop f.clock
  | none => f

/-! ### Token FIFOs and admission (R169, R170) -/

/-- Index of the token FIFO between two queues. -/
def fifoIx : Queue → Queue → Fin 6
  | .c, .m => 0 | .c, .s => 1 | .m, .c => 2 | .m, .s => 3 | .s, .c => 4 | .s, .m => 5
  | _, _ => 0

/-- A queue by its pq code (R34). -/
def queueOfCode (k : Nat) : Option Queue :=
  match k with
  | 1 => some .c | 2 => some .m | 3 => some .s
  | _ => none

/-- The FIFO that the row waits on (R46, R169). -/
def Row.waitFifo (r : Row) : Option (Fin 6) :=
  match formOf r.opc with
  | .om => if r.op.getLsbD 8 then some (fifoIx .s .c) else none
  | .ox => if r.op.getLsbD 9 then (queueOfCode r.pq).map fun q => fifoIx q (queueOf r.opc) else none
  | _ => none

/-- The FIFO toward which the row pushes at retirement (R46, R169). -/
def Row.pushFifo (r : Row) : Option (Fin 6) :=
  match formOf r.opc with
  | .om => if r.op.getLsbD 7 then some (fifoIx .c .s) else none
  | .ox => if r.op.getLsbD 8 then (queueOfCode r.pq).map fun q => fifoIx (queueOf r.opc) q else none
  | _ => none

/-- Does the FIFO hold a token pushed on an earlier tick (R169)? -/
def Fifo.ready (q : Fifo) (now : Nat) : Bool :=
  match q.q with
  | (t, _) :: _ => decide (t < now)
  | [] => false

/-- The wait, the push reservation and the room in queue M or S (R169, R170). The queries of queue S and M that only read or
stop work take no queue entry; they stand in `immediate`. -/
def immediateOp (opc : Nat) : Bool :=
  opc = 0x88 || opc = 0x89 || opc = 0x8A || opc = 0xA6 || opc = 0xA7 || opc = 0xA8 || opc = 0xB3 || opc = 0xBA ||
    opc = 0xBC || opc = 0xBD

def Row.admits (r : Row) : Bool :=
  (match r.waitFifo with
    | some k => (r.sl.fifos.get k).ready r.now
    | none => true) &&
  (match r.pushFifo with
    | some k => decide ((r.sl.fifos.get k).q.length + (r.sl.fifos.get k).rsv < 16)
    | none => true) &&
  (match queueOf r.opc with
    | .c => true
    | .m => immediateOp r.opc || (decide (r.el.mq.length < 4) && r.el.mq.all fun m => m.c == r.c)
    | .s => immediateOp r.opc || r.el.sq.toList.any fun j => !j.live)

/-! ### Tape records (R295, R296) -/

/-- The recording to which row g of the row's region adds: in an image with the recordable flag, a row after that of TAPEB and up to that
of TAPEE (R295, R312, R313). -/
def Row.tapeAt (r : Row) (g : Nat) : Option Recording :=
  if r.sh.flags.getLsbD 1 then r.cp.rec_.filter fun k => decide (k.since < g) && !k.over_ && (k.stop.all fun t => decide (g ≤ t))
  else none
/-- The recording to which the row adds. -/
def Row.tape (r : Row) : Option Recording := r.tapeAt r.g

/-- Records of the element that the tape engine has not yet accepted. -/
def Row.recWaiting (r : Row) : Nat := (r.el.slots.toList.map fun s => s.recq.length).foldl (· + ·) 0

/-- Would a row of an opcode record a decision if it executed? -/
def recordsBranch (opc : Nat) : Bool := [0x58, 0x59, 0x5B, 0x6D].contains opc

/-- Would the row record if it executed? NOP has no result (R93), and values are not recorded after an overflow (R302). -/
def Row.records (r : Row) : Bool :=
  match r.tape with
  | none => false
  | some k => recordsBranch r.opc || (k.ovf.isNone && ((formOf r.opc = .oa && r.opc != 0 && r.tm) || r.opc == 0xCE))

/-- May the row record, as far as the 16 waiting records go? -/
def Row.recRoom (r : Row) : Bool := !r.records || decide (r.recWaiting < 16)

/-- A record made by row g of a frame: it may be accepted from the next tick, one made on another die 12 t later (R296). -/
def Row.recordAt (r : Row) (g frame : Nat) (branch : Bool) (v : W32) (p : Bool) (f : Fab) : Fab :=
  match r.tapeAt g with
  | none => f
  | some k =>
    let far := dieOf (fieldNo r.cp.ox r.cp.oy) != dieOf r.e
    let f := f.modRun r.runId fun x => x.modCopy r.copyNo fun cp =>
      { cp with rec_ := cp.rec_.map fun k => { k with last := some (max frame (k.last.getD 0)) } }
    if !branch && k.ovf.isSome then f
    else f.modSlot r.e r.c fun s => { s with recq := s.recq ++ [⟨branch, v, p, r.now + (if far then 12 else 1), frame⟩] }
/-- A record made by the row as it issues. -/
def Row.record (r : Row) (branch : Bool) (v : W32) (p : Bool) (f : Fab) : Fab := r.recordAt r.g (r.f.rowOf r.e r.c).2 branch v p f

/-! ### How a row comes up (R139, R141, R142) -/

/-- What a row does when it comes up: it holds; it executes; it forwards an EOS taken from some lanes; it takes a data token
against an EOS (the lane that keeps its EOS, the lane that goes into discard, the predicate consumed or not). -/
inductive Plan where
  | hold
  | go
  | eos (ls : List LaneNo)
  | strm (drop : LaneNo) (takeP : Bool)
  deriving DecidableEq, Repr

/-- The plan of a row by its required token lanes (R139, R141, R142): a lane in discard is required by no row, and while it
discards, data on the other lane waits. A row whose only token source is a lane in discard waits until the discard ends: the rules do not
say what it does, this is the model's choice (log 39). -/
def Row.planLanes (r : Row) (ls : List LaneNo) : Plan :=
  match ls with
  | [] => .go
  | [l] =>
    if r.discarding l then .hold else
      match r.head l with
      | none => .hold
      | some t => if t.kind = .eos then .eos [l] else .go
  | l :: m :: _ =>
    if r.discarding l || r.discarding m then
      let x := if r.discarding l then m else l
      if r.discarding x then .hold else
        match r.head x with
        | some t => if t.kind = .eos then .eos [x] else .hold
        | none => .hold
    else
      match r.head l, r.head m with
      | some t, some u =>
        if t.kind = .eos ∧ u.kind = .eos then .eos [l, m]
        else if t.kind = .eos then .strm m false
        else if u.kind = .eos then .strm l false
        else .go
      | _, _ => .hold

/-- The distinct token lanes that A and B name. -/
def Row.lanes (r : Row) : List LaneNo :=
  match r.laneA, r.laneB with
  | some l, some m => if l = m then [l] else [l, m]
  | some l, none => [l]
  | none, some m => [m]
  | none, none => []

/-- A plan kept only where it may issue: an executing row needs room on its links and control outputs, its wait token, its
reserved push and its queue; a row that forwards EOS or pushes the STRMLEN poison does not execute, and needs room on its links
alone (R139, R141, R142). -/
def Row.withRoom (r : Row) (p : Plan) (links couts : BitVec 4) : Plan :=
  match p with
  | .hold => .hold
  | .go => if r.room links && r.ctlRoom couts && r.admits && r.recRoom then .go else .hold
  | _ => if r.room links then p else .hold

/-- The plan of a row without rules of its own (R139). -/
def Row.planDefault (r : Row) : Plan := r.withRoom (r.planLanes r.lanes) (Route.links r.wr.route) 0

/-! ### Delivering (R140, R144, R145) -/

/-- A token of a typed value for a link: the container of the link's type, or the poison payload as it is. -/
def linkToken (ty : Ty) (t : TV) : Token := { kind := .data, v := if t.p then t.v else deliver ty t.v, p := t.p, ty := ty }

/-- A token pushed on every link of a mask, in the type of each link. -/
def Fab.pushMask (f : Fab) (e : ElemId) (c : Ctx) (sh : Share) (m : BitVec 4) (tok : Ty → Token) : Fab :=
  dirs.foldl (fun f d => if maskBit m d then f.pushLink e c d (sh.outTrack d) (tok (sh.outType d)) else f) f

/-- A control token pushed on every edge of a mask (R146). -/
def Fab.pushCtlMask (f : Fab) (e : ElemId) (c : Ctx) (m : BitVec 4) (v p : Bool) : Fab :=
  dirs.foldl (fun f d => if maskBit m d then f.pushCtl e c d v p else f) f

/-- A result written to register rd, in the container of the register's type, or of the result type for an untyped register
(R85). -/
def writeReg (sh : Share) (k : BitVec 5) (t : TV) (s : Slot) : Slot :=
  let ty := sh.regType k
  let ty := if ty = .untyped then t.ty else ty
  { s with regs := s.regs.set k.toFin ⟨if t.p then t.v else deliver ty t.v, t.p⟩ }

/-- A result sent to the control latch: 1 where the 32-bit result is not zero (R85, R145). -/
def writeLatch (t : TV) (s : Slot) : Slot :=
  { s with latch := !t.p && t.v != 0, latchP := t.p }

/-- A result delivered to the destinations of a route word (R140). -/
def Fab.deliver (f : Fab) (e : ElemId) (c : Ctx) (wr : Wires) (t : TV) : Fab :=
  let sh := (f.slot e c).share.getD {}
  let f := f.pushMask e c sh (Route.links wr.route) fun ty => linkToken ty t
  f.modSlot e c fun s =>
    let s := if wr.route.reg then writeReg sh wr.reg.rd t s else s
    if wr.route.ctl then writeLatch t s else s

/-- FB takes the result of the row (R84). -/
def writeFb (t : TV) (s : Slot) : Slot := { s with fb := ⟨if t.p then t.v else deliver t.ty t.v, t.p, t.ty⟩ }

/-- The lanes whose heads a row takes: A and B unless their mode peeks (R37, R138). -/
def Row.consumed (r : Row) : List LaneNo :=
  let a := if r.wr.route.mode = 1 then [] else r.laneA.toList
  let b := if r.wr.route.mode = 2 then [] else r.laneB.toList
  (a ++ b).eraseDups

/-- The fabric after the heads of some lanes are taken. -/
def Fab.popLanes (f : Fab) (e : ElemId) (c : Ctx) (ls : List LaneNo) : Fab :=
  ls.foldl (fun f l => f.modLane e c l fun x => x.pop f.clock) f

/-- The wait's token taken: its snapshot is kept for M→C and S→C (R169). -/
def takeFifo (k : Fin 6) (s : Slot) : Slot :=
  let q := s.fifos.get k
  let snap := match q.q with
    | (_, x) :: _ => x
    | [] => 0
  let s := { s with fifos := s.fifos.set k { q with q := q.q.tail } }
  if k = 2 then { s with lastM := snap } else if k = 4 then { s with lastS := snap } else s

/-- A push reserved at admission (R169). -/
def reserveFifo (k : Fin 6) (s : Slot) : Slot :=
  let q := s.fifos.get k
  { s with fifos := s.fifos.set k { q with rsv := q.rsv + 1 } }

/-- A reserved push made at retirement, with its snapshot (R169). -/
def slotPush (k : Fin 6) (now : Nat) (snap : BitVec 16) (s : Slot) : Slot :=
  let q := s.fifos.get k
  { s with fifos := s.fifos.set k { q := q.q ++ [(now, snap)], rsv := q.rsv - 1 } }

/-- The row's wait token taken and its push reserved on the tick it issues (R169). -/
def Row.tokens (r : Row) (s : Slot) : Slot :=
  let s := match r.waitFifo with
    | some k => takeFifo k s
    | none => s
  match r.pushFifo with
  | some k => reserveFifo k s
  | none => s

/-! ### Issuing (R139-R142) -/

/-- An EOS token. -/
def eosToken (ty : Ty) : Token := { kind := .eos, ty := ty }

/-- The row of R142: the data token is discarded and its lane goes into discard, the EOS stays, a poison token of cause STRMLEN
goes to every link destination and to a register destination, ESR.STRMLEN is set. -/
def Row.strmlen (r : Row) (drop : LaneNo) : Fab :=
  let t : TV := ⟨poisonOf causeStrmlen r.e, true, .untyped⟩
  let f := r.f.modLane r.e r.c drop fun l => { l.pop r.now with discard := true }
  let f := f.pushMask r.e r.c r.sh (Route.links r.wr.route) fun ty => linkToken ty t
  f.modSlot r.e r.c fun s =>
    let s := if r.wr.route.reg then writeReg r.sh r.wr.reg.rd t s else s
    s.raise esrStrmlen

/-- The row of R141 that takes EOS tokens: they are consumed, one EOS goes to each link destination, nothing executes. -/
def Row.forwardEos (r : Row) (ls : List LaneNo) : Fab :=
  (r.f.popLanes r.e r.c ls).pushMask r.e r.c r.sh (Route.links r.wr.route) eosToken

/-- A row by its plan: it holds, forwards EOS, meets EOS against data, or executes. -/
def Row.issue (r : Row) (p : Plan) (go : Fab) : Fab :=
  match p with
  | .hold => r.f
  | .eos ls => r.forwardEos ls
  | .strm drop _ => r.strmlen drop
  | .go => go

/-- The fabric after an executing row has consumed its tokens, taken its wait token and reserved its push. -/
def Row.taken (r : Row) : Fab := (r.f.popLanes r.e r.c r.consumed).modSlot r.e r.c r.tokens

/-- A data result delivered under a poisoned predicate: poison of cause CTLPOISON, or the payload of an operand that is poison
already (R144, R151). -/
def underPoison (pp : Bool) (e : ElemId) (t : TV) : TV :=
  if pp && !t.p then { t with v := poisonOf causeCtlpoison e, p := true } else t

/-- The result of an issue whose predicate was poisoned at ARMX (R151). -/
def Row.armed (r : Row) (t : TV) : TV := underPoison r.f.armP r.e t

/-- The first poison among operands, in the order given (R86, R144). -/
def firstPoison (ops : List TV) : Option TV := ops.find? (·.p)

/-- A meaning on the fabric as a meaning on the part: it answers a next state. -/
def lift (g : Fab → Fab) (s : State) : Host.Outcome State Fault Refusal := .next { s with fab := g s.fab }

end Sys2Proof.Machine
end

