-- ==== Sys2Proof/Machine/Alu.lean ====
section
/-! DEFINITION. Rows that compute: operands in, one result, flags and a draw out, delivered as R83-R86 and R140 state
(spec 04_arithmetic R82-R90, 03_numbers R67-R74). -/

namespace Sys2Proof.Machine

/-- What a computation reads: the op word, operands A, B, rd and the partner of rd's pair, the result type, EMR and the draw. -/
structure AluIn where
  op : BitVec 24
  a : TV
  b : TV
  d : TV
  d2 : TV
  ty : Ty
  emr : W32

/-- What a computation gives: the result before delivery, the flags it raises, and whether it drew from the LFSR. -/
structure AluOut where
  v : W32
  fl : Flags := {}
  draw : Bool := false
  deriving DecidableEq, Repr

/-- Which operands an instruction reads. -/
inductive Uses where
  | z | a | ab | abd | abdd
  deriving DecidableEq, Repr

/-- The rounding mode of the row (R35, R67). -/
def AluIn.rm (x : AluIn) : RM := rmOf (fld x.op 13 3).toNat x.emr
/-- The saturation bit of the row (R34). -/
def AluIn.sat (x : AluIn) : Bool := x.op.getLsbD 12
/-- The draw that a stochastic rounding of the row uses (R68). -/
def AluIn.r (x : AluIn) : Nat := (lfsrOf x.emr).toNat

/-- The inputs of a computation, read by a row. -/
def Row.aluIn (r : Row) (dflt : Ty) : AluIn :=
  { op := r.op, a := r.a, b := r.b, d := r.d, d2 := r.reg (r.wr.reg.rd ^^^ 1), ty := r.resTy dflt, emr := r.sl.emr }

/-- The operands that count for poison, in the order A, B, rd (R86). -/
def AluIn.operands (x : AluIn) : Uses → List TV
  | .z => []
  | .a => [x.a]
  | .ab => [x.a, x.b]
  | .abd => [x.a, x.b, x.d]
  | .abdd => [x.a, x.b, x.d, x.d2]

/-- A result with no flag. -/
def plain (v : W32) : AluOut := { v := v }

/-- A computed result as a typed value: under PINV an invalid operation delivers poison of cause INVALID (R71, R86). -/
def AluOut.result (o : AluOut) (x : AluIn) (e : ElemId) : TV :=
  if o.fl.nv && pinv x.emr then ⟨poisonOf causeInvalid e, true, x.ty⟩ else ⟨o.v, false, x.ty⟩

/-- ESR bits of a computed result. -/
def AluOut.esr (o : AluOut) (x : AluIn) : W32 :=
  o.fl.toEsr ||| (if o.fl.nv && pinv x.emr then esrPsn else 0)

/-- The result of a computation with its ESR bits and EMR: poison operands pass on without flags and without a draw (R86). -/
def aluResult (u : Uses) (sem : AluIn → AluOut) (x : AluIn) (e : ElemId) : TV × W32 × W32 :=
  match firstPoison (x.operands u) with
  | some p => (⟨p.v, true, x.ty⟩, 0, x.emr)
  | none =>
    let o := sem x
    (o.result x e, o.esr x, if o.draw && x.rm = .rsr then setLfsr x.emr (lfsrNext (lfsrOf x.emr)) else x.emr)

/-- The keeper's view of an executed row (R364): where the keeper of the element's local row shadows its column and the opcode is
0x01-0x48, the result and flags of the row and the keeper's own, compared 3 t later. The keeper computes by the same rules, so
its own result is the row's; a soft error in either is the outside's. -/
def Row.keep (r : Row) (t : TV) (esr : W32) (f : Fab) : Fab :=
  match mget (16 * dieOf r.e + yOf r.e % 16) f.keepers with
  | none => f
  | some k =>
    if k.k ≠ 0 ∧ k.col = xOf r.e % 20 ∧ 0x01 ≤ r.opc ∧ r.opc ≤ 0x48 then
      let (n, f) := f.fresh
      let x := (⟨t.v, t.p⟩, esr)
      { f with keepq := mput n ⟨r.e, r.c, r.runId, x, x⟩ f.keepq }.at (r.now + 3) 2 (.keeperCompare n)
    else f

/-- A result delivered by an executing row that has taken its tokens: destinations, FB, flags and EMR (R83, R84, R140). -/
def Row.finish (r : Row) (f : Fab) (t : TV) (esr emr : W32) : Fab :=
  let t := r.armed t
  let f := (f.deliver r.e r.c r.wr t).modSlot r.e r.c fun s => { writeFb t s with esr := s.esr ||| esr, emr := emr }
  let f := if formOf r.opc = .oa ∧ r.tm then r.record false (if t.p then t.v else deliver t.ty t.v) t.p f else f
  r.keep t esr f

/-- A computing row that executes. -/
def Row.compute (r : Row) (u : Uses) (dflt : Ty) (sem : AluIn → AluOut) : Fab :=
  let x := r.aluIn dflt
  let (t, esr, emr) := aluResult u sem x r.e
  r.finish r.taken t esr emr

/-- A computing row: by its plan it holds, forwards EOS, meets EOS against data, or computes. -/
def aluRow (op : BitVec 24) (wr : Wires) (u : Uses) (dflt : Ty) (sem : AluIn → AluOut) :
    State → Host.Outcome State Fault Refusal :=
  lift fun f => let r := f.rowCtx op wr; r.issue r.planDefault (r.compute u dflt sem)

end Sys2Proof.Machine
end

