-- ==== Sys2Proof/Machine/Mem.lean ====
section
/-! DEFINITION. Virtual addresses, page walks, translation units, page migration, and accesses to one place of memory (spec
08_global R183-R193, R216, 07_tiles R167, 14_containment R351, R354). -/

namespace Sys2Proof.Machine

/-- Capacity of LPDDR6 in bytes (R1). -/
def Fab.cap (f : Fab) : Nat := (if f.big then 192 else 96) * 2 ^ 30

/-- Sub-causes of a translation fault (R188). -/
def xcNotmapped : Nat := 0
def xcStranded : Nat := 1
def xcWrite : Nat := 2
def xcUnpinned : Nat := 3
def xcBadpte : Nat := 4
def xcHost : Nat := 5
def xcRange : Nat := 6

/-- What an access does to its word (R188): a read, a write, a synchronising read that writes nothing, a synchronising access that writes
or changes F, or an atomic. -/
inductive GKind where
  | read | write | acq | sync
  deriving DecidableEq, Repr

/-- Index position, index width and table size of a walk level (R186): the leaf of a level maps 2^position bytes. -/
def levelOf : Nat → Nat × Nat × Nat
  | 0 => (35, 13, 65536)
  | 1 => (30, 5, 256)
  | 2 => (21, 9, 4096)
  | _ => (16, 5, 256)

/-- Does a physical range lie where a walk under a root may reach (R188, R339)? -/
def Fab.inRange (f : Fab) (root : Option Nat) (a n : Nat) : Bool :=
  match root with
  | none => decide (a + n ≤ f.cap)
  | some p => let q := (mget p f.parts).getD {}; decide (q.lo ≤ a ∧ a + n ≤ q.hi)

/-- The level-0 table of a root. -/
def Fab.rootTable (f : Fab) (root : Option Nat) : Option Nat :=
  match root with
  | none => f.sysRoot
  | some p => ((mget p f.parts).getD {}).root

/-- A physical entry's 64 bits. -/
def Fab.pte (f : Fab) (a : Nat) : W64 := BitVec.ofNat 64 (f.load a 8)

/-- Is the page of a leaf one that the host's memory holds? -/
def leafH (l : W64) : Bool := l.getLsbD 4
/-- The physical or bus address of a leaf's page. -/
def leafPA (l : W64) : Nat := l.toNat / 2 ^ 16 * 2 ^ 16

/-- The checks of a valid entry that do not depend on the access (R188); `size` is the page size of its level as a power of two. -/
def Fab.badPte (f : Fab) (root : Option Nat) (level : Nat) (x : W64) : Bool :=
  let size := (levelOf level).1
  if x.getLsbD 1 then
    x.extractLsb' 12 4 != 0 || x.getLsbD 7 || x.getLsbD 5 || leafPA x % 2 ^ size != 0 ||
      (!leafH x && !f.inRange root (leafPA x) (2 ^ size))
  else
    let next := x.toNat / 2 ^ 8 * 2 ^ 8
    let tsize := (levelOf (level + 1)).2.2
    level == 3 || x.extractLsb' 2 6 != 0 || next % tsize != 0 || !f.inRange root next tsize

/-- A walk from a level's table: the leaf, its page size and the entry's address, or the fault (R186-R188). -/
def Fab.walk (f : Fab) (root : Option Nat) (va : Nat) : Nat → Nat → Except Nat (W64 × Nat × Nat)
  | 0, _ => .error xcBadpte
  | fuel + 1, table =>
    let level := 3 - fuel
    let (pos, width, _) := levelOf level
    let at_ := table + 8 * (va / 2 ^ pos % 2 ^ width)
    let x := f.pte at_
    if !x.getLsbD 0 then .error (if x.extractLsb' 8 4 = 1 then xcStranded else xcNotmapped)
    else if f.badPte root level x then .error xcBadpte
    else if x.getLsbD 1 then .ok (x, pos, at_)
    else f.walk root va fuel (x.toNat / 2 ^ 8 * 2 ^ 8)

/-- The walk under a root; a root that lies outside its range is BADPTE, an absent one maps nothing. -/
def Fab.walkRoot (f : Fab) (root : Option Nat) (va : Nat) : Except Nat (W64 × Nat × Nat) :=
  match f.rootTable root with
  | none => .error xcNotmapped
  | some t => if f.inRange root t 65536 then f.walk root va 4 t else .error xcBadpte

/-- The first addresses of the valid leaves below a table that maps from an address on, in ascending order. -/
def Fab.leavesBelow (f : Fab) : Nat → Nat → Nat → List Nat
  | 0, _, _ => []
  | fuel + 1, table, va =>
    let (pos, width, _) := levelOf (3 - fuel)
    (f.mem.filter fun c => decide (table ≤ c.1 ∧ c.1 < table + 8 * 2 ^ width) && (c.1 - table) % 8 == 0 && c.2.getLsbD 0).flatMap fun c =>
      let x := f.pte c.1
      let at_ := va + (c.1 - table) / 8 * 2 ^ pos
      if x.getLsbD 1 then [at_] else f.leavesBelow fuel (x.toNat / 2 ^ 8 * 2 ^ 8) at_

/-- The checks of a leaf that depend on the access (R188): host page rules, writability, pinning, synchronising on a host page. -/
def Fab.leafFault (f : Fab) (safety : Bool) (k : GKind) (x : W64) : Option Nat :=
  if leafH x && (x.getLsbD 3 || !(f.host.features.getD 0).getLsbD 6) then some xcBadpte
  else if (k = .write ∨ k = .sync) && !x.getLsbD 2 then some xcWrite
  else if safety && !x.getLsbD 3 then some xcUnpinned
  else if (k = .acq ∨ k = .sync) && leafH x then some xcHost
  else none

/-- Number of a translation unit: memory die by bit 11, unit by bit 16 of the address (R183, R189). -/
def tlbUnit (va : Nat) : Nat := 2 * (va / 2 ^ 11 % 2) + va / 2 ^ 16 % 2

/-- Does a held entry map an address under a root? -/
def TlbEnt.hits (x : TlbEnt) (root : Option Nat) (va : Nat) : Bool :=
  decide (x.root = root) && decide (va / 2 ^ x.size = x.va / 2 ^ x.size)

/-- A unit's entries with one used or added: most recently used first, an unlocked entry replaced where the unit is full, at most
2048 locked ones (R189). -/
def tlbUse (x : TlbEnt) (es : List TlbEnt) : List TlbEnt :=
  let rest := es.filter fun y => !(decide (y.root = x.root) && decide (y.va = x.va) && decide (y.size = x.size))
  let locked := (rest.filter (·.locked)).length
  if x.locked && decide (2048 ≤ locked) then rest
  else if decide (4096 ≤ rest.length) then
    match (rest.reverse.findIdx? fun y => !y.locked) with
    | some i => x :: rest.eraseIdx (rest.length - 1 - i)
    | none => rest
  else x :: rest

/-- The place of a virtual address for an access translated in a unit, or the fault; the unit's entries move (R186-R189). -/
def Fab.translateIn (f : Fab) (u : Nat) (root : Option Nat) (safety : Bool) (k : GKind) (va : Nat) : Except Nat Nat × Fab :=
  if 2 ^ 48 ≤ va then (.error xcRange, f)
  else
    let es := (mget u f.tlb).getD []
    let found : Except Nat TlbEnt :=
      match es.find? (·.hits root va) with
      | some x => .ok x
      | none =>
        match f.walkRoot root va with
        | .error c => .error c
        | .ok (leaf, size, _) => .ok ⟨root, va / 2 ^ size * 2 ^ size, size, leaf, leaf.getLsbD 3⟩
    match found with
    | .error c => (.error c, f)
    | .ok x =>
      match f.leafFault safety k x.leaf with
      | some c => (.error c, f)
      | none =>
        let off := leafPA x.leaf + va % 2 ^ x.size
        (.ok (if leafH x.leaf then hostBase + off else off), { f with tlb := mput u (tlbUse x es) f.tlb })

/-- The pinned leaves of a partition's tables held locked, as Bridle loads them for a safety-class partition, until a unit's limit is reached:
a page larger than 64 KiB in both units of each die (R189). -/
def Fab.lockLeaves (f : Fab) (p : Nat) : Fab :=
  match f.rootTable (some p) with
  | none => f
  | some t => (f.leavesBelow 4 t 0).foldl (fun (f : Fab) va =>
    match f.walkRoot (some p) va with
    | .ok (leaf, size, _) =>
      if leaf.getLsbD 3 then
        ([0, 1, 2, 3] : List Nat).foldl (fun (f : Fab) u =>
          if size = 16 ∧ u % 2 ≠ va / 2 ^ 16 % 2 then f
          else { f with tlb := mput u (tlbUse ⟨some p, va, size, leaf, true⟩ ((mget u f.tlb).getD [])) f.tlb }) f
      else f
    | .error _ => f) f

/-- The place of a virtual address for an access at its own die (R184). -/
def Fab.translate (f : Fab) (root : Option Nat) (safety : Bool) (k : GKind) (va : Nat) : Except Nat Nat × Fab :=
  f.translateIn (tlbUnit va) root safety k va

/-- A line of 64 bytes copied with its F and poison bits. -/
def Fab.copyLine (f : Fab) (src dst : Nat) : Fab :=
  let f := f.store dst (f.bytes src 64)
  (List.range 8).foldl (fun f i => f.setTag (dst + 8 * i) (f.tag (src + 8 * i))) f

/-- An access to a line of a page under migration also copies the line to the new frame, so that both frames agree on every copied
line; after the switch, while accesses under the old entry are left, an access through the new frame is copied to the old one (R216). -/
def Fab.spliced (f : Fab) (a : Nat) : Fab :=
  let line := a / 64 * 64
  f.migs.foldl (fun f (_, m) =>
    if m.inval then f
    else if m.old ≤ a ∧ a < m.old + 2 ^ m.size then f.copyLine line (m.new + (line - m.old))
    else if m.switched ∧ m.new ≤ a ∧ a < m.new + 2 ^ m.size then f.copyLine line (m.old + (line - m.new))
    else f) f

/-- The die that counts a correction at a place: an element's or buffer's fabric die, a memory die (R354). -/
def placeDie (a : Nat) : Nat :=
  if 2 ^ 41 ≤ a then dieOf ((a - 2 ^ 41) / 2 ^ 18)
  else if 2 ^ 40 ≤ a then (a - 2 ^ 40) / 2 ^ 26
  else 6 + a / 2 ^ 11 % 2

/-- A single-bit error of a word fixed in place and counted at its die (R167, R354). -/
def Fab.fixBit (f : Fab) (a : Nat) : Fab :=
  if f.tag a / 8 % 2 = 0 then f
  else
    let d := placeDie a
    { f.setTag a (f.tag a % 8) with corr := mput d (min (2 ^ 32 - 1) ((mget d f.corr).getD 0 + 1)) f.corr }

/-- A word read by a run's row or job: a corrected error also raises the run's verdict, with one event for each run (R351, R354). -/
def Fab.fixWord (f : Fab) (e : ElemId) (c : Ctx) (run : Nat) (a : Nat) : Fab :=
  if f.tag a / 8 % 2 = 0 then f
  else
    match mget run f.runs with
    | none => f.fixBit a
    | some r =>
      let f := f.fixBit a
      let f := if r.corrSent then f else f.event 2 e c r 0 0
      f.modRun run fun r => { r.raise 1 with corrSent := true }

/-- Bytes written at a place by a row, a job or the host, with the page splice of R216. -/
def Fab.putBytes (f : Fab) (a : Nat) (bs : List Byte) : Fab := (f.store a bs).spliced a

/-- F and poison of a word changed, with the page splice. -/
def Fab.putFull (f : Fab) (a : Nat) (full : Bool) : Fab := (f.setFull a full).spliced a
def Fab.putPoison (f : Fab) (a : Nat) (p : Bool) : Fab := (f.setPoison a p).spliced a

/-- Accesses of the system root for Pommel, the host-facing engines and request tag 0 (R186). -/
def Fab.sysTranslate (f : Fab) (k : GKind) (va : Nat) : Except Nat Nat × Fab := f.translate none false k va

/-- The partition of an element. -/
def Fab.partOfElem (f : Fab) (e : ElemId) : Nat := partOf f.pmode (dieOf e)

/-- The place of an element's virtual address under the root of its partition (R186). -/
def Fab.elemTranslate (f : Fab) (e : ElemId) (k : GKind) (va : Nat) : Except Nat Nat × Fab :=
  let p := f.partOfElem e
  f.translate (some p) ((mget p f.parts).getD {}).safety k va

/-- The place of an address of a job, translated at its home die (R184). -/
def Fab.homeTranslate (f : Fab) (e : ElemId) (home : Nat) (k : GKind) (va : Nat) : Except Nat Nat × Fab :=
  let p := f.partOfElem e
  f.translateIn (2 * home + va / 2 ^ 16 % 2) (some p) ((mget p f.parts).getD {}).safety k va

/-- Is a fault of an element unserviceable (R203)? -/
def Fab.unserviceable (f : Fab) (e : ElemId) (run : Nat) : Bool :=
  ((mget (f.partOfElem e) f.parts).getD {}).safety || (f.run run).safety || !(f.host.features.getD 0).getLsbD 4

/-- The fault message of R202, with the kinds 1 job, 2 scalar access, 3 matrix command (R261). -/
def Fab.faultKind (f : Fab) (kind : Nat) (e : ElemId) (c : Ctx) (slot xc : Nat) (idxph : Bool) (run opc va idx : Nat) : Fab :=
  let p := f.partOfElem e
  f.send 3
    { w0 := BitVec.ofNat 64 (5 * 2 ^ 56 + kind * 2 ^ 48 + xOf e * 2 ^ 42 + yOf e * 2 ^ 37 + c.val * 2 ^ 35 +
        slot * 2 ^ 33 + xc * 2 ^ 29 + (if idxph then 2 ^ 28 else 0) + (f.run run).tag.toNat * 2 ^ 12 + p * 2 ^ 9 +
        (if f.unserviceable e run then 2 ^ 8 else 0) + opc)
      w1 := BitVec.ofNat 64 (va % 2 ^ 48)
      w2 := BitVec.ofNat 64 (idx % 2 ^ 32)
      w3 := BitVec.ofNat 64 (f.ctr p) }

/-- The fault message of a job or a scalar access (R202). -/
def Fab.faultMsg (f : Fab) (job : Bool) (e : ElemId) (c : Ctx) (slot xc : Nat) (idxph : Bool) (run opc va idx : Nat) : Fab :=
  f.faultKind (if job then 1 else 2) e c slot xc idxph run opc va idx

end Sys2Proof.Machine
end

