-- ==== Sys2Proof/Machine/Tile.lean ====
section
/-! DEFINITION. Tiles: shapes, places, the tile table, free storage, spilling (spec 03_numbers R65, 07_tiles R164-R166, R171-R176,
14_containment R359). -/

namespace Sys2Proof.Machine

/-! ### Shapes (R65, R165) -/

/-- Bits of one element of a tile's element plane (R65); four vq elements share a byte. -/
def elemBits (t : Ty) : Nat := if isVq t then 2 else widthOf t

/-- A length padded to a multiple. -/
def padTo (k n : Nat) : Nat := (n + k - 1) / k * k

/-- Is the tile laid out as fibres? -/
def Tile.fibre (t : Tile) : Bool := t.lay == 3

/-- Length in bits of one item of the tile: 32 for a fib token. -/
def Tile.itemBits (t : Tile) : Nat := if t.fibre then 32 else elemBits t.fmt

/-- Length of the element plane, padded to 64 bytes. -/
def Tile.planeLen (t : Tile) : Nat := padTo 64 ((t.rows * t.cols * t.itemBits + 7) / 8)

/-- Length of the byte string of a tile (R165). -/
def Tile.byteLen (t : Tile) : Nat :=
  t.planeLen + (if isBlock t.fmt then t.rows * t.cols / blockOf t.fmt * scaleBytes t.fmt else 0)

/-- Index of the item at a row and column in the order of the layout. -/
def Tile.index (t : Tile) (r c : Nat) : Nat :=
  match t.lay with
  | 1 => c * t.rows + r
  | 2 => (r / 8 * (t.cols / 8) + c / 8) * 64 + r % 8 * 8 + c % 8
  | _ => r * t.cols + c

/-- Row and column of item n in the order of the layout. -/
def Tile.place (t : Tile) (n : Nat) : Nat × Nat :=
  match t.lay with
  | 1 => (n % max t.rows 1, n / max t.rows 1)
  | 2 => let b := max (t.cols / 8) 1; (n / 64 / b * 8 + n % 64 / 8, n / 64 % b * 8 + n % 8)
  | _ => (n / max t.cols 1, n % max t.cols 1)

/-- Number of the block that item n lies in, and its place in the block (R65). -/
def Tile.blockNo (t : Tile) (n : Nat) : Nat × Nat :=
  let m := blockOf t.fmt
  if t.lay = 2 then let (r, c) := t.place n; (r * (t.cols / m) + c / m, c % m) else (n / m, n % m)

/-- Bit place and width of the scale of the block of item n (R65). -/
def Tile.scaleAt (t : Tile) (n : Nat) : Nat × Nat :=
  let w := 8 * scaleBytes t.fmt
  (8 * t.planeLen + (t.blockNo n).1 * w, w)

/-- May a tile of this shape, format and layout exist (R165)? -/
def Tile.legal (t : Tile) : Bool :=
  let f := t.fmt
  let blk := if isVq f then 4 else blockOf f
  let contig := if t.lay = 1 then t.rows else t.cols
  !([Ty.untyped, .hdl, .ctl, .fib, .reserved].contains f) && (t.lay != 2 || (t.rows % 8 == 0 && t.cols % 8 == 0)) &&
    (t.lay != 3 || [Ty.bf16, .fp16, .i16, .n16].contains f) && (blk == 1 || contig % blk == 0)

/-- The 128 bits of an entry (R164). -/
def Tile.bits (t : Tile) : BitVec 128 :=
  BitVec.ofNat 128 (t.lvl * 2 ^ 126 + (if t.spl then 2 ^ 125 else 0) + t.lay * 2 ^ 123 + (tyCode t.fmt) * 2 ^ 118 +
    t.ctx.val * 2 ^ 116 + (t.rows - 1) * 2 ^ 104 + (t.cols - 1) * 2 ^ 92 + (if t.homeg then 2 ^ 80 else 0) +
    t.tscale.toNat * 2 ^ 48 +
    (match t.lvl with
      | 1 => t.loc + t.len * 2 ^ 9
      | 2 => t.loc + t.len * 2 ^ 14
      | _ => t.loc))
where
  /-- Type code of R61. -/
  tyCode (f : Ty) : Nat := f.ctorIdx

/-! ### The tile table (R164, R171) -/

/-- The tile that a handle names for a context; nothing for an invalid handle. -/
def Fab.tileOf (f : Fab) (e : ElemId) (c : Ctx) (h : Nat) : Option Tile :=
  if h = 0 then none
  else match mget h (f.elem e).tiles with
    | some t => if t.ctx = c then some t else none
    | none => none

/-- The handle that an operand names (R61). -/
def handleOf (v : W32) : Nat := v.toNat % 1024

/-- The fabric with an element's tile entry changed. -/
def Fab.modTile (f : Fab) (e : ElemId) (h : Nat) (g : Tile → Tile) : Fab :=
  f.modElem e fun x => { x with tiles := mmod h g x.tiles }

/-- A use of a handle by an instruction or engine on this tick (R172). -/
def Fab.useTile (f : Fab) (e : ElemId) (h : Nat) : Fab := f.modTile e h fun t => { t with lastUse := f.clock }

/-- Start of a tile's byte string in the flat space; for a tile at G, its virtual base (R166). -/
def Tile.base (t : Tile) (e : ElemId) : Nat :=
  match t.lvl with
  | 1 => elemBase e + 512 * t.loc
  | 2 => dieBase (dieOf e) + 4096 * t.loc
  | _ => t.loc

/-- Units of storage that a length needs at a level (R166). -/
def unitsAt (lvl len : Nat) : Nat := if lvl = 1 then (len + 511) / 512 else (len + 4095) / 4096

/-! ### Busy tiles (R172) -/

/-- Does a job still write a handle? -/
def Job.targets (j : Job) (h : Nat) : Bool := j.live && (j.st == .running || j.st == .stopped) && j.dst == some h

/-- Is a tile busy: the target of a job, read or written by a command of queue M, or bound to a cinch with pending bytes (R172,
R255)? -/
def Fab.tileBusy (f : Fab) (e : ElemId) (h : Nat) : Bool :=
  (f.elem e).sq.toList.any (·.targets h) || ((f.elem e).mq.any fun m => m.ha == h || m.hb == h) ||
    f.cinches.any fun (_, k) => decide (k.pend ≠ 0) && k.binds.contains (e, h)

/-- Has the element a scalar access to the handle in flight (R178)? -/
def Fab.inFlight (f : Fab) (e : ElemId) (h : Nat) : Bool :=
  (f.elem e).hold.any fun x => x.kind == .scalar && x.h == h

/-! ### Free storage (R166, R173, R175) -/

/-- Runs taken in an element's local memory: first segment and count. -/
def Elem.used (x : Elem) : List (Nat × Nat) :=
  x.tiles.filterMap fun (_, t) => if t.lvl = 1 then some (t.loc, t.len) else none

/-- Elements of a die that the state lists. -/
def Fab.dieElems (f : Fab) (d : Nat) : List (ElemId × Elem) := f.elems.filter fun (e, _) => dieOf e == d

/-- The tiles of an element, with those freed on this tick, whose storage is free from the next (R174). -/
def Elem.stored (x : Elem) (now : Nat) : List Tile := x.tiles.map (·.2) ++ (x.gone.filter fun p => p.1 == now).map (·.2)

/-- Runs taken in a die buffer: D tiles, tapes, reserved units at the top (R174, R297, R325, R359). -/
def Fab.dieUsed (f : Fab) (d : Nat) : List (Nat × Nat) :=
  ((f.dieElems d).flatMap fun (_, x) => (x.stored f.clock).filterMap fun t => if t.lvl = 2 then some (t.loc, t.len) else none) ++
    (f.tapes.filterMap fun (k, t) => if k / 16 = d ∧ t.lvl = 2 then some (t.loc, t.len) else none) ++
    (match mget d f.dieRes with
      | some n => [(16384 - n, n)]
      | none => [])

/-- Runs of the spill area taken in a partition: offset and length in bytes (R172). -/
def Fab.spillUsed (f : Fab) (p : Nat) : List (Nat × Nat) :=
  let base := ((mget p f.parts).getD {}).spill
  (f.elems.flatMap fun (e, x) => if f.partOfElem e = p then
      (x.stored f.clock).filterMap fun t => if t.lvl = 3 ∧ !t.homeg then some (t.loc - base, padTo 64 t.byteLen) else none
    else []) ++
    (f.tapes.filterMap fun (k, t) => if partOf f.pmode (k / 16) = p ∧ t.lvl = 3 then some (t.loc - base, 4096 * t.len) else none)

/-- May a run start here: inside the storage and free of every run taken? -/
def runFree (total : Nat) (used : List (Nat × Nat)) (need at_ : Nat) : Bool :=
  decide (at_ + need ≤ total) && used.all fun (s, n) => decide (at_ + need ≤ s ∨ s + n ≤ at_)

/-- The lowest first-fit run: it starts at 0 or at the end of a run taken. -/
def firstFit (total : Nat) (used : List (Nat × Nat)) (need : Nat) : Option Nat :=
  ((0 :: used.map fun (s, n) => s + n).filter (runFree total used need)).min?

/-- Length of the free run that starts at a place. -/
def runLen (total : Nat) (used : List (Nat × Nat)) (at_ : Nat) : Nat :=
  if used.any fun (s, n) => decide (s ≤ at_ ∧ at_ < s + n) then 0
  else ((total :: (used.filterMap fun (s, _) => if at_ ≤ s then some s else none)).min?.getD total) - at_

/-- The longest free run. -/
def longestRun (total : Nat) (used : List (Nat × Nat)) : Nat :=
  ((0 :: used.map fun (s, n) => s + n).map (runLen total used)).max?.getD 0

/-- Free storage in total. -/
def freeUnits (total : Nat) (used : List (Nat × Nat)) : Nat := total - (used.map (·.2)).foldl (· + ·) 0

/-- Total storage and runs taken at a level, in the units of that level; the spill area in bytes. -/
def Fab.storage (f : Fab) (e : ElemId) (lvl : Nat) : Nat × List (Nat × Nat) :=
  match lvl with
  | 1 => (384, (f.elem e).used)
  | 2 => (16384, f.dieUsed (dieOf e))
  | _ => let p := f.partOfElem e; (((mget p f.parts).getD {}).spillLen, f.spillUsed p)

/-- Length of a tile in the storage units of a level. -/
def Tile.need (t : Tile) (lvl : Nat) : Nat := if lvl = 3 then padTo 64 t.byteLen else unitsAt lvl t.byteLen

/-! ### Moving words (R166, R172) -/

/-- The place of byte k of a tile at any level; a G tile's is translated, nothing where that faults. -/
def Fab.tilePlace (f : Fab) (e : ElemId) (t : Tile) (k : GKind) (off : Nat) : Except Nat Nat × Fab :=
  if t.lvl = 3 then f.elemTranslate e k (t.loc + off) else (.ok (t.base e + off), f)

/-- One word of a tile moved with its F and poison bits, its error corrected or turned into poison as it is read; a word whose translation
faults stays (R167, R172). -/
def Fab.moveWord (f : Fab) (e : ElemId) (src dst : Tile) (off : Nat) : Fab :=
  match f.tilePlace e src .read off with
  | (.ok a, f) =>
    match f.tilePlace e dst .write off with
    | (.ok b, f) =>
      let f := f.fixBit a
      ((f.putBytes b (f.bytes a 8)).setTag b (f.tag a % 2 + (if f.poisoned a then 2 else 0))).spliced b
    | (.error _, f) => f
  | (.error _, f) => f

/-- A tile moved to a level at a place found free. -/
def Fab.moveTile (f : Fab) (e : ElemId) (h : Nat) (lvl at_ : Nat) : Fab :=
  match mget h (f.elem e).tiles with
  | none => f
  | some t =>
    let base := if lvl = 3 then ((mget (f.partOfElem e) f.parts).getD {}).spill else 0
    let t' := { t with lvl := lvl, loc := base + at_, len := if lvl = 3 then 0 else t.need lvl }
    let f := (List.range (padTo 8 t.byteLen / 8)).foldl (fun f i => f.moveWord e t t' (8 * i)) f
    f.modElem e fun x => { x with tiles := mput h t' x.tiles }

/-- The place of a byte of a tape's storage; nothing where the translation of its spill area faults (R297). -/
def Fab.tapePlace (f : Fab) (key off : Nat) : Option Nat :=
  match mget key f.tapes with
  | none => none
  | some t =>
    if t.lvl = 2 then some (dieBase (key / 16) + 4096 * t.loc + off)
    else
      let p := partOf f.pmode (key / 16)
      match (f.translate (some p) ((mget p f.parts).getD {}).safety .read (t.loc + off)).1 with
      | .ok a => some a
      | .error _ => none

/-- A tape as a spillable tile of the eviction (R172, R297): its handle lies above every tile's, its element is the first of the die. -/
def Tape.asTile (t : Tape) : Tile := { lvl := t.lvl, spl := true, fmt := .i8, rows := 4096, cols := t.len, loc := t.loc, len := t.len, lastUse := t.lastUse }
def tapeElem (key : Nat) : ElemId := fieldNo (20 * (key / 16 % 3)) (16 * (key / 48))
def tapeHandle (key : Nat) : Nat := 4096 + key

/-- A tape moved to G at a place found free in the spill area. -/
def Fab.moveTape (f : Fab) (key at_ : Nat) : Fab :=
  match mget key f.tapes with
  | none => f
  | some t =>
    let base := ((mget (partOf f.pmode (key / 16)) f.parts).getD {}).spill
    let g : Fab := { f with tapes := mput key { t with lvl := 3, loc := base + at_ } f.tapes }
    (List.range (512 * t.len)).foldl (fun g i =>
      match f.tapePlace key (8 * i), g.tapePlace key (8 * i) with
      | some a, some b => g.putBytes b (f.bytes a 8)
      | _, _ => g) g

/-- Ticks of a move between neighbouring levels (R173); a move at G is given the rate of one line a tick (log 12). -/
def moveTicks (len : Nat) : Nat := 16 + (len + 63) / 64

/-! ### Eviction (R172) -/

/-- Candidates of an eviction at a level, in ranking order: last use, element, handle. -/
def Fab.candidatesAt (f : Fab) (e : ElemId) (lvl : Nat) : List (ElemId × Nat × Tile) :=
  let pool := if lvl = 1 then [(e, f.elem e)] else f.dieElems (dieOf e)
  let cs := pool.flatMap fun (x, el) => el.tiles.filterMap fun (h, t) =>
    if t.lvl = lvl ∧ t.spl ∧ !f.tileBusy x h then some (x, h, t) else none
  let ts := if lvl = 2 then f.tapes.filterMap fun (k, t) =>
      if k / 16 = dieOf e ∧ t.lvl = 2 ∧ !t.openRec ∧ !t.replayed then some (tapeElem k, tapeHandle k, t.asTile) else none
    else []
  (cs ++ ts).mergeSort fun a b => decide (a.2.2.lastUse < b.2.2.lastUse ∨ (a.2.2.lastUse = b.2.2.lastUse ∧
    (a.1 < b.1 ∨ (a.1 = b.1 ∧ a.2.1 ≤ b.2.1))))

/-- The fabric with victims moved one level down in order, and the ticks this takes; nothing where one does not fit. -/
def Fab.evictAll (f : Fab) (lvl : Nat) : List (ElemId × Nat × Tile) → Option (Fab × Nat)
  | [] => some (f, 0)
  | (x, h, t) :: vs =>
    let (total, used) := f.storage x (lvl + 1)
    match firstFit total used (t.need (lvl + 1)) with
    | none => none
    | some at_ =>
      match (if 4096 ≤ h then f.moveTape (h - 4096) at_ else f.moveTile x h (lvl + 1) at_).evictAll lvl vs with
      | some (f, n) => some (f, n + moveTicks t.byteLen)
      | none => none

/-- The shortest prefix of the ranking whose removal leaves a run of the length needed. -/
def Fab.prefixFor (f : Fab) (e : ElemId) (lvl need : Nat) : Option (List (ElemId × Nat × Tile)) :=
  let cs := f.candidatesAt e lvl
  let (total, used) := f.storage e lvl
  (List.range cs.length).findSome? fun k =>
    let vs := cs.take (k + 1)
    let used' := used.filter fun u => !(vs.any fun (_, _, t) => decide (t.loc = u.1 ∧ t.len = u.2))
    if (firstFit total used' need).isSome then some vs else none

/-- Does a move that makes room wait for an access in flight to one of its victims (R178)? -/
def Fab.roomWaits (f : Fab) (e : ElemId) (lvl need : Nat) : Bool :=
  let (total, used) := f.storage e lvl
  (firstFit total used need).isNone && ((f.prefixFor e lvl need).getD []).any fun (x, h, _) => f.inFlight x h

/-- Room for a run at a level: its place in the fabric as it then is, with the ticks of the moves made for it. -/
def Fab.makeRoom (f : Fab) (e : ElemId) (lvl need : Nat) : Option (Nat × Fab × Nat) :=
  let (total, used) := f.storage e lvl
  match firstFit total used need with
  | some a => some (a, f, 0)
  | none =>
    match f.prefixFor e lvl need with
    | none => none
    | some vs =>
      match f.evictAll lvl vs with
      | none => none
      | some (f, n) =>
        let (total, used) := f.storage e lvl
        (firstFit total used need).map fun a => (a, f, n)

/-! ### The E log of a cut (R359) -/

/-- The first write to an E word of a tile owned by a slot after a cut copies the word's old value into the log of the cut's half. -/
def Fab.elog (f : Fab) (e : ElemId) (c : Ctx) (a : Nat) : Fab :=
  if a < 2 ^ 41 ∨ 2 ^ 42 ≤ a then f
  else
    let s := f.slot e c
    match s.run with
    | none => f
    | some (r, k) =>
      let cp := (f.run r).copy k
      match cp.cutOpen.or cp.cutDone with
      | none => f
      | some (n, _) =>
        let half := n.toNat % 2
        let w := (a - elemBase e) / 8
        match s.snap[half]? with
        | none => f
        | some h =>
          if h.st = 0 ∨ h.st = 3 ∨ h.elog.any (·.1 == w) then f
          else if 2880 ≤ h.elog.length then
            (f.modSlot e c fun s => { s with snap := lset s.snap half { h with st := 3 } }).modRun r fun x => x.modCopy k fun cp =>
              { cp with cutDone := cp.cutDone.filter fun d => d.1 != n }
          else
            let h := { h with elog := h.elog ++ [(w, BitVec.ofNat 64 (f.load (a / 8 * 8) 8), f.full a, f.tag a / 2 % 2 == 1)] }
            f.modSlot e c fun s => { s with snap := lset s.snap half h }

/-- Bytes written to a tile's place by a context's row or job. -/
def Fab.tilePut (f : Fab) (e : ElemId) (c : Ctx) (a : Nat) (bs : List Byte) : Fab := (f.elog e c a).putBytes a bs
/-- F and poison of a tile's word changed by a context's row or job. -/
def Fab.tileFull (f : Fab) (e : ElemId) (c : Ctx) (a : Nat) (b : Bool) : Fab := (f.elog e c a).putFull a b
def Fab.tilePoison (f : Fab) (e : ElemId) (c : Ctx) (a : Nat) (b : Bool) : Fab := (f.elog e c a).putPoison a b

/-- The engine that reads or writes a word of a job sees its poison bit; an uncorrectable error counts as poison (R167). -/
def Fab.wordPoison (f : Fab) (a : Nat) : Bool := f.poisoned a

end Sys2Proof.Machine
end

