-- ==== Sys2Proof/Machine/Access.lean ====
section
/-! DEFINITION. Alias-class chains, and scalar accesses of tiles, windows and atomics: issue, performance, waiting, completion (spec
02_encoding R41, 07_tiles R177, R178, R385, 08_global R191, R192, 09_ordering R220-R230). -/

namespace Sys2Proof.Machine

/-! ### Alias-class chains (R41, R223-R225) -/

/-- Fields of a wave entry (R41). -/
def waveClass (w : W32) : Nat := bits w.toNat 26 6
def waveOwn (w : W32) : Nat := bits w.toNat 18 8
def wavePred (w : W32) : Nat := bits w.toNat 10 8
def waveSucc (w : W32) : Nat := bits w.toNat 2 8
def waveKind (w : W32) : Nat := w.toNat % 4
/-- Is the entry one of a write or an atomic? -/
def waveWrites (w : W32) : Bool := 2 ≤ waveKind w

/-- Must an access under entry a be performed before one under entry b of the same class and frame (R223)? -/
def wavePrecedes (a b : W32) : Bool :=
  (waveWrites a && decide (waveOwn a < waveOwn b) && (waveWrites b || wavePred b == 0xFF)) ||
  (wavePred b != 0xFF && wavePred b == waveOwn a) ||
  (waveSucc a != 0xFF && waveSucc a == waveOwn b) ||
  (waveSucc a == 0xFF && waveWrites b && decide (waveOwn a < waveOwn b))

/-- The wave entries that a parameter block names, by op word (R179, R195, R211, R240, R253, R258, R259, R275-R294). -/
def blockWaves (op : BitVec 24) (b : BitVec 256) : List Nat :=
  let w (k lo : Nat) : Nat := bits (pword b k) lo 4
  let sub := (fld op 0 4).toNat
  match (fld op 16 8).toNat with
  | 0x7A => [w 3 0, w 3 4]
  | 0x7B => [w 3 4]
  | 0x84 | 0x85 | 0x86 | 0x87 => [w 1 22, w 1 26]
  | 0x96 => [w 3 0, w 3 4]
  | 0x98 => [w 3 16]
  | 0xA0 | 0xA1 | 0xA2 | 0xA3 => [w 4 16, w 4 20]
  | 0xA4 => if sub = 0 then [w 4 16] else []
  | 0xA5 => [w 4 9]
  | 0xB0 => if sub = 1 then [w 1 0] else []
  | 0xB1 | 0xB2 | 0xBB | 0xBF => [w 1 0]
  | 0xB6 | 0xB7 | 0xBE => [w 3 0, w 3 4]
  | 0xB8 => [w 4 0, w 4 4]
  | 0xB4 | 0xB5 => [w 4 12, w 4 16]
  | 0xB9 => [w 4 14, w 4 18]
  | _ => []

/-- The port whose pattern register a row uses: 0 P0, 1 P1, 2 W (R268). -/
def patOf (op : BitVec 24) : Option (Fin 3) :=
  match (fld op 16 8).toNat with
  | 0xB0 => some (if (fld op 4 2).toNat = 0 then 0 else 1)
  | 0xB1 | 0xBF => some 2
  | _ => none

/-- The wave entry of a pattern (R270). -/
def patWave (b : BitVec 256) : Nat := bits (pword b 7) 14 4

/-- The wave entries of a job: its block's and its pattern's. -/
def Job.waves (j : Job) : List Nat :=
  blockWaves j.op j.pb ++ (if (patOf j.op).isSome then [patWave j.pat.2] else [])

/-- The wave entries that a row names: its own field, its parameter block's, its port's pattern's as it stands, or for MSHP those of the
commands that it may ship (R224). -/
def rowWaves (s : Slot) (op : BitVec 24) : List Nat :=
  let sh := s.share.getD {}
  List.eraseDups <| match formOf (fld op 16 8).toNat with
  | .om => [(fld op 12 4).toNat]
  | .ox => if fld op 16 8 = 0xA9 then sh.ship.map (· % 16) else blockWaves op ((mget (fld op 10 6).toNat sh.params).getD 0) ++
      (match patOf op with
        | some k => [patWave (s.pats.get k).2]
        | none => [])
  | _ => []

/-- The wave entries that a ring word may name, an ARMX word through either arm. -/
def ringWaves (s : Slot) (op : BitVec 24) : List Nat :=
  if (fld op 16 8).toNat = 0x6D then
    let k := (fld op 0 3).toNat
    [2 * k, 2 * k + 1].flatMap fun i => rowWaves s (((s.share.getD {}).arms.getD i 0).extractLsb' 32 24)
  else rowWaves s op

/-- How often the rows of one frame can name an entry on an element. -/
def Slot.waveUses (s : Slot) (q : Nat) : Nat :=
  let sh := s.share.getD {}
  ((List.range sh.ii).map fun i => (((ringWaves s (sh.op.getD (i % max sh.op.length 1) 0)).filter (· == q)).length)).foldl (· + ·) 0

/-- Key of the accesses performed under an entry by an element in a frame. -/
def perfKey (frame : Nat) (e : ElemId) (q : Nat) : Nat := (frame * 2048 + e) * 16 + q

/-- Has the element, in a frame that a test accepts, a job or matrix command of the context that is admitted under an entry and not ended,
or a scalar access under it that is not yet performed? -/
def Elem.jobUnder (x : Elem) (c : Ctx) (q : Nat) (frame : Nat → Bool) : Bool :=
  (x.sq.toList.any fun j => j.live && (j.st == .running || j.st == .stopped) && j.c == c && frame j.frame &&
    j.waves.contains q) ||
  (x.mq.any fun m => m.c == c && frame m.frame && (blockWaves m.op m.pb).contains q) ||
  (x.hold.any fun h => h.kind == .scalar && h.c == c && frame h.frame && fld h.op 12 4 == BitVec.ofNat 4 q)

/-- Frames whose rows have ended at an element of a copy (R224). -/
def Copy.ended (k : Copy) (sh : Share) : Nat := k.g / max sh.ii 1 - sh.stage

/-- Has every access under an entry at an element in a frame been performed or skipped? In a run torn down, what no row has issued is skipped
(R332). -/
def Fab.settled (f : Fab) (torn : Bool) (k : Copy) (c : Ctx) (x : ElemId) (q frame : Nat) : Bool :=
  let sh := (f.slot x c).share.getD {}
  let uses := (f.slot x c).waveUses q
  uses == 0 || decide (uses ≤ (mget (perfKey frame x q) k.perf).getD 0) ||
    ((torn || decide (frame < k.ended sh)) && !(f.elem x).jobUnder c q (· == frame))

/-- May an access of an element under entry q be performed: every access that must precede it in its frame, and every access of its
class in earlier frames, is performed or skipped (R223, R225)? -/
def Fab.chainOk (f : Fab) (e : ElemId) (c : Ctx) (run copy frame q : Nat) : Bool :=
  if q = 0 then true
  else
    let k := (f.run run).copy copy
    let torn := (f.run run).torn != .no
    let wave := ((f.slot e c).share.getD {}).wave
    let w := wave.getD q 0
    k.elems.all fun x =>
      (List.range 16).all fun p =>
        let v := wave.getD p 0
        p == 0 || waveKind v == 0 || waveClass v != waveClass w ||
          (let sh := (f.slot x c).share.getD {}
           let lo := k.ended sh
           (!wavePrecedes v w || f.settled torn k c x p frame) &&
             ((List.range (frame - lo)).all fun i => f.settled torn k c x p (lo + i)) &&
             !(f.elem x).jobUnder c p (fun n => decide (n < frame)))

/-- An access under an entry counted as performed; counts of frames long ended are dropped. -/
def Fab.perform (f : Fab) (e : ElemId) (run copy frame q : Nat) : Fab :=
  if q = 0 then f
  else f.modRun run fun r => r.modCopy copy fun k =>
    let key := perfKey frame e q
    { k with perf := (mput key ((mget key k.perf).getD 0 + 1) k.perf).filter fun x => decide (perfKey (frame - 64) 0 0 ≤ x.1) }

/-! ### Scalar accesses (R177, R178, R191, R229) -/

/-- Kinds of scalar access by opcode. -/
def isStore (opc : Nat) : Bool := opc == 0x74 || opc == 0x76 || opc == 0x78 || opc == 0x81 || opc == 0x83
def isAtomic (opc : Nat) : Bool := 0x8B ≤ opc && opc ≤ 0x92
def isWindow (opc : Nat) : Bool := 0x80 ≤ opc && opc ≤ 0x92
def waitsFull (opc : Nat) : Bool := opc == 0x75 || opc == 0x77 || opc == 0x82
def waitsEmpty (opc : Nat) : Bool := opc == 0x76 || opc == 0x83
/-- Does the instruction write memory or change F or poison (R385)? -/
def changesMem (opc : Nat) : Bool := isStore opc || opc == 0x77 || isAtomic opc

/-- What the access does to its word for translation (R188). -/
def accessKind (opc : Nat) : GKind :=
  if opc = 0x75 ∨ opc = 0x82 then .acq
  else if isAtomic opc || waitsFull opc || waitsEmpty opc then .sync
  else if isStore opc then .write else .read

/-- Item size in bytes. -/
def Row.itemSize (r : Row) : Nat := 2 ^ r.size

/-- The handle operand: rd for stores, A otherwise. -/
def Row.handleTV (r : Row) : TV := if isStore r.opc then r.d else r.a

/-- The address operands in the order A, B, rd (R385). -/
def Row.addressOperands (r : Row) : List TV := if isStore r.opc then [r.b, r.d] else [r.a, r.b]

/-- Place of an item: the tile with the item's offset or virtual address; nothing for an invalid handle or an item outside the tile
(R171, R177, R191). -/
def Row.item (r : Row) : Option (Tile × Nat) :=
  let i := r.b.v.toNat + r.imm7
  match r.f.tileOf r.e r.c (handleOf r.handleTV.v) with
  | none => none
  | some t =>
    if isWindow r.opc then if t.lvl = 3 ∧ t.homeg then some (t, i * r.itemSize) else none
    else if i * r.itemSize + r.itemSize ≤ t.byteLen then some (t, i * r.itemSize) else none

/-- The operand v of an atomic: rd, or the pair at rd (R229). -/
def Row.atomV (r : Row) : TV :=
  if r.size = 3 then pair r.wr.reg.rd else r.d
where
  /-- A pair's two poison bits joined; the values are read at performance. -/
  pair (k : BitVec 5) : TV := let lo := r.reg k; let hi := r.reg (k + 1); if lo.p then lo else if hi.p then hi else lo

/-- Registers of an atomic as 32- or 64-bit numbers: v, then the compare value of ACAS (R229). -/
def Row.atomOperands (r : Row) : List TV :=
  let k := r.wr.reg.rd
  if r.size = 3 then
    let ks := if r.opc = 0x91 then [k, k + 1, k + 2, k + 3] else [k, k + 1]
    ks.map r.reg
  else if r.opc = 0x91 then [r.reg k, r.reg (k ^^^ 1)] else [r.reg k]

/-- A number from the registers of a pair, low half first. -/
def pairOf : List TV → Nat
  | [] => 0
  | t :: ts => t.v.toNat + 2 ^ 32 * pairOf ts

/-- New value of an atomic and the flags of AFADD: old and v as numbers of n bits (R230). -/
def atomNew (opc n : Nat) (unsigned : Bool) (old v c : Nat) : Nat × W32 :=
  let o := BitVec.ofNat n old
  let w := BitVec.ofNat n v
  let lt := if unsigned then decide (w.toNat < o.toNat) else decide (w.toInt < o.toInt)
  match opc with
  | 0x8B => ((o + w).toNat, 0)
  | 0x8C => (if lt then v else old, 0)
  | 0x8D => (if lt then old else v, 0)
  | 0x8E => ((o &&& w).toNat, 0)
  | 0x8F => ((o ||| w).toNat, 0)
  | 0x90 => (v, 0)
  | 0x91 => (if old = c then v else old, 0)
  | _ =>
    let a := Fmt.fp32.value old
    let b := Fmt.fp32.value v
    let (s, nv) := Num.add false a b
    let (code, fl) := Fmt.fp32.round .rne false 0 s
    (code, ({ fl with nv := fl.nv || nv || a.isSig || b.isSig } : Flags).toEsr)

/-- Ticks from issue to the end of an access by level: none at E, 16 at D, transit and lookup at G, 4 more for an atomic (R177, R191,
R230). -/
def accessTicks (lvl opc : Nat) : Nat :=
  match lvl with
  | 1 => 0
  | 2 => 16
  | _ => if isAtomic opc then 48 else 44

/-- The row behind a hold, on a fabric. -/
def Hold.row (h : Hold) (f : Fab) (e : ElemId) : Row := ⟨{ f with armP := h.armP }, e, h.c, h.op, h.wr⟩

/-- An item extended to 32 bits (R178). -/
def extItem (size : Nat) (sx : Bool) (v : Nat) : W32 :=
  let x := BitVec.ofNat 32 v
  match size, sx with
  | 0, true => (x.setWidth 8).signExtend 32
  | 1, true => (x.setWidth 16).signExtend 32
  | _, _ => x

/-- Is the word in the state that the access waits for? -/
def Fab.wordReady (f : Fab) (opc loc : Nat) : Bool :=
  (!waitsFull opc || f.full loc) && (!waitsEmpty opc || !f.full loc)

/-- What a performed access delivers: a value for the destinations, a pair for two registers, or nothing; and ESR bits. -/
structure Got where
  tv : Option TV := none
  hi : Option TV := none
  esr : W32 := 0

/-- A scalar access performed at its place (R178, R230); STT and GST of a regeneration write nothing (R306). The run's first store of poison
is a poison-consumed event (R355). -/
def Fab.performAt (f : Fab) (e : ElemId) (h : Hold) : Got × Fab :=
  let r := h.row f e
  let opc := r.opc
  let loc := h.loc
  let s := r.itemSize
  let f := f.fixWord e h.c h.run loc
  let pois := f.poisoned loc
  let uncorr : TV := ⟨poisonOf causeUncorr e, true, r.resTy .i32⟩
  let load : TV := if pois then uncorr else ⟨extItem r.size r.sx (f.load loc s), false, r.resTy .i32⟩
  let store (f : Fab) : Fab :=
    let f := f.tilePut e h.c loc ((leBytes 4 h.a.v.toNat).take s)
    let f := if h.a.p || f.tag loc / 4 % 2 = 1 then f.tilePoison e h.c loc true else f
    f.rewritten loc
  let f := if isStore opc && opc != 0x78 && h.a.p && (f.run h.run).regen.isNone && !(f.run h.run).stored then
      (f.modRun h.run fun x => { x with stored := true }).poisonConsumedAt h.g h.frame e h.c (causeOf h.a.v) h.a.v
    else f
  if opc = 0x73 ∨ opc = 0x75 ∨ opc = 0x80 ∨ opc = 0x82 then ({ tv := some load }, if h.isG then f.spliced loc else f)
  else if opc = 0x77 then ({ tv := some load }, f.tileFull e h.c loc false)
  else if opc = 0x74 ∨ opc = 0x81 then ({}, if (f.run h.run).regen.isSome then f else store f)
  else if opc = 0x76 ∨ opc = 0x83 then ({}, (store f).tileFull e h.c loc true)
  else if opc = 0x78 then
    let f := f.tileFull e h.c loc (h.a.v.getLsbD 0)
    ({}, if h.a.v.getLsbD 1 then f.tilePoison e h.c loc false else f)
  else if opc = 0x79 then
    ({ tv := some ⟨bit 32 (f.full loc) ||| (bit 32 pois <<< 1), false, r.resTy .n32⟩ }, f)
  else if pois then ({ tv := some uncorr }, f)
  else
    let n := 8 * s
    let half := if s = 8 then 2 else 1
    let ops := r.atomOperands
    let old := f.load loc s
    let (new, esr) := atomNew opc n (r.sh.regType r.wr.reg.rd = .n32) old (pairOf (ops.take half)) (pairOf (ops.drop half))
    let f := f.tilePut e h.c loc (leBytes s new)
    ({ tv := some ⟨BitVec.ofNat 32 old, false, r.resTy (r.sh.regType r.wr.reg.rd)⟩
       hi := if s = 8 then some ⟨BitVec.ofNat 32 (old / 2 ^ 32), false, .untyped⟩ else none, esr := esr }, f)

/-- The push of a row of queue C that retires, with the row counter at its issue as snapshot (R169). -/
def Row.retireAt (r : Row) (g : Nat) (f : Fab) : Fab :=
  match r.pushFifo with
  | some k => f.modSlot r.e r.c (slotPush k f.clock (BitVec.ofNat 16 g))
  | none => f
/-- The push of a row that retires as it issues. -/
def Row.retireC (r : Row) (f : Fab) : Fab := r.retireAt r.g f

/-- The second register of a 64-bit atomic: the high half, or the poison that the first one takes (R229, R385). -/
def Row.pairHi (r : Row) (t : TV) (hi : Option TV) (f : Fab) : Fab :=
  if isAtomic r.opc && r.size == 3 && r.wr.reg.we then f.modSlot r.e r.c (writeReg r.sh (r.wr.reg.rd + 1) (r.armed (hi.getD t))) else f

/-- What an access delivers, on the tick it completes: destinations, a second register of a pair, FB, ESR, the push (R177, R229). -/
def Hold.deliver (h : Hold) (e : ElemId) (g : Got) (f : Fab) : Fab :=
  let r := h.row f e
  let f := match g.tv with
    | some t => r.pairHi t g.hi (r.finish f t g.esr (f.slot e h.c).emr)
    | none => f
  r.retireAt h.g f

/-- The row that a poisoned or faulting access ends as: a result for the destinations where it has one (R171, R385). -/
def Row.endWith (r : Row) (t : TV) (f : Fab) : Fab := r.retireC (r.pairHi t none (r.finish f t 0 r.sl.emr))

/-- A row whose address operand is poison (R385): its payload to every destination of a row that has a result, a poison-consumed event
where the row would change memory, its push at once with snapshot 0xFFFF. -/
def Row.addrPoison (r : Row) (changes : Bool) (p : TV) (f : Fab) : Fab :=
  let t : TV := ⟨p.v, true, r.resTy .i32⟩
  let f := if r.sig.res = .no then f else r.pairHi t none (r.finish f t 0 r.sl.emr)
  let f := if changes then f.poisonConsumed r.e r.c (causeOf p.v) p.v else f
  match r.pushFifo with
  | some k => f.modSlot r.e r.c (slotPush k f.clock 0xFFFF)
  | none => f

/-- The hold that an access of the row is. -/
def Row.access (r : Row) : Hold :=
  { kind := .scalar, c := r.c, run := r.runId, copy := r.copyNo, frame := (r.f.rowOf r.e r.c).2, g := r.g, op := r.op, wr := r.wr, armP := r.f.armP
    a := r.a, b := r.b, d := r.d, h := handleOf r.handleTV.v }

/-- The element held until a tick. -/
def Fab.hold (f : Fab) (e : ElemId) (h : Hold) (due : Nat) : Fab :=
  (f.modElem e fun x => { x with hold := some { h with due := due } })

/-- The wave entry of an access. -/
def Hold.wave (h : Hold) : Nat := (fld h.op 12 4).toNat

/-- May the access be performed now: the chain allows it and the word is in the state it waits for? -/
def Fab.mayPerform (f : Fab) (e : ElemId) (h : Hold) : Bool :=
  f.chainOk e h.c h.run h.copy h.frame h.wave && f.wordReady (fld h.op 16 8).toNat h.loc

/-- A scalar access that issues (R177, R178, R191, R385). -/
def Row.scalar (r : Row) : Fab :=
  let f := r.taken
  match firstPoison r.addressOperands with
  | some p => r.addrPoison (changesMem r.opc) p f
  | none =>
    match firstPoison (if isAtomic r.opc then r.atomOperands else if r.opc = 0x78 then [r.a] else []) with
    | some p =>
      if r.opc = 0x78 then r.retireC (f.poisonConsumed r.e r.c (causeOf p.v) p.v)
      else r.endWith ⟨p.v, true, r.resTy .i32⟩ f
    | none =>
      match r.item with
      | none =>
        if isStore r.opc then r.retireC f else r.endWith ⟨poisonOf causeElemfault r.e, true, r.resTy .i32⟩ f
      | some (t, off) =>
        let f := f.useTile r.e (handleOf r.handleTV.v)
        let h := { r.access with isG := t.lvl == 3, va := t.loc + off, loc := t.base r.e + off, placed := t.lvl != 3 }
        if t.lvl = 1 then
          if f.mayPerform r.e h then
            let (g, f) := f.performAt r.e h
            h.deliver r.e g (f.perform r.e h.run h.copy h.frame h.wave)
          else f.hold r.e { h with parked := true } r.now
        else
          let due := r.now + accessTicks t.lvl r.opc
          (f.hold r.e h due).at due 0 (.scalarAccessCompletion r.e)

/-- The element free of its hold; its next row issues at the earliest on the tick after an access, or a move of tiles, has completed (R173,
R177). -/
def Fab.unhold (f : Fab) (e : ElemId) : Fab :=
  f.modElem e fun x =>
    { x with
      hold := none
      free := if x.hold.any fun h => h.kind == .scalar || h.kind == .tile then f.clock + 1 else x.free }

/-- Accesses parked at the atomics unit of a memory die: those that wait for a word's state; one that its chain holds is not sent (R191,
R223). -/
def Fab.parkedAt (f : Fab) (die : Nat) : Nat :=
  (f.elems.filter fun (e, x) => match x.hold with
    | some h => h.parked && h.isG && h.va / 2 ^ 11 % 2 == die && f.chainOk e h.c h.run h.copy h.frame h.wave
    | none => false).length

/-- The access of a hold tried at its place: performed and delivered, or kept for a later test. One whose wait has ended completes after the
latency of its level, and its word is tested and changed then (R177, R178, R191). -/
def Fab.tryAccess (f : Fab) (e : ElemId) (h : Hold) (lvl : Nat) : Fab :=
  let opc := (fld h.op 16 8).toNat
  if f.mayPerform e h then
    let t := f.clock + accessTicks lvl opc
    if h.parked ∧ f.clock < t then (f.hold e { h with parked := false } t).at t 0 (.scalarAccessCompletion e)
    else
      let (g, f) := (f.useTile e h.h).performAt e h
      h.deliver e g ((f.unhold e).perform e h.run h.copy h.frame h.wave)
  else if h.parked then f
  else if lvl = 3 ∧ f.chainOk e h.c h.run h.copy h.frame h.wave ∧ 256 ≤ f.parkedAt (h.va / 2 ^ 11 % 2) then
    (f.hold e h (f.clock + 64)).at (f.clock + 64) 0 (.scalarAccessCompletion e)
  else f.hold e { h with parked := true } f.clock

/-- The level at which an access acts, by its place. -/
def Hold.level (h : Hold) : Nat := if h.isG then 3 else if h.loc < 2 ^ 41 then 2 else 1

/-- SCALAR_ACCESS_COMPLETION: the access is translated where it lies at G, a fault ending it (R192), and tried. -/
def Fab.completeAccess (f : Fab) (e : ElemId) : Fab :=
  match (f.elem e).hold with
  | none => f
  | some h =>
    if h.kind ≠ .scalar then f
    else if h.placed then f.tryAccess e h h.level
    else
      let r := h.row f e
      match f.elemTranslate e (accessKind r.opc) h.va with
      | (.ok a, f) => f.tryAccess e { h with loc := a, placed := true } 3
      | (.error xc, f) =>
        let f := (f.faultMsg false e h.c 0 xc false h.run r.opc h.va 0).perform e h.run h.copy h.frame h.wave
        let f := f.unhold e
        if isStore r.opc then r.retireAt h.g f else h.deliver e { tv := some ⟨poisonOf causeElemfault e, true, r.resTy .i32⟩ } f

/-! ### The instructions -/

/-- A scalar access row. -/
def omRow (op : BitVec 24) (wr : Wires) : State → Host.Outcome State Fault Refusal :=
  lift fun f => let r := f.rowCtx op wr; r.issue r.planDefault r.scalar

/-- LDT (R178). -/
def execLdt (w : BitVec 4) (z : BitVec 2) (x : BitVec 1) (t : BitVec 1) (p : BitVec 1) (i : BitVec 7) (wr : Wires) (s : State) : Host.Outcome State Fault Refusal :=
  omRow (opWord (.ldt w z x t p i wr)) wr s

/-- STT (R178). -/
def execStt (w : BitVec 4) (z : BitVec 2) (t : BitVec 1) (p : BitVec 1) (i : BitVec 7) (wr : Wires) (s : State) : Host.Outcome State Fault Refusal :=
  omRow (opWord (.stt w z t p i wr)) wr s

/-- LDTS (R178). -/
def execLdts (w : BitVec 4) (z : BitVec 2) (x : BitVec 1) (t : BitVec 1) (p : BitVec 1) (i : BitVec 7) (wr : Wires) (s : State) : Host.Outcome State Fault Refusal :=
  omRow (opWord (.ldts w z x t p i wr)) wr s

/-- STTF (R178). -/
def execSttf (w : BitVec 4) (z : BitVec 2) (t : BitVec 1) (p : BitVec 1) (i : BitVec 7) (wr : Wires) (s : State) : Host.Outcome State Fault Refusal :=
  omRow (opWord (.sttf w z t p i wr)) wr s

/-- LDTE (R178). -/
def execLdte (w : BitVec 4) (z : BitVec 2) (x : BitVec 1) (t : BitVec 1) (p : BitVec 1) (i : BitVec 7) (wr : Wires) (s : State) : Host.Outcome State Fault Refusal :=
  omRow (opWord (.ldte w z x t p i wr)) wr s

/-- FESET (R178). -/
def execFeset (w : BitVec 4) (z : BitVec 2) (t : BitVec 1) (p : BitVec 1) (i : BitVec 7) (wr : Wires) (s : State) : Host.Outcome State Fault Refusal :=
  omRow (opWord (.feset w z t p i wr)) wr s

/-- FEQ (R178). -/
def execFeq (w : BitVec 4) (z : BitVec 2) (t : BitVec 1) (p : BitVec 1) (i : BitVec 7) (wr : Wires) (s : State) : Host.Outcome State Fault Refusal :=
  omRow (opWord (.feq w z t p i wr)) wr s

/-- GLD (R191). -/
def execGld (w : BitVec 4) (z : BitVec 2) (x : BitVec 1) (t : BitVec 1) (p : BitVec 1) (i : BitVec 7) (wr : Wires) (s : State) : Host.Outcome State Fault Refusal :=
  omRow (opWord (.gld w z x t p i wr)) wr s

/-- GST (R191). -/
def execGst (w : BitVec 4) (z : BitVec 2) (t : BitVec 1) (p : BitVec 1) (i : BitVec 7) (wr : Wires) (s : State) : Host.Outcome State Fault Refusal :=
  omRow (opWord (.gst w z t p i wr)) wr s

/-- GLDS (R191). -/
def execGlds (w : BitVec 4) (z : BitVec 2) (x : BitVec 1) (t : BitVec 1) (p : BitVec 1) (i : BitVec 7) (wr : Wires) (s : State) : Host.Outcome State Fault Refusal :=
  omRow (opWord (.glds w z x t p i wr)) wr s

/-- GSTF (R191). -/
def execGstf (w : BitVec 4) (z : BitVec 2) (t : BitVec 1) (p : BitVec 1) (i : BitVec 7) (wr : Wires) (s : State) : Host.Outcome State Fault Refusal :=
  omRow (opWord (.gstf w z t p i wr)) wr s

/-- AADD (R230). -/
def execAadd (w : BitVec 4) (z : BitVec 1) (t : BitVec 1) (p : BitVec 1) (i : BitVec 7) (wr : Wires) (s : State) : Host.Outcome State Fault Refusal :=
  omRow (opWord (.aadd w z t p i wr)) wr s

/-- AMIN (R230). -/
def execAmin (w : BitVec 4) (z : BitVec 1) (t : BitVec 1) (p : BitVec 1) (i : BitVec 7) (wr : Wires) (s : State) : Host.Outcome State Fault Refusal :=
  omRow (opWord (.amin w z t p i wr)) wr s

/-- AMAX (R230). -/
def execAmax (w : BitVec 4) (z : BitVec 1) (t : BitVec 1) (p : BitVec 1) (i : BitVec 7) (wr : Wires) (s : State) : Host.Outcome State Fault Refusal :=
  omRow (opWord (.amax w z t p i wr)) wr s

/-- AAND (R230). -/
def execAand (w : BitVec 4) (z : BitVec 1) (t : BitVec 1) (p : BitVec 1) (i : BitVec 7) (wr : Wires) (s : State) : Host.Outcome State Fault Refusal :=
  omRow (opWord (.aand w z t p i wr)) wr s

/-- AOR (R230). -/
def execAor (w : BitVec 4) (z : BitVec 1) (t : BitVec 1) (p : BitVec 1) (i : BitVec 7) (wr : Wires) (s : State) : Host.Outcome State Fault Refusal :=
  omRow (opWord (.aor w z t p i wr)) wr s

/-- AXCH (R230). -/
def execAxch (w : BitVec 4) (z : BitVec 1) (t : BitVec 1) (p : BitVec 1) (i : BitVec 7) (wr : Wires) (s : State) : Host.Outcome State Fault Refusal :=
  omRow (opWord (.axch w z t p i wr)) wr s

/-- ACAS (R230). -/
def execAcas (w : BitVec 4) (z : BitVec 1) (t : BitVec 1) (p : BitVec 1) (i : BitVec 7) (wr : Wires) (s : State) : Host.Outcome State Fault Refusal :=
  omRow (opWord (.acas w z t p i wr)) wr s

/-- AFADD (R230). -/
def execAfadd (w : BitVec 4) (t : BitVec 1) (p : BitVec 1) (i : BitVec 7) (wr : Wires) (s : State) : Host.Outcome State Fault Refusal :=
  omRow (opWord (.afadd w t p i wr)) wr s

/-- PARKED_ACCESS_RETEST: the access parked for element k is tested again (R191). -/
def execParkedAccessRetest (k : Nat) (s : State) : Host.Outcome State Fault Refusal :=
  lift (fun f =>
    match (f.elem k).hold with
    | some h => if h.kind = .scalar ∧ h.parked then f.tryAccess k h h.level else f
    | none => f) s

end Sys2Proof.Machine
end

