-- ==== Sys2Proof/Machine/Float.lean ====
section
/-! DEFINITION. The floating, conversion, scaling, quantisation and LUT instructions (spec 03_numbers R74-R77,
04_arithmetic R95-R106). -/

namespace Sys2Proof.Machine

/-- A float operand as an exact value in its own type (R74); fp32 where the register is untyped. -/
def TV.num (t : TV) : Num := ((fmtOf t.ty).getD .fp32).read t.v

/-- The format of the result type (R74). -/
def AluIn.fmt (x : AluIn) : Fmt := (fmtOf x.ty).getD .fp32

/-- Does an operand list hold a signalling NaN (R70)? -/
def anySig (xs : List Num) : Bool := xs.any (·.isSig)

/-- An exact value rounded once to the result type in the row's mode, with NV raised where the operation is invalid or a
signalling NaN was read (R70, R71, R74). -/
def AluIn.roundTo (x : AluIn) (v : Num) (nv : Bool) : AluOut :=
  let (c, fl) := x.fmt.round x.rm false x.r v
  { v := x.fmt.pack c, fl := { fl with nv := fl.nv || nv }, draw := true }

/-- An exact value converted to the result type in rne, without a draw (R95). -/
def AluIn.narrow (x : AluIn) (v : Num) (nv : Bool) : AluOut :=
  let (c, fl) := x.fmt.round .rne false 0 v
  { v := x.fmt.pack c, fl := { fl with nv := fl.nv || nv } }

/-- a × b + c, exact before one rounding; invalid where a step is (R96). -/
def mulAdd (rdn : Bool) (a b c : Num) : Num × Bool :=
  let (p, i) := Num.mul a b
  let (s, j) := Num.add rdn p c
  (if i then .nan false else s, i || j)

/-- ⌊log2⌋ of a positive finite magnitude. -/
def expOf : Num → Int
  | .fin _ n d => floorLog2 n d
  | _ => 0

/-- The integral value that rounding gives, with the sign kept for a zero, and whether it is exact (R99, R106). -/
def roundIntegral (m : RM) (draw : Nat) : Num → Num × Bool
  | .fin neg n d => let (k, exact) := roundQuantum m draw neg n d 0; (.fin neg k 1, exact)
  | v => (v, true)

/-- minimumNumber and maximumNumber of IEEE 754-2019, −0 below +0 (R97). -/
def minNum (a b : Num) : Num :=
  if a.isNan then b else if b.isNan then a
  else if a.lt b then a else if b.lt a then b else if a.sign then a else b
def maxNum (a b : Num) : Num :=
  if a.isNan then b else if b.isNan then a
  else if a.lt b then b else if b.lt a then a else if a.sign then b else a

/-- A scalar of one integer or float type converted to another (R73). -/
def convTo (src dst : Ty) (m : RM) (sat : Bool) (draw : Nat) (w : W32) : AluOut :=
  let float (v : Num) (sig : Bool) : AluOut :=
    let f := (fmtOf dst).getD .fp32
    let (c, fl) := f.round m sat draw v
    { v := f.pack c, fl := { fl with nv := fl.nv || sig }, draw := true }
  match fmtOf src, rangeOf dst with
  | some f, some _ => let (v, fl) := floatToInt dst m sat draw (f.read w); { v := v, fl := fl, draw := true }
  | some f, none => float (f.read w) (f.read w).isSig
  | none, some _ => let (v, fl) := intToInt dst sat (intValue src w); { v := v, fl := fl }
  | none, none => float (Num.ofInt (intValue src w)) false

/-- A row's conversion into the result type (R99). -/
def convert (x : AluIn) : AluOut := convTo x.a.ty x.ty x.rm x.sat x.r x.a.v

/-- FCLASS's mask: one bit for the class of a float (R99). -/
def classMask (f : Fmt) : Num → Nat
  | .nan sig => if sig then 256 else 512
  | .inf neg => if neg then 1 else 128
  | .fin neg n d =>
    if n = 0 then (if neg then 8 else 16)
    else if floorLog2 n d < 1 - (f.bias : Int) then (if neg then 4 else 32)
    else (if neg then 2 else 64)

/-- The scale operand of QNT and DQNT: an n8 is an E8M0 code, a float is its value (R101, R102). -/
def scaleOf (t : TV) : Num := if t.ty = .n8 then e8m0 t.v.toNat else t.num

/-- The largest exponent of a format's finite values (R77, R101). -/
def Fmt.emax (f : Fmt) : Int := (2 ^ f.e : Int) - (if f.ieee then 2 else 1) - f.bias

/-- Is a scale unusable: zero, NaN or infinite (R101)? -/
def badScale : Num → Bool
  | .fin _ n _ => n == 0
  | _ => true

/-- An integer result of QNT in the container of the result type. -/
def quantInt (ty : Ty) (r : Int × Flags) : AluOut := { v := intContainer ty r.1, fl := r.2, draw := true }

/-- QNT mode 00: one element x/X in the result type (R101). Two sentences of R101 meet for a NaN x under an unusable scale: the model's
choice is the scale's, +0 with NV (log 51). -/
def quantElement (x : AluIn) : AluOut :=
  let v := x.a.num
  let sc := scaleOf x.b
  if badScale sc then { v := 0, fl := { nv := true }, draw := true } else
    let q := v.div sc
    match x.ty with
    | .i8 => quantInt .i8 (if x.b.ty = .n8 then mxi8Elem x.rm x.r q else clampElem (-127) 127 x.rm x.r q)
    | .i4 => quantInt .i4 (clampElem (-7) 7 x.rm x.r q)
    | .i16 => quantInt .i16 (clampElem (-32767) 32767 x.rm x.r q)
    | .n8 => quantInt .n8 (clampElem 0 255 x.rm x.r q)
    | .n4 => quantInt .n4 (clampElem 0 15 x.rm x.r q)
    | .n16 => quantInt .n16 (clampElem 0 65535 x.rm x.r q)
    | _ =>
      let f := x.fmt
      let (c, fl) := f.round x.rm x.sat x.r q
      let (c, fl) :=
        if x.b.ty = .n8 ∧ fl.of ∧ q.abs.lt (Num.mk false 1 (f.emax + 1)) then
          (f.signed q.sign f.maxCode, ({ nx := true } : Flags))
        else (c, fl)
      { v := f.pack c, fl := { fl with nv := fl.nv || v.isNan }, draw := true }

/-- QNT (R101) by its mode. -/
def qntSem (x : AluIn) : AluOut :=
  match (fld x.op 8 2).toNat with
  | 0 => quantElement x
  | 1 =>
    let (c, fl) := mxScale ((fld x.op 0 4).toNat : Int) x.a.num.abs
    { v := BitVec.ofNat 32 c, fl := fl }
  | _ =>
    match x.a.num with
    | .fin _ n d =>
      let (c, fl) := Fmt.fp16.round .rup false 0 (.fin false n (7 * d))
      { v := Fmt.fp16.pack c, fl := fl }
    | _ => { v := 0x7E00, fl := { nv := true } }

/-- DQNT (R102): val(a) × X rounded once; an i8 element under an E8M0 scale is mxi8. -/
def dqntSem (x : AluIn) : AluOut :=
  let v := match fmtOf x.a.ty with
    | some f => f.read x.a.v
    | none =>
      let n := Num.ofInt (intValue x.a.ty x.a.v)
      if x.a.ty = .i8 ∧ x.b.ty = .n8 then n.scale (-6) else n
  let sc := scaleOf x.b
  let (p, i) := Num.mul v sc
  x.roundTo p (i || v.isSig || sc.isSig)

/-- LUTIX (R104): a table index from a float. -/
def lutixSem (x : AluIn) : AluOut :=
  let v := x.a.num
  let m := (fld x.op 8 2).toNat
  let sh : Int := (fld x.op 0 5).toInt
  match v with
  | .nan _ => { v := 0, fl := { nv := true } }
  | .inf neg => plain (if m < 2 then (if neg then 0 else 255) else 0)
  | .fin neg n d =>
    if m < 2 then
      let (p, q) := scaled 1 sh
      let (k, _) := roundInt .rdn 0 neg (n * p) (d * q)
      plain (BitVec.ofInt 32 (clampInt 0 255 (k + (if m = 1 then 128 else 0))))
    else if n = 0 then plain 0
    else
      let ex := floorLog2 n d
      let fracBits : Nat := if m = 2 then 8 else 7
      let (p, q) := scaled 1 ((fracBits : Int) - ex)
      let frac := n * p / (d * q) - 2 ^ fracBits
      plain (BitVec.ofNat 32 (if m = 2 then frac else (ex % 2).toNat * 128 + frac))

/-- An entry of a LUT bank as the share's sections load it: none where the image does not load the bank, +0 pairs where a section
gives no entry (R103). -/
def Share.lutEntry (sh : Share) (bank i : Nat) : Option W64 :=
  match sh.luts.filter (fun (b, _) => b == bank) with
  | [] => none
  | ls => some ((ls.findSome? fun (_, first, ps) => if first ≤ i then ps[i - first]? else none).getD 0)

/-- slope × x + intercept rounded once; an absent bank gives +0 with NV (R105). -/
def lutEval (sh : Share) (bank i : Nat) (x : AluIn) : AluOut :=
  match sh.lutEntry bank i with
  | none => { v := 0, fl := { nv := true }, draw := true }
  | some w =>
    let s := Fmt.fp32.read (w.extractLsb' 0 32)
    let c := Fmt.fp32.read (w.extractLsb' 32 32)
    let v := x.a.num
    let (y, i) := mulAdd (x.rm = .rdn) s v c
    x.roundTo y (i || anySig [s, v, c])

/-- A LUT row that executes: the result also goes to LT (R105). -/
def Row.lut (r : Row) (sel : AluIn → Nat × Nat) : Fab :=
  let x := r.aluIn .fp32
  let (t, esr, emr) := aluResult .ab (fun x => let (k, i) := sel x; lutEval r.sh k i x) x r.e
  (r.finish r.taken t esr emr).modSlot r.e r.c fun s => { s with lt := s.fb }

/-! ### The instructions -/

/-- 1 or 0 as a 32-bit result. -/
def boolV' (p : Bool) : W32 := bit 32 p

/-- The result of FADD. -/
def faddSem (x : AluIn) : AluOut :=
  let a := x.a.num; let b := x.b.num; let (v, i) := Num.add (x.rm = .rdn) a b; x.roundTo v (i || anySig [a, b])

/-- FADD (R96): a + b rounded once. -/
def execFadd (r : BitVec 3) (t : BitVec 1) (wr : Wires) (s : State) : Host.Outcome State Fault Refusal :=
  aluRow (opWord (.fadd r t wr)) wr .ab .fp32 faddSem s

/-- The result of FSUB. -/
def fsubSem (x : AluIn) : AluOut :=
  let a := x.a.num; let b := x.b.num; let (v, i) := Num.add (x.rm = .rdn) a b.neg; x.roundTo v (i || anySig [a, b])

/-- FSUB (R96): a − b rounded once. -/
def execFsub (r : BitVec 3) (t : BitVec 1) (wr : Wires) (s : State) : Host.Outcome State Fault Refusal :=
  aluRow (opWord (.fsub r t wr)) wr .ab .fp32 fsubSem s

/-- The result of FMUL. -/
def fmulSem (x : AluIn) : AluOut :=
  let a := x.a.num; let b := x.b.num; let (v, i) := Num.mul a b; x.roundTo v (i || anySig [a, b])

/-- FMUL (R96): a × b rounded once. -/
def execFmul (r : BitVec 3) (t : BitVec 1) (wr : Wires) (s : State) : Host.Outcome State Fault Refusal :=
  aluRow (opWord (.fmul r t wr)) wr .ab .fp32 fmulSem s

/-- The result of FMA. -/
def fmaSem (x : AluIn) : AluOut :=
  let a := x.a.num; let b := x.b.num; let d := x.d.num; let (v, i) := mulAdd (x.rm = .rdn) a b d; x.roundTo v (i || anySig [a, b, d])

/-- FMA (R96): a × b + rd rounded once. -/
def execFma (r : BitVec 3) (t : BitVec 1) (wr : Wires) (s : State) : Host.Outcome State Fault Refusal :=
  aluRow (opWord (.fma r t wr)) wr .abd .fp32 fmaSem s

/-- The result of FMS. -/
def fmsSem (x : AluIn) : AluOut :=
  let a := x.a.num; let b := x.b.num; let d := x.d.num; let (v, i) := mulAdd (x.rm = .rdn) a b d.neg; x.roundTo v (i || anySig [a, b, d])

/-- FMS (R96): a × b − rd rounded once. -/
def execFms (r : BitVec 3) (t : BitVec 1) (wr : Wires) (s : State) : Host.Outcome State Fault Refusal :=
  aluRow (opWord (.fms r t wr)) wr .abd .fp32 fmsSem s

/-- The result of FNMA. -/
def fnmaSem (x : AluIn) : AluOut :=
  let a := x.a.num; let b := x.b.num; let d := x.d.num; let (v, i) := mulAdd (x.rm = .rdn) a.neg b d; x.roundTo v (i || anySig [a, b, d])

/-- FNMA (R96): −(a × b) + rd rounded once. -/
def execFnma (r : BitVec 3) (t : BitVec 1) (wr : Wires) (s : State) : Host.Outcome State Fault Refusal :=
  aluRow (opWord (.fnma r t wr)) wr .abd .fp32 fnmaSem s

/-- The result of FDOT2. -/
def fdot2Sem (x : AluIn) : AluOut :=
  let a := x.a.num; let b := x.b.num; let c := x.d.num; let d := x.d2.num; let (p, j) := Num.mul b d; let (v, i) := mulAdd (x.rm = .rdn) a c p; x.roundTo (if j then .nan false else v) (i || j || anySig [a, b, c, d])

/-- FDOT2 (R96): a × rd + b × w(rd xor 1) rounded once. -/
def execFdot2 (r : BitVec 3) (t : BitVec 1) (wr : Wires) (s : State) : Host.Outcome State Fault Refusal :=
  aluRow (opWord (.fdot2 r t wr)) wr .abdd .fp32 fdot2Sem s

/-- The result of FMIN. -/
def fminSem (x : AluIn) : AluOut :=
  let a := x.a.num; let b := x.b.num; x.narrow (minNum a b) (anySig [a, b])

/-- FMIN (R97): minimumNumber. -/
def execFmin (t : BitVec 1) (wr : Wires) (s : State) : Host.Outcome State Fault Refusal :=
  aluRow (opWord (.fmin t wr)) wr .ab .fp32 fminSem s

/-- The result of FMAX. -/
def fmaxSem (x : AluIn) : AluOut :=
  let a := x.a.num; let b := x.b.num; x.narrow (maxNum a b) (anySig [a, b])

/-- FMAX (R97): maximumNumber. -/
def execFmax (t : BitVec 1) (wr : Wires) (s : State) : Host.Outcome State Fault Refusal :=
  aluRow (opWord (.fmax t wr)) wr .ab .fp32 fmaxSem s

/-- The result of FABS. -/
def fabsSem (x : AluIn) : AluOut :=
  let a := x.a.num; x.narrow a.abs a.isSig

/-- FABS (R97): a with sign 0. -/
def execFabs (t : BitVec 1) (wr : Wires) (s : State) : Host.Outcome State Fault Refusal :=
  aluRow (opWord (.fabs t wr)) wr .a .fp32 fabsSem s

/-- The result of FNEG. -/
def fnegSem (x : AluIn) : AluOut :=
  let a := x.a.num; x.narrow a.neg a.isSig

/-- FNEG (R97): a with its sign inverted. -/
def execFneg (t : BitVec 1) (wr : Wires) (s : State) : Host.Outcome State Fault Refusal :=
  aluRow (opWord (.fneg t wr)) wr .a .fp32 fnegSem s

/-- The result of FCMPEQ. -/
def fcmpeqSem (x : AluIn) : AluOut :=
  let a := x.a.num; let b := x.b.num; { v := boolV' (a.eqv b), fl := { nv := anySig [a, b] } }

/-- FCMPEQ (R98): a = b; NV for a signalling NaN only. -/
def execFcmpeq (t : BitVec 1) (wr : Wires) (s : State) : Host.Outcome State Fault Refusal :=
  aluRow (opWord (.fcmpeq t wr)) wr .ab .i32 fcmpeqSem s

/-- The result of FCMPLT. -/
def fcmpltSem (x : AluIn) : AluOut :=
  let a := x.a.num; let b := x.b.num; { v := boolV' (a.lt b), fl := { nv := a.isNan || b.isNan } }

/-- FCMPLT (R98): a < b; NV for any NaN. -/
def execFcmplt (t : BitVec 1) (wr : Wires) (s : State) : Host.Outcome State Fault Refusal :=
  aluRow (opWord (.fcmplt t wr)) wr .ab .i32 fcmpltSem s

/-- The result of FCMPLE. -/
def fcmpleSem (x : AluIn) : AluOut :=
  let a := x.a.num; let b := x.b.num; { v := boolV' (a.lt b || a.eqv b), fl := { nv := a.isNan || b.isNan } }

/-- FCMPLE (R98): a ≤ b; NV for any NaN. -/
def execFcmple (t : BitVec 1) (wr : Wires) (s : State) : Host.Outcome State Fault Refusal :=
  aluRow (opWord (.fcmple t wr)) wr .ab .i32 fcmpleSem s

/-- The result of FCMPUN. -/
def fcmpunSem (x : AluIn) : AluOut :=
  let a := x.a.num; let b := x.b.num; { v := boolV' (a.isNan || b.isNan), fl := { nv := anySig [a, b] } }

/-- FCMPUN (R98): a or b is NaN. -/
def execFcmpun (t : BitVec 1) (wr : Wires) (s : State) : Host.Outcome State Fault Refusal :=
  aluRow (opWord (.fcmpun t wr)) wr .ab .i32 fcmpunSem s

/-- The result of FCVT. -/
def fcvtSem (x : AluIn) : AluOut :=
  convert x

/-- FCVT (R73, R99): any scalar to any scalar. -/
def execFcvt (r : BitVec 3) (s : BitVec 1) (t : BitVec 1) (wr : Wires) (st : State) : Host.Outcome State Fault Refusal :=
  aluRow (opWord (.fcvt r s t wr)) wr .a .fp32 fcvtSem st

/-- The result of FCLASS. -/
def fclassSem (x : AluIn) : AluOut :=
  plain (BitVec.ofNat 32 (classMask ((fmtOf x.a.ty).getD .fp32) x.a.num))

/-- FCLASS (R99): the class mask. -/
def execFclass (t : BitVec 1) (wr : Wires) (s : State) : Host.Outcome State Fault Refusal :=
  aluRow (opWord (.fclass t wr)) wr .a .i32 fclassSem s

/-- The result of FRND. -/
def frndSem (x : AluIn) : AluOut :=
  let a := x.a.num; let (v, exact) := roundIntegral x.rm x.r a; let o := x.narrow v a.isSig; { o with fl := { o.fl with nx := o.fl.nx || !exact }, draw := true }

/-- FRND (R99): rounded to an integral value, then to a narrower type in rne. -/
def execFrnd (r : BitVec 3) (t : BitVec 1) (wr : Wires) (s : State) : Host.Outcome State Fault Refusal :=
  aluRow (opWord (.frnd r t wr)) wr .a .fp32 frndSem s

/-- The result of FTOI. -/
def ftoiSem (x : AluIn) : AluOut :=
  convert x

/-- FTOI (R73, R99): float to integer. -/
def execFtoi (r : BitVec 3) (s : BitVec 1) (t : BitVec 1) (wr : Wires) (st : State) : Host.Outcome State Fault Refusal :=
  aluRow (opWord (.ftoi r s t wr)) wr .a .i32 ftoiSem st

/-- The result of ITOF. -/
def itofSem (x : AluIn) : AluOut :=
  convert x

/-- ITOF (R73, R99): integer to float. -/
def execItof (r : BitVec 3) (t : BitVec 1) (wr : Wires) (s : State) : Host.Outcome State Fault Refusal :=
  aluRow (opWord (.itof r t wr)) wr .a .fp32 itofSem s

/-- The result of FSCALE. -/
def fscaleSem (x : AluIn) : AluOut :=
  let a := x.a.num; x.roundTo (a.scale (clampInt (-1024) 1024 x.b.v.toInt)) a.isSig

/-- FSCALE (R100): a × 2^s(b); beyond ±1024 every finite result is the same as at the bound. -/
def execFscale (r : BitVec 3) (t : BitVec 1) (wr : Wires) (s : State) : Host.Outcome State Fault Refusal :=
  aluRow (opWord (.fscale r t wr)) wr .ab .fp32 fscaleSem s

/-- The result of FEXPN. -/
def fexpnSem (x : AluIn) : AluOut :=
  match x.a.num with
  | .nan _ => { v := 0x80000000, fl := { nv := true } }
  | .inf _ => { v := 0x7FFFFFFF, fl := { nv := true } }
  | .fin _ n d => if n = 0 then { v := 0x80000000, fl := { nv := true } } else plain (BitVec.ofInt 32 (floorLog2 n d))

/-- FEXPN (R100): ⌊log2 |a|⌋. -/
def execFexpn (t : BitVec 1) (wr : Wires) (s : State) : Host.Outcome State Fault Refusal :=
  aluRow (opWord (.fexpn t wr)) wr .a .i32 fexpnSem s

/-- The result of FMANT. -/
def fmantSem (x : AluIn) : AluOut :=
  match x.a.num with
  | .fin neg n d => x.narrow (if n = 0 then .fin neg 0 1 else (Num.fin neg n d).scale (-(floorLog2 n d))) false
  | v => x.narrow (.nan false) (true || v.isSig)

/-- FMANT (R100): the significand in [1, 2). -/
def execFmant (t : BitVec 1) (wr : Wires) (s : State) : Host.Outcome State Fault Refusal :=
  aluRow (opWord (.fmant t wr)) wr .a .fp32 fmantSem s

/-- QNT (R101): quantise one scalar. -/
def execQnt (r : BitVec 3) (s : BitVec 1) (t : BitVec 1) (m : BitVec 2) (e : BitVec 4) (wr : Wires) (st : State) : Host.Outcome State Fault Refusal :=
  let op := (opWord (.qnt r s t m e wr))
  aluRow op wr (if (fld op 8 2).toNat = 0 then .ab else .a) (match (fld op 8 2).toNat with | 1 => .n8 | _ => .fp16) qntSem st

/-- DQNT (R102): dequantise one scalar. -/
def execDqnt (r : BitVec 3) (t : BitVec 1) (wr : Wires) (s : State) : Host.Outcome State Fault Refusal :=
  aluRow (opWord (.dqnt r t wr)) wr .ab .fp32 dqntSem s

/-- LUTIX (R104): a table index from a float. -/
def execLutix (t : BitVec 1) (m : BitVec 2) (s : BitVec 5) (wr : Wires) (st : State) : Host.Outcome State Fault Refusal :=
  aluRow (opWord (.lutix t m s wr)) wr .a .i32 lutixSem st

/-- The result of RREDF. -/
def rredfSem (x : AluIn) : AluOut :=
  match x.a.num with
  | .fin neg n d => let (k, exact) := roundIntegral .rne 0 (.fin neg n d)
    if exact then x.narrow (.fin false 0 1) false else x.narrow (Num.add false (.fin neg n d) k.neg).1 false
  | .inf _ => x.narrow (.nan false) true
  | .nan s => x.narrow (.nan s) s

/-- RREDF (R106): a − round_rne(a). -/
def execRredf (t : BitVec 1) (wr : Wires) (s : State) : Host.Outcome State Fault Refusal :=
  aluRow (opWord (.rredf t wr)) wr .a .fp32 rredfSem s

/-- The result of RREDN. -/
def rrednSem (x : AluIn) : AluOut :=
  let a := x.a.num; x.narrow (roundIntegral .rne 0 a).1 a.isSig

/-- RREDN (R106): round_rne(a). -/
def execRredn (t : BitVec 1) (wr : Wires) (s : State) : Host.Outcome State Fault Refusal :=
  aluRow (opWord (.rredn t wr)) wr .a .fp32 rrednSem s

/-- The result of REXP. -/
def rexpSem (x : AluIn) : AluOut :=
  let a := x.a.num
  match x.b.num with
  | .inf neg => x.roundTo (a.scale (if neg then -512 else 512)) a.isSig
  | .fin neg n d =>
    if n % d = 0 then x.roundTo (a.scale (clampInt (-512) 512 (if neg then -((n / d : Nat) : Int) else ((n / d : Nat) : Int)))) a.isSig
    else x.roundTo (.nan false) true
  | .nan _ => x.roundTo (.nan false) true

/-- REXP (R106): a × 2^n for an integral B. -/
def execRexp (r : BitVec 3) (t : BitVec 1) (wr : Wires) (s : State) : Host.Outcome State Fault Refusal :=
  aluRow (opWord (.rexp r t wr)) wr .ab .fp32 rexpSem s

/-- LUT (R105): entry clamp(s(b), 0, 255) of bank imm10[1:0]. -/
def execLut (r : BitVec 3) (t : BitVec 1) (k : BitVec 2) (wr : Wires) (s : State) : Host.Outcome State Fault Refusal :=
  lift (fun f =>
    let r := f.rowCtx (opWord (.lut r t k wr)) wr
    r.issue r.planDefault (r.lut fun x => ((fld x.op 0 2).toNat, (clampInt 0 255 x.b.v.toInt).toNat))) s

/-- LUTSEL (R105): bank b[9:8], index b[7:0]. -/
def execLutsel (r : BitVec 3) (t : BitVec 1) (wr : Wires) (s : State) : Host.Outcome State Fault Refusal :=
  lift (fun f =>
    let r := f.rowCtx (opWord (.lutsel r t wr)) wr
    r.issue r.planDefault (r.lut fun x => (bits x.b.v.toNat 8 2, bits x.b.v.toNat 0 8))) s

end Sys2Proof.Machine
end

