-- ==== Sys2Proof/Machine/Crc.lean ====
section
/-! DEFINITION. CRC-32C (Castagnoli, reflected) as the manual uses it for mirror data, tape storage and redundant-run signatures (spec
08_global R212, 14_containment R367). -/

namespace Sys2Proof.Machine

/-- One bit of the reflected Castagnoli division. -/
def crcBit (c : W32) : W32 := if c.getLsbD 0 then (c >>> 1) ^^^ 0x82F63B78 else c >>> 1

/-- A byte folded into a register. -/
def crcByte (c : W32) (b : Byte) : W32 :=
  crcBit (crcBit (crcBit (crcBit (crcBit (crcBit (crcBit (crcBit (c ^^^ b.zeroExtend 32))))))))

/-- Bytes folded in order. -/
def crcUpdate (c : W32) (bs : List Byte) : W32 := bs.foldl crcByte c

/-- CRC-32C of a byte string, with the initial and final inversions of the standard. -/
def crc32c (bs : List Byte) : W32 := ~~~ crcUpdate 0xFFFFFFFF bs

end Sys2Proof.Machine
end

