-- ==== Sys2Proof/Machine/Jobs.lean ====
section
/-! DEFINITION. Jobs of queue S: admission, elements, faults, retirement, progress registers, and the copies, fills, streams,
transfers and mirrors (spec 07_tiles R170, R179-R182, 08_global R194-R204, R210-R214, 09_ordering R238). -/

namespace Sys2Proof.Machine

/-! ### Bits of tiles at any level -/

/-- A fault of translation: its cause and address. -/
structure XFault where
  xc : Nat
  va : Nat

/-- The place of word k of a tile for an access. -/
def Fab.wordPlace (f : Fab) (e : ElemId) (t : Tile) (k : GKind) (w : Nat) : Except XFault Nat × Fab :=
  match f.tilePlace e t k (8 * w) with
  | (.ok a, f) => (.ok a, f)
  | (.error x, f) => (.error ⟨x, t.loc + 8 * w⟩, f)

/-- Words of a tile read in order: value (first word lowest) and joined poison; corrections are counted. -/
def Fab.readWords (f : Fab) (e : ElemId) (c : Ctx) (run : Nat) (t : Tile) : List Nat → Except XFault (Nat × Bool) × Fab
  | [] => (.ok (0, false), f)
  | w :: ws =>
    match f.wordPlace e t .read w with
    | (.error x, f) => (.error x, f)
    | (.ok a, f) =>
      let f := f.fixWord e c run a
      match f.readWords e c run t ws with
      | (.ok (v, p), g) => (.ok (f.load a 8 + 2 ^ 64 * v, p || f.poisoned a), if t.lvl = 3 then g.spliced a else g)
      | r => r

/-- Bits of a tile's byte string from a bit offset on, with the poison of every word they touch. -/
def Fab.readBits (f : Fab) (e : ElemId) (c : Ctx) (run : Nat) (t : Tile) (bo w : Nat) : Except XFault (Nat × Bool) × Fab :=
  let k := bo / 64
  match f.readWords e c run t ((List.range ((bo + w - 1) / 64 + 1 - k)).map (k + ·)) with
  | (.ok (v, p), f) => (.ok (bits v (bo - 64 * k) w, p), f)
  | r => r

/-- A word of a tile with some bits replaced, others read, corrected and kept; a poisoned source poisons the word, and so does an
uncorrectable error of the bits kept (R167, R178, R180). -/
def Fab.writeWord (f : Fab) (e : ElemId) (c : Ctx) (t : Tile) (w lo len v : Nat) (p : Bool) : Except XFault Nat × Fab :=
  match f.wordPlace e t .write w with
  | (.error x, f) => (.error x, f)
  | (.ok a, f) =>
    let f := if len = 64 then f else f.fixBit a
    let old := f.load a 8
    let new := old - bits old lo len * 2 ^ lo + v % 2 ^ len * 2 ^ lo
    let f := f.tilePut e c a (leBytes 8 new)
    let f := if p || (len != 64 && f.tag a / 4 % 2 == 1) then f.tilePoison e c a true else f
    (.ok a, f.rewritten a)

/-- Bits of a tile's byte string written, word by word. -/
def Fab.writeBits (f : Fab) (e : ElemId) (c : Ctx) (t : Tile) (bo w v : Nat) (p : Bool) : Except XFault Nat × Fab :=
  let k := bo / 64
  ((List.range ((bo + w - 1) / 64 + 1 - k)).map (k + ·)).foldl (fun (r : Except XFault Nat × Fab) i =>
    match r with
    | (.error x, f) => (.error x, f)
    | (.ok _, f) =>
      let lo := max bo (64 * i)
      let hi := min (bo + w) (64 * i + 64)
      f.writeWord e c t i (lo - 64 * i) (hi - lo) (v / 2 ^ (lo - bo)) p) (.ok 0, f)

/-- F of word k of a tile changed; host pages hold no F. -/
def Fab.setWordF (f : Fab) (e : ElemId) (c : Ctx) (t : Tile) (k : Nat) (full : Bool) : Fab :=
  match f.wordPlace e t .write k with
  | (.ok a, f) => if hostBase ≤ a then f else f.tileFull e c a full
  | (.error _, f) => f

/-- F of word k of a tile. -/
def Fab.wordF (f : Fab) (e : ElemId) (t : Tile) (k : Nat) : Bool :=
  match (f.wordPlace e t .read k).1 with
  | .ok a => f.full a
  | .error _ => true

/-- Words of a tile's byte string that a run of bits touches. -/
def wordsOf (bo w : Nat) : List Nat := (List.range ((bo + w - 1) / 64 + 1 - bo / 64)).map (bo / 64 + ·)

/-! ### Admission (R170) -/

/-- Progress-register causes (R181, R199, R242, R251, R291). -/
def jcBounds : Nat := 1
def jcFormat : Nat := 2
def jcHandle : Nat := 3
def jcXlate : Nat := 4
def jcAborted : Nat := 5
def jcAlign : Nat := 6
def jcMoved : Nat := 6
def jcLink : Nat := 7
def jcDup : Nat := 8

/-- The lowest free slot of queue S. -/
def Elem.freeSlot (x : Elem) : Option (Fin 4) := [0, 1, 2, 3].find? fun i => !(x.sq.get i).live

/-- A slot's job. -/
def Fab.job (f : Fab) (e : ElemId) (j : Fin 4) : Job := (f.elem e).sq.get j
/-- The fabric with a slot's job changed. -/
def Fab.modJob (f : Fab) (e : ElemId) (j : Fin 4) (g : Job → Job) : Fab :=
  f.modElem e fun x => { x with sq := x.sq.set j (g (x.sq.get j)) }

/-- The job that a row asks for, before its own checks. -/
def Row.newJob (r : Row) : Job :=
  { st := .running, opc := r.opc, live := true, c := r.c, run := r.runId, copy := r.copyNo, frame := (r.f.rowOf r.e r.c).2
    tag := r.run.tag, seq := r.el.sseq, op := r.op, pb := r.block, a := r.a, b := r.b, push := r.pushFifo, ix := r.ix, emr := r.sl.emr
    arr := r.now }

/-- A job that ends: state, cause, the tick; its chain entries count as performed or skipped; its retirement is due on a tick, that of a held operation as its own
event (R285). -/
def Fab.endJobAt (f : Fab) (e : ElemId) (j : Fin 4) (st : JobState) (cause t : Nat) : Fab :=
  let b := f.job e j
  let f := b.waves.eraseDups.foldl (fun f q => f.perform e b.run b.copy b.frame q) f
  let held := b.opc = 0xB4 ∨ b.opc = 0xB5 ∨ b.opc = 0xB8 ∨ b.opc = 0xBB
  (f.modJob e j fun b => { b with st := st, cause := cause, fin := t - 1 }).at t 0
    (if held then .heldOpRetirement e else .jobRetirement e j)

/-- A job that ends and retires on the next tick. -/
def Fab.endJob (f : Fab) (e : ElemId) (j : Fin 4) (st : JobState) (cause : Nat) : Fab := f.endJobAt e j st cause (f.clock + 1)

/-- Weights of an element's port are recomputed when a job is admitted or retires (R210). -/
def Fab.reweigh (f : Fab) (e : ElemId) : Fab := f.at f.clock 2 (.portWeightRecompute e)

/-- A job's next element due on a tick. -/
def Fab.jobAt (f : Fab) (e : ElemId) (j : Fin 4) (t : Nat) : Fab :=
  (f.modJob e j fun b => { b with next := t }).at t 2 (.jobElement e j)

/-- A running job told to stop before its next element; the elements of a stream, gather or scatter that were issued are in flight for the
latency of an access at G, and it ends behind them (R184, R204). -/
def Fab.abortJob (f : Fab) (e : ElemId) (j : Fin 4) : Fab :=
  let b := f.job e j
  let f := f.modJob e j fun b => { b with abort := true }
  if 0 < b.idx ∧ 0x84 ≤ b.opc ∧ b.opc ≤ 0x87 then f.jobAt e j (max b.next (f.clock + accessTicks 3 b.opc)) else f

/-- A job admitted into the lowest free slot, its first element due after some ticks; a failed check ends it at once with a cause and
leaves memory as it is (R170, R180). -/
def Row.enqueue (r : Row) (b : Job) (cause : Nat) (delay : Nat) (f : Fab) : Fab :=
  match r.el.freeSlot with
  | none => f
  | some j =>
    let f := f.modElem r.e fun x =>
      { x with
        sq := x.sq.set j b, sseq := x.sseq + 1
        port := ([0, 4, 16, 20] : List Nat).foldl (fun v k => v.set (Fin.ofNat 26 (k + j.val)) 0) x.port }
    let f := f.reweigh r.e
    if cause ≠ 0 then f.endJob r.e j .aborted cause
    else f.jobAt r.e j (r.now + delay)

/-- A row that hands a job to queue S: a poison address operand admits nothing (R385). -/
def Row.jobRow (r : Row) (addr : List TV) (go : Fab → Fab) : Fab :=
  match firstPoison addr with
  | some p => r.addrPoison true p r.taken
  | none => go r.taken

/-! ### Cinch subtractions of engine writes (R238) -/

/-- The cinches to which a handle is bound: keys die × 256 + number. -/
def Fab.cinchesOf (f : Fab) (e : ElemId) (h : Nat) : List Nat :=
  (f.cinches.filter fun (_, k) => k.binds.contains (e, h)).map (·.1)

/-- A job's write of n bytes into a handle counted at its cinches, after the requests of the tick; the tick on which the word's F may
change, none for at once. -/
def Fab.countBytes (f : Fab) (e : ElemId) (h n : Nat) : Option Nat × Fab :=
  (f.cinchesOf e h).foldl (fun (w, f) k =>
    let t := f.clock + (if k / 256 = dieOf e then 0 else 16)
    (some (max (w.getD 0) (t + 1)), f.at t 8000 (.cinchPendSubtract (k / 256) (k % 256) n))) (none, f)

/-! ### Elements -/

/-- What an element of a job comes to: it moved, it waits, a translation fault (on an index or on data), an abort. -/
inductive Moved where
  | ok (f : Fab)
  | wait
  | fault (x : XFault) (ix : Bool)
  | abort (cause : Nat)

/-- Final F changes after element j: every word whose last element it is; the words of the last element are the last (R180). -/
def Fab.finals (f : Fab) (e : ElemId) (b : Job) (t : Tile) (j : Nat) (full : Bool) : Fab :=
  let ws := b.lasts.filter fun (_, l) => l == j
  ws.foldl (fun f (w, _) => f.setWordF e b.c t w full) f

/-- The last element of each word, from the bit places and widths that every element writes, in order. -/
def lastsAll (places : Nat → List (Nat × Nat)) (n : Nat) : FMap Nat :=
  (List.range n).foldl (fun m j => (places j).foldl (fun m (bo, w) => (wordsOf bo w).foldl (fun m k => mput k j m) m) m) []

/-- The last element of each word, where every element has one place of one width. -/
def lastsOf (place : Nat → Nat) (w n : Nat) : FMap Nat := lastsAll (fun j => [(place j, w)]) n

/-- The places of item n of a tile and, where it is the first of a block, of the block's scale (R65). -/
def Tile.places (t : Tile) (n : Nat) : List (Nat × Nat) :=
  (n * t.itemBits, t.itemBits) :: (if isBlock t.fmt ∧ (t.blockNo n).2 = 0 then [t.scaleAt n] else [])

/-- The words of a map all set empty. -/
def Fab.emptyWords (f : Fab) (e : ElemId) (c : Ctx) (t : Tile) (m : FMap Nat) : Fab :=
  m.foldl (fun f (w, _) => f.setWordF e c t w false) f

/-! ### TCOPY and TFILL (R179-R182) -/

/-- A window of a parameter block word: origin. -/
def origin (b : BitVec 256) (k : Nat) : Nat × Nat := (bits (pword b k) 0 12, bits (pword b k) 12 12)

/-- Bit offset of a tile item in the element plane. -/
def Tile.bitAt (t : Tile) (r c : Nat) : Nat := t.index r c * t.itemBits

/-- Rows and columns of the window of a copy or fill. -/
def copyShape (b : BitVec 256) : Nat × Nat := (bits (pword b 2) 0 12 + 1, bits (pword b 2) 12 12 + 1)

/-- Place of window element j in a tile whose origin stands in word k. -/
def copyBit (b : BitVec 256) (t : Tile) (k j : Nat) : Nat :=
  let (r0, c0) := origin b k
  let (_, cols) := copyShape b
  t.bitAt (r0 + j / cols) (c0 + j % cols)

/-- Does the window lie in a tile? -/
def inWindow (b : BitVec 256) (t : Tile) (k : Nat) : Bool :=
  let (r0, c0) := origin b k
  let (rows, cols) := copyShape b
  decide (r0 + rows ≤ t.rows ∧ c0 + cols ≤ t.cols)

/-- Block of a block-scaled or codebook format along the contiguous dimension. -/
def blockLen (t : Ty) : Nat := if isVq t then 4 else blockOf t

/-- Origins and extent along the contiguous dimension are multiples of the block. -/
def blockAligned (b : BitVec 256) (t : Tile) (k : Nat) : Bool :=
  let (r0, c0) := origin b k
  let (rows, cols) := copyShape b
  let m := blockLen t.fmt
  if t.lay = 1 then r0 % m == 0 && rows % m == 0 else c0 % m == 0 && cols % m == 0

/-- The check of a copy: handles, windows, formats (R180). -/
def copyCheck (b : BitVec 256) (src dst : Option Tile) : Nat :=
  match src, dst with
  | some s, some d =>
    if !inWindow b s 0 || !inWindow b d 1 then jcBounds
    else if s.fmt ≠ d.fmt || s.fibre != d.fibre then jcFormat
    else if (isBlock s.fmt || isVq s.fmt) && (s.lay ≠ d.lay || !blockAligned b s 0 || !blockAligned b d 1) then jcFormat
    else 0
  | _, _ => jcHandle

/-- The check of a fill. -/
def fillCheck (b : BitVec 256) (dst : Option Tile) : Nat :=
  match dst with
  | some d => if !inWindow b d 1 then jcBounds else if isBlock d.fmt || isVq d.fmt then jcFormat else 0
  | none => jcHandle

/-- The first write of a copy or fill (R182). -/
def firstWrite (ts : List Tile) : Nat := if ts.any (·.lvl == 3) then 48 else if ts.any (·.lvl == 2) then 18 else 2

/-- The tick, counted from its first, in which a job moves element i: 512 bits move in each (R182). -/
def Job.tickOf (b : Job) (i : Nat) : Nat := ((i + 1) * b.rate - 1) / 512

/-- The source operand of TCOPY is address, that of TFILL is data. -/
def Row.copyRow (r : Row) (fill : Bool) : Fab :=
  let b := r.newJob
  r.jobRow (if fill then [r.b] else [r.a, r.b]) fun f =>
    let dh := handleOf r.b.v
    let dst := f.tileOf r.e r.c dh
    let src := f.tileOf r.e r.c (handleOf r.a.v)
    let cause := if fill then fillCheck b.pb dst else copyCheck b.pb src dst
    let (rows, cols) := copyShape b.pb
    let n := rows * cols
    match dst with
    | none => r.enqueue { b with n := n } cause 0 f
    | some d =>
      let lasts := if cause = 0 then lastsOf (copyBit b.pb d 1) d.itemBits n else []
      let f := if cause = 0 then f.emptyWords r.e r.c d lasts else f
      let f := if fill && cause = 0 && r.a.p then f.poisonConsumed r.e r.c (causeOf r.a.v) r.a.v else f
      let f := (f.useTile r.e dh).useTile r.e (if fill then 0 else handleOf r.a.v)
      r.enqueue { b with n := n, dst := some dh, lasts := lasts, rate := d.itemBits } cause
        (firstWrite (d :: (if fill then [] else src.toList))) f

/-- A block's scale copied with its first element (R180). -/
def Fab.copyScale (f : Fab) (e : ElemId) (b : Job) (s d : Tile) (is id : Nat) : Except XFault Nat × Fab :=
  if !isBlock s.fmt ∨ (s.blockNo is).2 ≠ 0 then (.ok 0, f)
  else
    match f.readBits e b.c b.run s (s.scaleAt is).1 (s.scaleAt is).2 with
    | (.ok (v, p), f) => f.writeBits e b.c d (d.scaleAt id).1 (d.scaleAt id).2 v p
    | (.error x, f) => (.error x, f)

/-- Element j of a copy or fill. -/
def Fab.copyStep (f : Fab) (e : ElemId) (b : Job) (j : Nat) : Moved :=
  let fill := b.opc == 0x7B
  match f.tileOf e b.c (handleOf b.b.v), f.tileOf e b.c (handleOf b.a.v) with
  | none, _ => .abort jcHandle
  | some d, src =>
    let w := d.itemBits
    let read : Except XFault (Nat × Bool) × Fab :=
      if fill then (.ok (b.a.v.toNat % 2 ^ w, b.a.p), f)
      else match src with
        | some s => f.readBits e b.c b.run s (copyBit b.pb s 0 j) w
        | none => (.ok (0, false), f)
    match read with
    | (.error x, _) => .fault x false
    | (.ok (v, p), f) =>
      let bo := copyBit b.pb d 1 j
      match f.writeBits e b.c d bo w v p with
      | (.error x, _) => .fault x false
      | (.ok _, f) =>
        match (match src with
          | some s => if fill then (.ok 0, f) else f.copyScale e b s d (copyBit b.pb s 0 j / w) (bo / w)
          | none => (.ok 0, f) : Except XFault Nat × Fab) with
        | (.error x, _) => .fault x false
        | (.ok _, f) => .ok f

/-! ### Streams, gather and scatter (R194-R199) -/

/-- Fields of a stream parameter block (R195). -/
def smBase (b : BitVec 256) : Nat := pword b 0 + bits (pword b 1) 0 16 * 2 ^ 32
def smEsz (b : BitVec 256) : Nat := match bits (pword b 1) 16 3 with
  | 0 => 1 | 1 => 2 | 2 => 4 | 3 => 8 | _ => 64
def smRing (b : BitVec 256) : Bool := (pword b 1).testBit 19
def smTake (b : BitVec 256) : Bool := (pword b 1).testBit 30
def smIxadd (b : BitVec 256) : Bool := (pword b 1).testBit 31
def smCount (b : BitVec 256) (i : Nat) : Nat := bits (pword b (2 + i / 2)) (16 * (i % 2)) 16 + 1
def smStride (b : BitVec 256) (k : Nat) : Int := (b.extractLsb' (32 * k) 32).toInt
def smOff (b : BitVec 256) : Nat := bits (pword b 7) 0 26

/-- Does the job gather or scatter by indices? -/
def isIndexed (opc : Nat) : Bool := opc == 0x86 || opc == 0x87
/-- Is the job a stream, gather or scatter? -/
def streamOp (opc : Nat) : Bool := decide (0x84 ≤ opc ∧ opc ≤ 0x87)
/-- Does the job write the tile? -/
def isInbound (opc : Nat) : Bool := opc == 0x84 || opc == 0x86

/-- Number of elements of a stream job. -/
def smN (opc : Nat) (b : BitVec 256) : Nat :=
  if isIndexed opc then smCount b 0 else smCount b 0 * smCount b 1 * smCount b 2 * smCount b 3

/-- Base address with IX added (R196). -/
def Job.smBase (b : Job) : Int := (Sys2Proof.Machine.smBase b.pb : Int) + (if smIxadd b.pb then b.ix.toInt else 0)

/-- Exact address of element j of a stream (R196). -/
def Job.smAddr (b : Job) (j : Nat) : Int :=
  let c0 := smCount b.pb 0
  let c1 := smCount b.pb 1
  let c2 := smCount b.pb 2
  b.smBase + (j % c0 * smEsz b.pb : Nat) + (j / c0 % c1 : Nat) * smStride b.pb 4 + (j / c0 / c1 % c2 : Nat) * smStride b.pb 5 +
    (j / c0 / c1 / c2 : Nat) * smStride b.pb 6

/-- Byte offset of element j on the tile side. -/
def smTileOff (b : BitVec 256) (t : Tile) (j : Nat) : Nat :=
  let o := smOff b + j * smEsz b
  if smRing b then o % max t.byteLen 1 else o

/-- Width of an index (R195). -/
def smIxBits (b : BitVec 256) : Nat := if (pword b 3).testBit 0 then 16 else 32

/-- The check of a stream at admission: the index items must lie in the index tile (R171, R196). -/
def smCheck (b : Job) (t ix : Option Tile) : Nat :=
  match t with
  | none => jcHandle
  | some t =>
    if isIndexed b.opc && !(ix.any fun x => decide (8 * bits (pword b.pb 6) 0 26 + b.n * smIxBits b.pb ≤ 8 * x.byteLen)) then jcHandle
    else if smRing b.pb && (t.byteLen % smEsz b.pb != 0) then jcBounds
    else if !smRing b.pb && decide (t.byteLen < smOff b.pb + b.n * smEsz b.pb) then jcBounds
    else if smIxadd b.pb && b.smBase % (smEsz b.pb : Int) != 0 then jcAlign
    else 0

/-- A stream row: A and B are handles. -/
def Row.streamRow (r : Row) : Fab :=
  let b := { r.newJob with n := smN r.opc r.block }
  r.jobRow (if isIndexed r.opc then [r.a, r.b] else [r.a]) fun f =>
    let h := handleOf r.a.v
    let t := f.tileOf r.e r.c h
    let cause := smCheck b t (f.tileOf r.e r.c (handleOf r.b.v))
    let into := isInbound r.opc
    match t with
    | none => r.enqueue b cause 0 f
    | some t =>
      let lasts := if cause = 0 ∧ !smRing b.pb then lastsOf (fun j => 8 * smTileOff b.pb t j) (8 * smEsz b.pb) b.n else []
      let f := if cause = 0 ∧ into then f.emptyWords r.e r.c t lasts else f
      r.enqueue { b with dst := if into then some h else none, lasts := lasts } cause 28
        (f.useTile r.e h)

/-- An address that is no 48-bit virtual address faults with RANGE (R188). -/
def exactVa (a : Int) : Nat := if a < 0 ∨ 2 ^ 48 ≤ a then 2 ^ 48 else a.toNat

/-- Bytes of G at an exact address, in words: value and poison (R197). -/
def Fab.readG (f : Fab) (e : ElemId) (home : Nat) (c : Ctx) (run : Nat) (va : Nat) (n : Nat) : Except XFault (Nat × Bool) × Fab :=
  ((List.range ((n + 7) / 8)).foldl (fun (r : Except XFault (Nat × Bool) × Fab) i =>
    match r with
    | (.error x, f) => (.error x, f)
    | (.ok (v, p), f) =>
      match f.homeTranslate e home .read (va + 8 * i) with
      | (.error x, f) => (.error ⟨x, va + 8 * i⟩, f)
      | (.ok a, f) =>
        let f := f.fixWord e c run a
        (.ok (v + f.load a (min 8 n) * 2 ^ (64 * i), p || f.poisoned a), f.spliced a)) (.ok (0, false), f))

/-- Bytes of G written at an exact address, word by word; a poison source poisons the word, and `full` sets F (R197). -/
def Fab.writeG (f : Fab) (e : ElemId) (home va n v : Nat) (p full : Bool) : Except XFault Nat × Fab :=
  ((List.range ((n + 7) / 8)).foldl (fun (r : Except XFault Nat × Fab) i =>
    match r with
    | (.error x, f) => (.error x, f)
    | (.ok _, f) =>
      match f.homeTranslate e home .write (va + 8 * i) with
      | (.error x, f) => (.error ⟨x, va + 8 * i⟩, f)
      | (.ok a, f) =>
        let f := if n < 8 then f.fixBit a else f
        let f := f.putBytes a (leBytes (min 8 n) (v / 2 ^ (64 * i)))
        let f := (if p || (decide (n < 8) && f.tag a / 4 % 2 == 1) then f.putPoison a true else f).rewritten a
        (.ok a, if full ∧ a < hostBase then f.putFull a true else f)) (.ok 0, f))

/-- Index j of a gather or scatter (R196). -/
def Fab.smIndex (f : Fab) (e : ElemId) (b : Job) (j : Nat) : Except XFault Nat × Fab :=
  match f.tileOf e b.c (handleOf b.b.v) with
  | none => (.ok 0, f)
  | some t =>
    let w := smIxBits b.pb
    match f.readBits e b.c b.run t (8 * bits (pword b.pb 6) 0 26 + j * w) w with
    | (.ok (v, _), f) => (.ok v, f)
    | (.error x, f) => (.error x, f)

/-- Is element j the first, or the last, of its tile word in the job's order? -/
def smFirstOfWord (b : BitVec 256) (j : Nat) : Bool := j == 0 || (smOff b + j * smEsz b) % 8 == 0
def smLastOfWord (b : BitVec 256) (n j : Nat) : Bool := j + 1 == n || (smOff b + (j + 1) * smEsz b) % 8 == 0

/-- The G word that element j of STRMO or SCAT writes; none for an index at or above the limit, or one that cannot be read. -/
def Fab.gWord (f : Fab) (e : ElemId) (b : Job) (j : Nat) : Option Int :=
  if !isIndexed b.opc then some (b.smAddr j / 8)
  else match (f.smIndex e b j).1 with
    | .ok x => if pword b.pb 5 ≠ 0 ∧ pword b.pb 5 ≤ x then none else some ((b.smBase + (x : Int) * smStride b.pb 4) / 8)
    | .error _ => none

/-- Is element j the job's last in its G word (R197)? -/
def Fab.gLast (f : Fab) (e : ElemId) (b : Job) (j : Nat) : Bool :=
  let w := f.gWord e b j
  !((List.range b.n).any fun i => decide (j < i) && f.gWord e b i == w)

/-- Does element IDX of a ring wait: the word that it is the first of is not in the state it needs, or the word's F change still waits for a
cinch (R197, R238)? -/
def Fab.ringWaits (f : Fab) (e : ElemId) (b : Job) : Bool :=
  streamOp b.opc && smRing b.pb && smFirstOfWord b.pb b.idx &&
    (match f.tileOf e b.c (handleOf b.a.v) with
      | none => false
      | some t =>
        let words (i : Nat) : List Nat := wordsOf (8 * smTileOff b.pb t i) (8 * smEsz b.pb)
        (words b.idx).any fun w => f.wordF e t w == isInbound b.opc || b.fpend.any fun p => (words p.2).contains w)

/-- The home die of a stream: the one that HOME names, or that of the first address; a gather or scatter's first address is its base (R184;
log 41). -/
def Job.home (b : Job) : Nat :=
  match bits (pword b.pb 1) 20 2 with
  | 1 => 0
  | 2 => 1
  | _ => ((if isIndexed b.opc then b.smBase else b.smAddr 0) / 2 ^ 11 % 2).toNat

/-- May a stream take an engine of its home die: fewer than 32 are taken there, and no job that arrived earlier waits for one (R13, R198)? -/
def Fab.engineFree (f : Fab) (e : ElemId) (b : Job) : Bool :=
  let js := (f.elems.flatMap fun (x, el) => el.sq.toList.map fun y => (x, y)).filter fun (_, y) =>
    y.live && streamOp y.opc && (y.st == .running || y.st == .stopped) && y.home == b.home
  decide ((js.filter fun p => p.2.begun).length < 32) &&
    js.all fun (x, y) => y.begun || !decide (y.next ≤ f.clock) ||
      !decide (y.arr < b.arr ∨ (y.arr = b.arr ∧ (x < e ∨ (x = e ∧ y.seq < b.seq))))

/-- Element j of a stream, gather or scatter. -/
def Fab.streamStep (f : Fab) (e : ElemId) (j : Fin 4) (b : Job) (i : Nat) : Moved :=
  match f.tileOf e b.c (handleOf b.a.v) with
  | none => .abort jcHandle
  | some t =>
    let esz := smEsz b.pb
    let off := smTileOff b.pb t i
    let into := isInbound b.opc
    let words := wordsOf (8 * off) (8 * esz)
    let taken (f : Fab) : Fab := if smTake b.pb && smLastOfWord b.pb b.n i then words.foldl (fun f w => f.setWordF e b.c t w false) f else f
    if f.ringWaits e b then .wait
    else
      let ix : Except XFault Nat × Fab := if isIndexed b.opc then f.smIndex e b i else (.ok 0, f)
      match ix with
      | (.error x, _) => .fault x true
      | (.ok idx, f) =>
        let limit := pword b.pb 5
        let oor := isIndexed b.opc && limit != 0 && decide (limit ≤ idx)
        let g : Int := if isIndexed b.opc then b.smBase + (idx : Int) * smStride b.pb 4 else b.smAddr i
        let f := if oor then f.modJob e j fun b => { b with oor := true } else f
        if into then
          let rd : Except XFault (Nat × Bool) × Fab :=
            if oor then (.ok (0, true), f) else f.readG e b.home b.c b.run (exactVa g) esz
          match rd with
          | (.error x, _) => .fault x false
          | (.ok (v, p), f) =>
            match f.writeBits e b.c t (8 * off) (8 * esz) v p with
            | (.error x, _) => .fault x false
            | (.ok _, f) => .ok f
        else if oor then .ok (taken f)
        else
          match f.readBits e b.c b.run t (8 * off) (8 * esz) with
          | (.error x, _) => .fault x false
          | (.ok (v, p), f) =>
            match f.writeG e b.home (exactVa g) esz v p (f.gLast e b i) with
            | (.error x, _) => .fault x false
            | (.ok _, f) => .ok (taken f)

/-! ### XFER and MIRR (R211, R212) -/

/-- Fields of an XFER block: source and destination offsets, length, final full. -/
def xfRemote (b : BitVec 256) : Bool := (pword b 3).testBit 13
def xfFull (b : BitVec 256) : Bool := !(pword b 3).testBit 14
def xfVa (b : BitVec 256) : Nat := pword b 4 + bits (pword b 5) 0 16 * 2 ^ 32

/-- The rank of a job's flits, by the class of its block (R214). -/
def Job.berylRank (b : Job) (e : ElemId) : Nat :=
  Machine.berylRank (if b.opc = 0x96 then bits (pword b.pb 3) 8 5 else bits (pword b.pb 2) 0 5) b.arr e

/-- The name of a job on Beryl: its element and slot. -/
def Fab.jobId (f : Fab) (e : ElemId) (b : Job) : Nat :=
  4 * e + (([0, 1, 2, 3] : List (Fin 4)).find? fun j => (f.job e j).live && (f.job e j).seq == b.seq).elim 0 (·.val)

/-- XFER's row. -/
def Row.xferRow (r : Row) : Fab :=
  let pb := r.block
  let b := { r.newJob with n := pword pb 2 / 8 }
  let remote := xfRemote pb
  r.jobRow (if remote then [r.a] else [r.a, r.b]) fun f =>
    let src := f.tileOf r.e r.c (handleOf r.a.v)
    let dh := handleOf r.b.v
    let dst := f.tileOf r.e r.c dh
    let fits (t : Tile) (o : Nat) : Bool := decide (o + pword pb 2 ≤ t.byteLen)
    let cause := match src, dst with
      | none, _ => jcHandle
      | some s, d =>
        if !remote && d.isNone then jcHandle
        else if !fits s (bits (pword pb 0) 0 26) || (!remote && !(d.all fun d => fits d (bits (pword pb 1) 0 26))) then jcBounds
        else if remote && !f.beryl.up then jcLink
        else 0
    let lasts := lastsOf (fun j => 8 * (bits (pword pb 1) 0 26 + 8 * j)) 64 b.n
    let f := match dst with
      | some d => if cause = 0 ∧ !remote then f.emptyWords r.e r.c d lasts else f
      | none => f
    r.enqueue { b with dst := if remote then none else some dh, lasts := if remote then [] else lasts, rate := 64 } cause 28 f

/-- Word j of an XFER. -/
def Fab.xferStep (f : Fab) (e : ElemId) (b : Job) (j : Nat) : Moved :=
  match f.tileOf e b.c (handleOf b.a.v) with
  | none => .abort jcHandle
  | some s =>
    match f.readBits e b.c b.run s (8 * (bits (pword b.pb 0) 0 26 + 8 * j)) 64 with
    | (.error x, _) => .fault x false
    | (.ok (v, p), f) =>
      if xfRemote b.pb then
        if f.beryl.up then
          .ok (f.berylSend (b.berylRank e) (.xfer (f.jobId e b) (xfVa b.pb + 8 * j) (BitVec.ofNat 64 v) p (xfFull b.pb)))
        else .abort jcLink
      else match f.tileOf e b.c (handleOf b.b.v) with
        | none => .abort jcHandle
        | some d =>
          match f.writeBits e b.c d (8 * (bits (pword b.pb 1) 0 26 + 8 * j)) 64 v p with
          | (.error x, _) => .fault x false
          | (.ok _, f) => .ok f

/-- MIRR's row: the tile's words are read and sent one after another (R212). -/
def Row.mirrRow (r : Row) : Fab :=
  let b := r.newJob
  r.jobRow [r.a] fun f =>
    match f.tileOf r.e r.c (handleOf r.a.v) with
    | none => r.enqueue b jcHandle 0 f
    | some t =>
      let cause := if f.beryl.ssize / 2 - 64 < t.byteLen then jcBounds else if !f.beryl.up then jcLink else 0
      r.enqueue { b with n := (t.byteLen + 7) / 8, rate := 64 } cause 28 f

/-- A mirror slot and cut number of a MIRR's block. -/
def mirrSlot (b : BitVec 256) : Nat := bits (pword b 0) 0 10
def mirrCut (b : BitVec 256) : W32 := BitVec.ofNat 32 (pword b 1)

/-- Bytes of word i of a byte string of a length. -/
def lastBytes (len i : Nat) : Nat := min 8 (len - 8 * i)

/-- Word j of a MIRR, sent at once: the first behind the beginning of the copy, the last before its end (R212, R214). -/
def Fab.mirrStep (f : Fab) (e : ElemId) (j : Fin 4) (b : Job) (i : Nat) : Moved :=
  match f.tileOf e b.c (handleOf b.a.v) with
  | none => .abort jcHandle
  | some t =>
    if !f.beryl.up then .abort jcLink
    else match f.readBits e b.c b.run t (64 * i) 64 with
      | (.error x, _) => .fault x false
      | (.ok (v, p), f) =>
        let ws := b.extra ++ [v]
        let m := mirrSlot b.pb
        let c := mirrCut b.pb
        let rank := b.berylRank e
        let f := f.modJob e j fun b => { b with extra := ws }
        let f := if i = 0 then f.berylSend rank (.mirrorBegin m c) else f
        let f := f.berylSend rank (.mirrorWord m c i (leBytes (lastBytes t.byteLen i) v) p)
        .ok (if i + 1 < b.n then f
          else f.berylSend rank (.mirrorEnd m c (dieOf e) (xOf e) (yOf e) t.byteLen
            (crc32c ((ws.flatMap (leBytes 8)).take t.byteLen))))

end Sys2Proof.Machine
end

