-- ==== Sys2Proof/Machine/Convert.lean ====
section
/-! DEFINITION. Elements of tiles as the half-chains, the matrix node and the masked operations read and write them: plain,
block-scaled, codebook and fibre elements (spec 03_numbers R64, R65, R72-R77, 11_transform R271-R273, R278-R283). -/

namespace Sys2Proof.Machine

/-! ### Reading in sequence -/

/-- What follows a read that did not fault. -/
def bindX {α β : Type} (r : Except XFault α × Fab) (g : α → Fab → Except XFault β × Fab) : Except XFault β × Fab :=
  match r with
  | (.ok a, f) => g a f
  | (.error x, f) => (.error x, f)

/-- One read for each item of a list, in order. -/
def readMany {α β : Type} (g : α → Fab → Except XFault β × Fab) : List α → Fab → Except XFault (List β) × Fab
  | [], f => (.ok [], f)
  | a :: as, f => bindX (g a f) fun b f => bindX (readMany g as f) fun bs f => (.ok (b :: bs), f)

/-- Items written in order: bit place, width, value, poison. -/
def Fab.writeAll (f : Fab) (e : ElemId) (c : Ctx) (t : Tile) : List (Nat × Nat × Nat × Bool) → Except XFault Unit × Fab
  | [] => (.ok (), f)
  | (bo, w, v, p) :: xs => bindX (f.writeBits e c t bo w v p) fun _ f => f.writeAll e c t xs

/-! ### Elements (R64, R65) -/

/-- An element as it is read: the scalar type and container it has, if it has one, its exact value without the fb4 tensor scale, its
poison. -/
structure Elt where
  ty : Ty := .untyped
  v : W32 := 0
  x : Num := .fin false 0 1
  p : Bool := false

/-- An element of a plain type by its code. -/
def scalarElt (ty : Ty) (code : Nat) (p : Bool) : Elt :=
  let v := readContainer ty (BitVec.ofNat 32 code)
  { ty := ty, v := v, p := p, x := match fmtOf ty with
      | some g => g.read v
      | none => Num.ofInt (intValue ty v) }

/-- The component type of a codebook format. -/
def vqTy (t : Ty) : Ty := if t = .vq4b then .bf16 else .fp8e4

/-- Place of a component of a codebook entry in an element's codebook SRAM (R50). -/
def cbkPlace (e : ElemId) (ty : Ty) (cb entry comp : Nat) : Nat :=
  cbkBase e + (if ty = .bf16 then 2048 * cb + 8 * entry + 2 * comp else 1024 * cb + 4 * entry + comp)

/-- The address whose tag holds the poison of a codebook entry (R281). -/
def cbkTag (e : ElemId) (ty : Ty) (cb entry : Nat) : Nat := 2 ^ 46 + 8 * (cbkPlace e ty cb entry 0 - cbkBase 0)

/-- A component of a codebook entry. -/
def Fab.cbElt (f : Fab) (e : ElemId) (ty : Ty) (cb entry comp : Nat) : Elt :=
  scalarElt ty (f.load (cbkPlace e ty cb entry comp) (widthOf ty / 8)) (f.poisoned (cbkTag e ty cb entry))

/-- Does a context's image own a codebook in a format (R280)? -/
def Share.ownsCb (sh : Share) (ty : Ty) (cb : Nat) : Bool := sh.cbs.any fun (n, t, _) => n == cb && t == ty

/-- Item n of a tile in the order of its layout; a codebook format is looked up where `vq` says so. -/
def Fab.readElt (f : Fab) (e : ElemId) (c : Ctx) (run : Nat) (t : Tile) (vq : Bool) (cb n : Nat) : Except XFault Elt × Fab :=
  if isBlock t.fmt then
    let w := elemBits t.fmt
    bindX (f.readBits e c run t (n * w) w) fun (v, p) f =>
      bindX (f.readBits e c run t (t.scaleAt n).1 (t.scaleAt n).2) fun (s, q) f =>
        (.ok { x := blockElem t.fmt (scaleValue t.fmt s) v, p := p || q }, f)
  else if isVq t.fmt && vq then
    bindX (f.readBits e c run t (n / 4 * 8) 8) fun (v, p) f =>
      let x := f.cbElt e (vqTy t.fmt) cb v (n % 4)
      (.ok { x with p := x.p || p }, f)
  else
    bindX (f.readBits e c run t (n * t.itemBits) t.itemBits) fun (v, p) f =>
      (.ok (if t.fibre || isVq t.fmt then { ty := if t.fibre then .fib else t.fmt, v := BitVec.ofNat 32 v, p := p }
        else scalarElt t.fmt v p), f)

/-- The words of a tile that an element is read from. -/
def Tile.srcWords (t : Tile) (n : Nat) : List Nat :=
  let item := if isVq t.fmt then wordsOf (n / 4 * 8) 8 else wordsOf (n * t.itemBits) t.itemBits
  if isBlock t.fmt then item ++ wordsOf (t.scaleAt n).1 (t.scaleAt n).2 else item

/-- The item at a logical index, counted along rows (R271). -/
def Tile.at (t : Tile) (i : Nat) : Nat := t.index (i / max t.cols 1) (i % max t.cols 1)

/-! ### The load half-chain's dequantise stage (R272) -/

/-- Does a float type hold every value of another? -/
def holdsAll (src dst : Fmt) : Bool :=
  let sub (g : Fmt) : Int := 1 - (g.bias : Int) - g.m
  decide (src.m ≤ dst.m) && decide (sub dst ≤ sub src) && !((dst.value dst.maxCode).lt (src.value src.maxCode)) &&
    (!src.ieee || dst.ieee) && (src.nan.isNone || dst.nan.isSome)

/-- Is OUT legal for elements of a type? -/
def outOk (src out : Ty) : Bool :=
  if isBlock src then isF3 out
  else src == out ||
    (match fmtOf src, fmtOf out with
      | some a, some b => holdsAll a b
      | _, _ => isInt src && out == (if isSigned src then .i32 else .n32))

/-- An element in type OUT, with its flags: block elements are rounded once in rne with their scales, others convert exactly; a signalling
NaN sets NV (R70, R71). -/
def loadElt (out : Ty) (t : Tile) (x : Elt) : W32 × Flags :=
  if isBlock t.fmt then
    let ts := if t.fmt = .fb4 then Fmt.fp32.value t.tscale.toNat else .fin false 1 1
    let (v, bad) := Num.mul x.x ts
    let g := (fmtOf out).getD .fp32
    let (c, fl) := g.round .rne false 0 v
    (g.pack c, { fl with nv := fl.nv || bad || x.x.isSig || ts.isSig })
  else if x.ty = out then (x.v, {})
  else let o := convTo x.ty out .rne false 0 x.v; (o.v, o.fl)

/-- Position in its input of output element j of the transpose stage: groups of t² elements (R272). -/
def transposed (t j : Nat) : Nat :=
  if t = 0 then j else let p := j % (t * t); j / (t * t) * (t * t) + (p % t * t + p / t)

/-! ### The store half-chain's quantise stage (R273) -/

/-- What a store half-chain needs: rounding mode and saturation, the LFSR as it goes on. -/
structure Quant where
  rm : RM := .rne
  sat : Bool := false
  l : BitVec 16 := 1

/-- A scalar converted to a scalar format: code, flags, LFSR; an element already in the format passes unchanged. -/
def Quant.scalar (q : Quant) (dst src : Ty) (v : W32) : Nat × Flags × BitVec 16 :=
  if dst = src then (v.toNat % 2 ^ widthOf dst, {}, q.l)
  else
    let o := convTo src dst q.rm q.sat q.l.toNat v
    (o.v.toNat % 2 ^ widthOf dst, o.fl, if o.draw then lfsrAfter q.rm q.l else q.l)

/-- Scalars converted one after another; a poisoned one passes unchanged, without flags and without a draw (R71, R86). -/
def Quant.list (q : Quant) (dst src : Ty) : List (W32 × Bool) → List Nat × Flags × BitVec 16
  | [] => ([], {}, q.l)
  | (v, p) :: vs =>
    let (c, fl, l) := if p then (v.toNat % 2 ^ widthOf dst, {}, q.l) else q.scalar dst src v
    let (cs, fls, l) := ({ q with l := l } : Quant).list dst src vs
    (c :: cs, fl.or fls, l)

/-- Writes of scalar elements of one type at items of a tile, in order: each converted, or each block quantised from its own values, its
scale and elements poisoned with any of them. Flags and the LFSR after them. `ns` are the items, blocks whole and in order. -/
def quantWrites (q : Quant) (t : Tile) : Nat → List (Nat × Elt) → List (Nat × Nat × Nat × Bool) × Flags × BitVec 16
  | 0, _ => ([], {}, q.l)
  | fuel + 1, xs =>
    match xs with
    | [] => ([], {}, q.l)
    | (n, x) :: rest =>
      if isBlock t.fmt then
        let m := blockOf t.fmt
        let blk := xs.take m
        let p := blk.any fun y => y.2.p
        let (sc, cs, fl, l) := quantBlock t.fmt q.rm q.l (Fmt.fp32.value t.tscale.toNat) (blk.map fun y => if y.2.p then .fin false 0 1 else y.2.x)
        let w := elemBits t.fmt
        let here := ((t.scaleAt n).1, (t.scaleAt n).2, sc, p) :: ((blk.map (·.1)).zip cs).map fun (i, code) => (i * w, w, code, p)
        let (more, fls, l) := quantWrites { q with l := l } t fuel (xs.drop m)
        (here ++ more, fl.or fls, l)
      else
        let (code, fl, l) := if x.p then (x.v.toNat % 2 ^ t.itemBits, {}, q.l) else q.scalar t.fmt x.ty x.v
        let (more, fls, l) := quantWrites { q with l := l } t fuel rest
        ((n * t.itemBits, t.itemBits, code, x.p) :: more, fl.or fls, l)

/-! ### Fibres (R256, R282, R283) -/

/-- The tokens of a fibre row before its end mark: coordinate, value, poison. -/
def Fab.fibreRow (f : Fab) (e : ElemId) (c : Ctx) (run : Nat) (t : Tile) (row : Nat) :
    Nat → Nat → Except XFault (List (Nat × Nat × Bool)) × Fab
  | 0, _ => (.ok [], f)
  | n + 1, i =>
    bindX (f.readBits e c run t ((row * t.cols + i) * 32) 32) fun (v, p) f =>
      if v / 2 ^ 16 = 0xFFFF then (.ok [], f)
      else bindX (f.fibreRow e c run t row n (i + 1)) fun xs f => (.ok ((v / 2 ^ 16, v % 2 ^ 16, p) :: xs), f)

/-- The part of a fibre before its first malformed token, and whether there is one: coordinates rise strictly and lie below K. -/
def fibreGood (k : Nat) : Nat → List (Nat × Nat × Bool) → List (Nat × Nat × Bool) × Bool
  | _, [] => ([], false)
  | lo, (x, v, p) :: ts =>
    if x < lo ∨ k ≤ x then ([], true) else let (g, bad) := fibreGood k (x + 1) ts; ((x, v, p) :: g, bad)

/-- The writes of a fibre row: tokens that fit, then end marks. -/
def fibreWrites (t : Tile) (row : Nat) (ts : List (Nat × Nat × Bool)) : List (Nat × Nat × Nat × Bool) :=
  (List.range t.cols).map fun i =>
    match ts[i]? with
    | some (k, v, p) => ((row * t.cols + i) * 32, 32, k * 2 ^ 16 + v, p)
    | none => ((row * t.cols + i) * 32, 32, 0xFFFF0000, false)

/-- Does a value of a fibre's type count as zero: +0, −0, integer 0 (R282)? -/
def fibreZero (ty : Ty) (v : Nat) : Bool := if isFloat ty then v % 2 ^ 15 == 0 else v == 0

end Sys2Proof.Machine
end

