-- ==== Sys2Proof/Machine/Routing.lean ====
section
/-! DEFINITION. Control and routing instructions: steering, merging, gating, counters, context choice, queries, delay, arms
(spec 06_routing R147-R163). Each has an attempt that answers nothing where the row is not issuable, so that what a row does and
whether it may issue are one definition. -/

namespace Sys2Proof.Machine

/-- The predicate read through cin: value and poison; (0, clear) with cin = 0; nothing when the edge lane is empty (R147, R150). -/
def Row.predicate (r : Row) : Option (Bool × Bool) := if r.cin = 0 then some (false, false) else r.pred r.cin

/-- The fabric after the row's predicate is consumed; a poisoned one is a poison-consumed event (R151, R355). -/
def Row.takeP (r : Row) (pp : Bool) (f : Fab) : Fab :=
  let f := f.takePred r.e r.c r.cin
  if pp then f.poisonConsumed r.e r.c causeCtlpoison (poisonOf causeCtlpoison r.e) else f

/-- The link destinations of the row. -/
def Row.outLinks (r : Row) : BitVec 4 := Route.links r.wr.route

/-- What stands at an operand: a value source, a lane in discard, nothing, an EOS, or data. -/
inductive Head where
  | value | discard | none | eos | data
  deriving DecidableEq, Repr

/-- What stands at an operand that names a lane or a value source. -/
def Row.headOf (r : Row) (l : Option LaneNo) : Head :=
  match l with
  | Option.none => .value
  | some l =>
    if r.discarding l then .discard
    else match r.head l with
      | Option.none => .none
      | some t => if t.kind = .eos then .eos else .data

/-- EOS taken from some lanes and one EOS pushed on each link of a mask, where the mask and the control outputs have room (R139, R141). -/
def Row.eosOn (r : Row) (ls : List LaneNo) (m : BitVec 4) : Option Fab :=
  if r.room m && r.ctlRoom r.cout then some ((r.f.popLanes r.e r.c ls).pushMask r.e r.c r.sh m eosToken) else none

/-- A result delivered by a row of this chapter; ESR and EMR stay (R149). -/
def Row.give (r : Row) (t : TV) (f : Fab) : Fab := r.finish f t 0 r.sl.emr

/-- A control value delivered to the destinations and pushed on cout; a poisoned one with its payload (R149, R151). -/
def Row.giveV (r : Row) (v : Bool) (pay : Option W32) (f : Fab) : Fab :=
  let ty := r.resTy .i32
  let f := f.pushCtlMask r.e r.c r.cout (v && pay.isNone) pay.isSome
  match pay with
  | some x => r.give ⟨x, true, ty⟩ f
  | none => r.give ⟨bit 32 v, false, ty⟩ f

/-- A query value delivered (R161). -/
def Row.giveN (r : Row) (v : W32) : Fab := r.give ⟨v, false, r.resTy .n32⟩ r.taken

/-- The data result of a row that passes a value, under its predicate's poison (R151). -/
def Row.pass (r : Row) (t : TV) (pp : Bool) : TV := underPoison pp r.e t

/-- An operand's head taken unless the route word peeks it. -/
def Row.takeA (r : Row) (f : Fab) : Fab :=
  if r.wr.route.mode = 1 then f else f.popLanes r.e r.c r.laneA.toList
/-- B's head taken unless peeked. -/
def Row.takeB (r : Row) (f : Fab) : Fab :=
  if r.wr.route.mode = 2 then f else f.popLanes r.e r.c r.laneB.toList

/-! ### STEER, MERGE, MERGEA (R152-R154) -/

/-- STEER (R152). -/
def Row.steer (r : Row) : Option Fab :=
  let falseMask := fld r.op 0 4
  match r.headOf r.laneA with
  | .discard | .none => none
  | .eos => r.eosOn r.laneA.toList (r.outLinks ||| falseMask)
  | _ =>
    match r.predicate with
    | none => none
    | some (v, pp) =>
      let p := v && !pp
      if r.room (r.outLinks ||| falseMask) && r.ctlRoom r.cout && r.recRoom then
        let t := r.pass (r.armed r.a) pp
        let f := (r.takeA (r.takeP pp r.f)).pushCtlMask r.e r.c r.cout p pp
        let f := r.record true (bit 32 p) pp f
        some (if p then r.give t f
          else (f.pushMask r.e r.c r.sh falseMask fun ty => linkToken ty t).modSlot r.e r.c (writeFb t))
      else none

/-- The row of R142 for two arms, the predicate consumed first where asked (R153). -/
def Row.strmOn (r : Row) (drop : Option LaneNo) (takeP : Bool) : Option Fab :=
  match drop with
  | none => none
  | some l =>
    if r.room r.outLinks && r.ctlRoom r.cout && (!takeP || r.recRoom) then
      match takeP, r.predicate with
      | true, some (v, pp) =>
        let f := r.record true (bit 32 (v && !pp)) pp (r.takeP pp r.f)
        some (({ r with f := f } : Row).strmlen l)
      | _, _ => some (r.strmlen l)
    else none

/-- MERGE (R153). An arm in discard is no partner, and a value source never meets EOS: the other arm's EOS is then forwarded by the
one-source rule. -/
def Row.merge (r : Row) : Option Fab :=
  let ha := r.headOf r.laneA
  let hb := r.headOf r.laneB
  let both := (r.laneA.toList ++ r.laneB.toList).eraseDups
  let named (p pp : Bool) : Option Fab :=
    let (hn, ho, ln, lo, t) := if p then (ha, hb, r.laneA, r.laneB, r.a) else (hb, ha, r.laneB, r.laneA, r.b)
    match hn, ho with
    | .discard, _ | .none, _ | _, .discard => none
    | .eos, .value => r.eosOn ln.toList r.outLinks
    | .eos, .data => r.strmOn lo true
    | .eos, _ => none
    | _, _ =>
      if r.room r.outLinks && r.ctlRoom r.cout && r.recRoom then
        let f := r.takeP pp r.f
        let f := if p then r.takeA f else r.takeB f
        let f := f.pushCtlMask r.e r.c r.cout p pp
        some (r.give (r.pass (r.armed t) pp) (r.record true (bit 32 p) pp f))
      else none
  match ha, hb with
  | .eos, .eos => r.eosOn both r.outLinks
  | .eos, .discard => r.eosOn r.laneA.toList r.outLinks
  | .discard, .eos => r.eosOn r.laneB.toList r.outLinks
  | _, _ =>
    match r.predicate with
    | none => none
    | some (v, pp) => named (v && !pp) pp

/-- MERGEA (R154). -/
def Row.mergea (r : Row) : Option Fab :=
  let ha := r.headOf r.laneA
  let hb := r.headOf r.laneB
  let both := (r.laneA.toList ++ r.laneB.toList).eraseDups
  let go (isA : Bool) : Option Fab :=
    if r.room r.outLinks && r.ctlRoom r.cout then
      let f := if isA then r.takeA r.f else r.takeB r.f
      some (r.give (r.armed (if isA then r.a else r.b)) (f.pushCtlMask r.e r.c r.cout isA false))
    else none
  let since (l : Option LaneNo) : Nat := match l with
    | some l => (r.sl.lane l).headAt
    | none => 0
  match ha, hb with
  | .eos, .eos => r.eosOn both r.outLinks
  | .eos, .discard => r.eosOn r.laneA.toList r.outLinks
  | .discard, .eos => r.eosOn r.laneB.toList r.outLinks
  | .data, .data => go (since r.laneA ≤ since r.laneB)
  | .data, .none => go true
  | .none, .data => go false
  | .eos, .data => if since r.laneA ≤ since r.laneB then r.strmOn r.laneB false else go false
  | .data, .eos => if since r.laneB < since r.laneA then r.strmOn r.laneA false else go true
  | _, _ => none

/-! ### GATE, DROP, CEMIT, CTEST (R155, R156) -/

/-- The predicate that GATE, DROP and EOSE act on: a poisoned one acts (R151). -/
def Row.actP (r : Row) (v pp : Bool) : Bool := if pp then !r.op.getLsbD 0 else v

/-- GATE (R155). -/
def Row.gate (r : Row) : Option Fab :=
  match r.headOf r.laneA with
  | .eos => r.eosOn r.laneA.toList r.outLinks
  | ha =>
    match r.predicate with
    | none => none
    | some (v, pp) =>
      let p := r.actP v pp
      let pass := p != r.op.getLsbD 0
      if (!pass || (ha != .none && ha != .discard)) && r.room r.outLinks && r.ctlRoom r.cout && r.recRoom then
        let f := (r.takeP pp r.f).pushCtlMask r.e r.c r.cout p pp
        let f := r.record true (bit 32 p) pp f
        some (if pass then r.give (r.pass (r.armed r.a) pp) (r.takeA f) else f)
      else none

/-- DROP (R155). -/
def Row.dropRow (r : Row) : Option Fab :=
  let ha := r.headOf r.laneA
  match r.predicate with
  | none => none
  | some (v, pp) =>
    let p := r.actP v pp
    let acts := r.cin = 0 || p != r.op.getLsbD 0
    if (!acts || (ha != .none && ha != .discard)) && r.ctlRoom r.cout then
      let f := r.takeP pp r.f
      let f := if r.cin = 0 then f else f.pushCtlMask r.e r.c r.cout p pp
      some (if acts then f.popLanes r.e r.c r.laneA.toList else f)
    else none

/-- CEMIT (R156). -/
def Row.cemit (r : Row) : Option Fab :=
  match r.headOf r.laneA with
  | .discard | .none => none
  | .eos => r.eosOn r.laneA.toList r.outLinks
  | _ =>
    match r.predicate with
    | none => none
    | some (v, pp) =>
      if r.room r.outLinks && r.ctlRoom r.cout then
        let f := r.takeA (r.takeP pp r.f)
        some (if r.cin ≠ 0 then r.giveV v (if pp then some (poisonOf causeCtlpoison r.e) else none) f
          else if r.wr.route.a = 15 then r.giveV (r.op.getLsbD 0) none f
          else r.giveV (r.a.v != 0) (if r.a.p then some r.a.v else none) f)
      else none

/-- The condition of CTEST on a 32-bit value (R156). -/
def ctestCond (imm8 : Nat) (a : W32) : Bool :=
  let n := imm8 % 32
  match imm8 / 32 with
  | 0 => a != 0
  | 1 => a == 0
  | 2 => decide (a.toInt < 0)
  | 3 => decide (0 ≤ a.toInt)
  | 4 => decide (0 < a.toInt)
  | 5 => decide (a.toInt ≤ 0)
  | 6 => a.getLsbD n
  | _ => !a.getLsbD n

/-- CTEST (R156). -/
def Row.ctest (r : Row) : Option Fab :=
  match r.headOf r.laneA with
  | .discard | .none => none
  | .eos => r.eosOn r.laneA.toList r.outLinks
  | _ =>
    if r.room r.outLinks && r.ctlRoom r.cout then
      some (r.giveV (ctestCond r.imm8 r.a.v) (if r.a.p then some r.a.v else none) (r.takeA r.f))
    else none

/-! ### CAND, COR, CNOT, EOSE, EOSQ (R157, R158) -/

/-- CAND and COR: two control inputs and a combination (R157). -/
def Row.combine (r : Row) (g : Bool → Bool → Bool) : Option Fab :=
  match r.predicate, r.pred (r.imm8 % 8) with
  | some (v, pp), some (v2, pp2) =>
    if r.room r.outLinks && r.ctlRoom r.cout then
      let f := (r.takeP pp r.f).takePred r.e r.c (r.imm8 % 8)
      let f := if pp2 then f.poisonConsumed r.e r.c causeCtlpoison (poisonOf causeCtlpoison r.e) else f
      some (r.giveV (g v v2) (if pp || pp2 then some (poisonOf causeCtlpoison r.e) else none) f)
    else none
  | _, _ => none

/-- CNOT (R157). -/
def Row.cnot (r : Row) : Option Fab :=
  match r.predicate with
  | some (v, pp) =>
    if r.room r.outLinks && r.ctlRoom r.cout then
      some (r.giveV (!v) (if pp then some (poisonOf causeCtlpoison r.e) else none) (r.takeP pp r.f))
    else none
  | none => none

/-- EOSE (R158). -/
def Row.eose (r : Row) : Option Fab :=
  match r.predicate with
  | some (v, pp) =>
    let acts := r.cin = 0 || r.actP v pp != r.op.getLsbD 0
    if r.room r.outLinks then
      let f := r.takeP pp r.f
      some (if acts then f.pushMask r.e r.c r.sh r.outLinks eosToken else f)
    else none
  | none => none

/-- EOSQ (R158); a poison token at A is an operand (R86, R143). -/
def Row.eosq (r : Row) : Option Fab :=
  match r.headOf r.laneA with
  | .eos | .data =>
    if r.room r.outLinks && r.ctlRoom r.cout then
      let v := r.headOf r.laneA == .eos
      some (r.giveV v (if !v && r.a.p then some r.a.v else none) (if v && r.op.getLsbD 0 then r.f.popLanes r.e r.c r.laneA.toList else r.f))
    else none
  | _ => none

/-! ### Counters (R159) -/

/-- A step of a counter that goes (R159): the counter and v. A limit of 0 stands for 2^32. -/
def Counter.step (k : Counter) : Counter × Bool :=
  if (if k.limit = 0 then 2 ^ 32 else k.limit.toNat) ≤ k.count.toNat + 1 then ({ k with count := 0, wrap := true }, true)
  else ({ k with count := k.count + 1, wrap := false }, false)

/-- CNTS (R159); under a poisoned predicate cout carries 0 with poison (R151). -/
def Row.cnts (r : Row) : Option Fab :=
  match r.predicate with
  | some (v, pp) =>
    if r.room r.outLinks && r.ctlRoom r.cout then
      let i : Fin 4 := Fin.ofNat 4 (r.imm8 % 4)
      let k := r.sl.cnt.get i
      let prev := r.sl.cnt.get (i - 1)
      let go := (r.cin = 0 || (v && !pp)) && (!r.op.getLsbD 2 || prev.wrap)
      let (k', w) := if go then k.step else ({ k with wrap := false }, false)
      let f := (r.takeP pp r.f).modSlot r.e r.c fun s => { s with cnt := s.cnt.set i k' }
      some (r.give ⟨bit 32 w, false, r.resTy .i32⟩ (f.pushCtlMask r.e r.c r.cout w pp))
    else none
  | none => none

/-- CNTI that executes: a poison limit changes nothing and is an event (R159). -/
def Row.cnti (r : Row) : Fab :=
  if r.a.p then r.taken.poisonConsumed r.e r.c (causeOf r.a.v) r.a.v
  else r.taken.modSlot r.e r.c fun s => { s with cnt := s.cnt.set (Fin.ofNat 4 (r.imm8 % 4)) ⟨0, r.a.v, false⟩ }

/-! ### Context choice (R148, R160) -/

/-- The fabric with every element of the row's region changed. -/
def Row.modRegion (r : Row) (g : Elem → Elem) (f : Fab) : Fab := r.cp.elems.foldl (fun f e => f.modElem e g) f

/-- PHASE: the target is a context, a physical slot (R25, R160). -/
def Row.phase (r : Row) : Option Fab :=
  match r.predicate with
  | some (v, pp) =>
    let f := r.takeP pp r.f
    if r.cin = 0 || (v && !pp) then
      let t : Ctx := Fin.ofNat 4 r.imm8
      some (r.modRegion (fun x =>
        let x := if r.op.getLsbD 2 && (x.slot t).run.isSome then x.setSlot t { x.slot t with h := true } else x
        x.setSlot r.c { x.slot r.c with h := false }) f)
    else some f
  | none => none

/-- CTXP (R160). -/
def Row.ctxp (r : Row) : Option Fab :=
  match r.predicate with
  | some (v, pp) =>
    if r.room r.outLinks then
      let f := r.takeP pp r.f
      let f := if r.cin = 0 || (v && !pp) then
        r.modRegion (fun x => x.setSlot r.c { x.slot r.c with lvl := BitVec.ofNat 2 r.imm8 }) f else f
      some (r.give ⟨r.sl.lvl.zeroExtend 32, false, r.resTy .n32⟩ f)
    else none
  | none => none

/-! ### Queries and DLY (R161, R162) -/

/-- A count as 32 bits, saturating. -/
def sat32 (k : Nat) : W32 := BitVec.ofNat 32 (min k (2 ^ 32 - 1))

/-- The value that ROWQ selects. -/
def Row.rowq (r : Row) : W32 :=
  match r.imm8 % 4 with
  | 0 => BitVec.ofNat 32 r.g
  | 1 => BitVec.ofNat 32 (r.g / 2 ^ 32)
  | 2 => sat32 r.cp.stall
  | _ => sat32 r.cp.pre

/-- The value that IOFQ selects. -/
def Row.iofq (r : Row) : W32 :=
  match r.imm8 % 4 with
  | 0 => r.ix
  | 1 => BitVec.ofNat 32 r.copyNo
  | 2 => BitVec.ofNat 32 r.sh.copies
  | _ => r.sh.step

/-- The value that FRMQ selects. -/
def Row.frmq (r : Row) : W32 :=
  let own := r.g - r.sh.stage * r.sh.ii
  BitVec.ofNat 32 (match r.imm8 % 8 with
    | 0 => own / max r.sh.ii 1
    | 1 => r.run.n
    | 2 => r.sh.stage
    | 3 => r.sh.ii
    | 4 => r.sh.stages
    | _ => own % max r.sh.ii 1)

/-- DLY that executes: the oldest value of the queue is delivered and A's takes the last place (R162). -/
def Row.dly (r : Row) : Fab :=
  match r.sl.dly with
  | [] => r.taken
  | x :: xs =>
    r.give ⟨x.v, x.p, r.a.ty⟩ (r.taken.modSlot r.e r.c fun s => { s with dly := xs ++ [⟨r.a.v, r.a.p⟩] })

/-! ### ARMX (R163) -/

/-- The predicate, the op word and the wires of the arm that an ARMX row chooses (R42). -/
def Row.arm (r : Row) : Option (Bool × Bool × BitVec 64) :=
  r.predicate.map fun (v, pp) =>
    let p := v && !pp
    (p, pp, r.sh.arms.getD (2 * (r.imm8 % 8) + (if p then 1 else 0)) 0)

/-- What ARMX itself does once it issues: its predicate is consumed, recorded and pushed on. -/
def Row.armx (r : Row) (p pp : Bool) : Fab :=
  r.record true (bit 32 p) pp ((r.takeP pp r.f).pushCtlMask r.e r.c r.cout p pp)

/-! ### The instructions -/

/-- A row given by its attempt: it changes nothing where it is not issuable. -/
def ocRow (op : BitVec 24) (wr : Wires) (g : Row → Option Fab) : State → Host.Outcome State Fault Refusal :=
  lift fun f => (g (f.rowCtx op wr)).getD f

/-- A row with the plan of R139 and an effect where it executes. -/
def planRow (op : BitVec 24) (wr : Wires) (g : Row → Fab) : State → Host.Outcome State Fault Refusal :=
  lift fun f => let r := f.rowCtx op wr; r.issue r.planDefault (g r)

/-- STEER (R152). -/
def execSteer (c : BitVec 4) (o : BitVec 4) (m : BitVec 4) (wr : Wires) (s : State) : Host.Outcome State Fault Refusal :=
  ocRow (opWord (.steer c o m wr)) wr Row.steer s

/-- MERGE (R153). -/
def execMerge (c : BitVec 4) (o : BitVec 4) (wr : Wires) (s : State) : Host.Outcome State Fault Refusal :=
  ocRow (opWord (.merge c o wr)) wr Row.merge s

/-- MERGEA (R154). -/
def execMergea (o : BitVec 4) (wr : Wires) (s : State) : Host.Outcome State Fault Refusal :=
  ocRow (opWord (.mergea o wr)) wr Row.mergea s

/-- GATE (R155). -/
def execGate (c : BitVec 4) (o : BitVec 4) (m : BitVec 1) (wr : Wires) (s : State) : Host.Outcome State Fault Refusal :=
  ocRow (opWord (.gate c o m wr)) wr Row.gate s

/-- DROP (R155). -/
def execDrop (c : BitVec 4) (o : BitVec 4) (m : BitVec 1) (wr : Wires) (s : State) : Host.Outcome State Fault Refusal :=
  ocRow (opWord (.drop c o m wr)) wr Row.dropRow s

/-- CEMIT (R156). -/
def execCemit (c : BitVec 4) (o : BitVec 4) (m : BitVec 1) (wr : Wires) (s : State) : Host.Outcome State Fault Refusal :=
  ocRow (opWord (.cemit c o m wr)) wr Row.cemit s

/-- CTEST (R156). -/
def execCtest (o : BitVec 4) (m : BitVec 8) (wr : Wires) (s : State) : Host.Outcome State Fault Refusal :=
  ocRow (opWord (.ctest o m wr)) wr Row.ctest s

/-- CAND (R157). -/
def execCand (c : BitVec 4) (o : BitVec 4) (m : BitVec 3) (wr : Wires) (s : State) : Host.Outcome State Fault Refusal :=
  ocRow (opWord (.cand c o m wr)) wr (fun r => r.combine and) s

/-- COR (R157). -/
def execCor (c : BitVec 4) (o : BitVec 4) (m : BitVec 3) (wr : Wires) (s : State) : Host.Outcome State Fault Refusal :=
  ocRow (opWord (.cor c o m wr)) wr (fun r => r.combine or) s

/-- CNOT (R157). -/
def execCnot (c : BitVec 4) (o : BitVec 4) (wr : Wires) (s : State) : Host.Outcome State Fault Refusal :=
  ocRow (opWord (.cnot c o wr)) wr Row.cnot s

/-- EOSE (R158). -/
def execEose (c : BitVec 4) (m : BitVec 1) (wr : Wires) (s : State) : Host.Outcome State Fault Refusal :=
  ocRow (opWord (.eose c m wr)) wr Row.eose s

/-- EOSQ (R158). -/
def execEosq (o : BitVec 4) (m : BitVec 1) (wr : Wires) (s : State) : Host.Outcome State Fault Refusal :=
  ocRow (opWord (.eosq o m wr)) wr Row.eosq s

/-- CNTS (R159). -/
def execCnts (c : BitVec 4) (o : BitVec 4) (m : BitVec 3) (wr : Wires) (s : State) : Host.Outcome State Fault Refusal :=
  ocRow (opWord (.cnts c o m wr)) wr Row.cnts s

/-- PHASE (R160). -/
def execPhase (c : BitVec 4) (m : BitVec 3) (wr : Wires) (s : State) : Host.Outcome State Fault Refusal :=
  ocRow (opWord (.phase c m wr)) wr Row.phase s

/-- CTXP (R160). -/
def execCtxp (c : BitVec 4) (m : BitVec 2) (wr : Wires) (s : State) : Host.Outcome State Fault Refusal :=
  ocRow (opWord (.ctxp c m wr)) wr Row.ctxp s

/-- CNTI (R159). -/
def execCnti (m : BitVec 2) (wr : Wires) (s : State) : Host.Outcome State Fault Refusal :=
  planRow (opWord (.cnti m wr)) wr Row.cnti s

/-- CNTL (R159). -/
def execCntl (m : BitVec 3) (wr : Wires) (s : State) : Host.Outcome State Fault Refusal :=
  planRow (opWord (.cntl m wr)) wr (fun r => let k := r.sl.cnt.get (Fin.ofNat 4 (r.imm8 % 4)); r.giveN (if r.op.getLsbD 2 then k.limit else k.count)) s

/-- ROWQ (R161). -/
def execRowq (m : BitVec 2) (wr : Wires) (s : State) : Host.Outcome State Fault Refusal :=
  planRow (opWord (.rowq m wr)) wr (fun r => r.giveN r.rowq) s

/-- IOFQ (R161). -/
def execIofq (m : BitVec 2) (wr : Wires) (s : State) : Host.Outcome State Fault Refusal :=
  planRow (opWord (.iofq m wr)) wr (fun r => r.give ⟨r.iofq, false, r.resTy (if r.imm8 = 0 then .i32 else .n32)⟩ r.taken) s

/-- FRMQ (R161). -/
def execFrmq (m : BitVec 3) (wr : Wires) (s : State) : Host.Outcome State Fault Refusal :=
  planRow (opWord (.frmq m wr)) wr (fun r => r.giveN r.frmq) s

/-- DLY (R162). -/
def execDly (m : BitVec 4) (wr : Wires) (s : State) : Host.Outcome State Fault Refusal :=
  planRow (opWord (.dly m wr)) wr Row.dly s

/-- ARMX (R163): the chosen arm row issues next, in place of this row; its own rules decide whether the whole row issues (R139). -/
def execArmx (c : BitVec 4) (o : BitVec 4) (m : BitVec 3) (wr : Wires) (s : State) : Host.Outcome State Fault Refusal :=
  let r := s.fab.rowCtx (opWord (.armx c o m wr)) wr
  match r.arm with
  | none => .next s
  | some (p, pp, w) =>
    .next { s with fab := { r.armx p pp with armP := pp }, agenda := .arm r.e r.c w pp :: s.agenda }

end Sys2Proof.Machine
end

