-- ==== Sys2Proof/Machine/TileOps.lean ====
section
/-! DEFINITION. Allocation, release, query and level of tiles, and the rows that hand copies, fills, streams and transfers to queue S
(spec 07_tiles R173-R176, R179, 08_global R194, R204, R210-R212). -/

namespace Sys2Proof.Machine

/-! ### Rows of queue C that complete as they issue -/

/-- A row with an effect after its tokens are taken, and its push. -/
def oxRow (op : BitVec 24) (wr : Wires) (g : Row → Fab) : State → Host.Outcome State Fault Refusal :=
  lift fun f => let r := f.rowCtx op wr; r.issue r.planDefault (r.retireC (g r))

/-- A row handed to queue S, which pushes when its job retires. -/
def jobRowOf (op : BitVec 24) (wr : Wires) (g : Row → Fab) : State → Host.Outcome State Fault Refusal :=
  lift fun f => let r := f.rowCtx op wr; r.issue r.planDefault (g r)

/-- A row whose handle operand may be poison: the result for a valid value, the poison passed on otherwise (R385). -/
def handleRow (op : BitVec 24) (wr : Wires) (changes : Bool) (g : Row → Fab → Fab) : State → Host.Outcome State Fault Refusal :=
  lift fun f =>
    let r := f.rowCtx op wr
    r.issue r.planDefault (match firstPoison [r.a] with
      | some p => r.addrPoison changes p r.taken
      | none => r.retireC (g r r.taken))

/-- An n32 result delivered. -/
def Row.num (r : Row) (v : Nat) (f : Fab) : Fab := r.give ⟨BitVec.ofNat 32 v, false, r.resTy .n32⟩ f

/-! ### TALLOC (R173) -/

/-- The tile that an allocation block asks for. -/
def allocTile (b : BitVec 256) (c : Ctx) (now : Nat) : Tile :=
  { lvl := bits (pword b 1) 0 2, spl := (pword b 0).testBit 31, lay := bits (pword b 0) 29 2, fmt := tyOf (bits (pword b 0) 24 5)
    ctx := c, rows := bits (pword b 0) 0 12 + 1, cols := bits (pword b 0) 12 12 + 1, homeg := bits (pword b 1) 0 2 == 3
    tscale := BitVec.ofNat 32 (pword b 2), loc := pword b 3 + bits (pword b 4) 0 16 * 2 ^ 32, lastUse := now }

/-- The lowest free handle. -/
def Elem.freeHandle (x : Elem) : Option Nat := ((List.range 1024).drop 1).find? fun h => (mget h x.tiles).isNone

/-- Every word of a new tile zero, without poison, full or empty; words whose translation faults stay. -/
def Fab.initTile (f : Fab) (e : ElemId) (t : Tile) (full : Bool) : Fab :=
  (List.range (padTo 8 t.byteLen / 8)).foldl (fun f i =>
    match f.tilePlace e t .write (8 * i) with
    | (.ok a, f) => ((f.putBytes a (List.replicate 8 0)).setTag a (if full then 0 else 1)).spliced a
    | (.error _, f) => f) f

/-- An allocation carried out: handle 0 where no handle or no room is found (R173), with the ticks of its moves. -/
def Fab.alloc (f : Fab) (e : ElemId) (c : Ctx) (b : BitVec 256) : Nat × Nat × Fab :=
  let t := allocTile b c f.clock
  let init := bits (pword b 1) 2 2
  match (f.elem e).freeHandle with
  | none => (0, 0, f)
  | some h =>
    let put (t : Tile) (f : Fab) : Fab := f.modElem e fun x =>
      { x with tiles := mput h t x.tiles, born := (x.born.filter fun p => p.1 == f.clock) ++ [(f.clock, h)] }
    if t.lvl = 3 then
      if init = 2 then (h, 0, put t f) else (h, moveTicks t.byteLen, (put t f).initTile e t (init == 0))
    else
      match f.makeRoom e t.lvl (t.need t.lvl) with
      | none => (0, 0, f)
      | some (a, f, n) =>
        let t := { t with loc := a, len := t.need t.lvl }
        (h, n, (put t f).initTile e t (init == 0))

/-- The result of an allocation delivered, with the row counter of its issue. -/
def Row.allocated (r : Row) (g h : Nat) (f : Fab) : Fab :=
  let f := if h = 0 then f.modSlot r.e r.c fun s => s.raise esrTfull else f
  r.retireAt g (r.finish f ⟨BitVec.ofNat 32 h, false, r.resTy .hdl⟩ 0 r.sl.emr)

/-- TALLOC that executes: at once where nothing moves, else held until the moves are made. -/
def Row.talloc (r : Row) : Fab :=
  let (h, n, f) := r.taken.alloc r.e r.c r.block
  if n = 0 then r.allocated r.g h f
  else (r.taken.hold r.e { r.access with kind := .tile } (r.now + n)).at (r.now + n) 0 (.tileMoveCompletion r.e)

/-! ### TFREE, TQRY, TLEVEL (R174-R176) -/

/-- TFREE's result and effect: the storage is free from the next tick (R174). -/
def Row.tfree (r : Row) (f : Fab) : Fab :=
  let h := handleOf r.a.v
  match f.tileOf r.e r.c h with
  | none => r.num 2 f
  | some t =>
    if f.tileBusy r.e h then r.num 1 f
    else r.num 0 (f.modElem r.e fun x =>
      { x with tiles := mdel h x.tiles, gone := (x.gone.filter fun p => p.1 == f.clock) ++ [(f.clock, t)] })

/-- Free D units of a die at the start of the tick: without the tiles allocated on it (R175). -/
def Fab.dieFree (f : Fab) (d : Nat) : Nat :=
  let g : Fab := { f with elems := f.elems.map fun (e, x) =>
    (e, { x with tiles := x.tiles.filter fun p => !x.born.contains (f.clock, p.1) }) }
  freeUnits 16384 (g.dieUsed d)

/-- The value that TQRY selects. -/
def Row.tqry (r : Row) : Nat :=
  let h := handleOf r.a.v
  let t := r.f.tileOf r.e r.c h
  let of (g : Tile → Nat) : Nat := (t.map g).getD 0
  match r.sub with
  | 0 => of (·.lvl)
  | 1 => of (·.rows)
  | 2 => of (·.cols)
  | 3 => of fun t => t.fmt.ctorIdx + t.lay * 2 ^ 5 + (if t.spl then 2 ^ 7 else 0) + (if r.f.tileBusy r.e h then 2 ^ 8 else 0) +
      (if t.homeg then 2 ^ 9 else 0)
  | 4 | 5 | 6 | 7 => of fun t => bits t.bits.toNat (32 * (r.sub - 4)) 32
  | 8 => freeUnits 384 r.el.used
  | 9 => longestRun 384 r.el.used
  | 10 => r.f.dieFree (dieOf r.e)
  | _ => (if r.var = 2 then r.sl.lastM else r.sl.lastS).toNat

/-- The outcome of a move by TLEVEL: its result, its ticks, the fabric after it. -/
def Fab.levelMove (f : Fab) (e : ElemId) (c : Ctx) (h lvl : Nat) : Nat × Nat × Fab :=
  match f.tileOf e c h with
  | none => (3, 0, f)
  | some t =>
    if t.homeg then (4, 0, f)
    else if f.tileBusy e h then (2, 0, f)
    else if t.lvl = lvl then (0, 0, f)
    else
      let (total, used) := f.storage e lvl
      match firstFit total used (t.need lvl) with
      | none => (1, 0, f)
      | some a => (0, (if lvl < t.lvl then t.lvl - lvl else lvl - t.lvl) * moveTicks t.byteLen, f.moveTile e h lvl a)

/-- TLEVEL that executes. -/
def Row.tlevel (r : Row) (f : Fab) : Fab :=
  let h := handleOf r.a.v
  if r.sub = 0 then
    let (v, n, g) := f.levelMove r.e r.c h r.var
    if n = 0 then r.retireC (r.num v g)
    else (f.hold r.e { r.access with kind := .tile, h := h } (r.now + n)).at (r.now + n) 0 (.tileMoveCompletion r.e)
  else
    r.retireC (match f.tileOf r.e r.c h with
      | none => r.num 3 f
      | some _ => r.num 0 (f.modTile r.e h fun t => { t with spl := r.sub == 1 }))

/-- Does an allocation wait for an access in flight to a tile that it moves (R178)? -/
def Fab.allocWaits (f : Fab) (e : ElemId) (c : Ctx) (b : BitVec 256) : Bool :=
  let t := allocTile b c f.clock
  t.lvl != 3 && (f.elem e).freeHandle.isSome && f.roomWaits e t.lvl (t.need t.lvl)

/-- TILE_MOVE_COMPLETION: the allocation or move of a held row, with its result (R173, R176). -/
def Fab.tileMoved (f : Fab) (e : ElemId) : Fab :=
  match (f.elem e).hold with
  | none => f
  | some x =>
    if x.kind ≠ .tile then f
    else if fld x.op 16 8 = 0x70 && f.allocWaits e x.c (x.row f e).block then f.at (f.clock + 1) 0 (.tileMoveCompletion e)
    else
      let f := f.unhold e
      let r := x.row f e
      if r.opc = 0x70 then let (h, _, f) := f.alloc e x.c r.block; r.allocated x.g h f
      else let (v, _, f) := f.levelMove e x.c x.h r.var; r.retireAt x.g (r.num v f)

/-! ### Progress registers (R181, R199, R204) -/

/-- A progress register's 64 bits. -/
def Job.progress (b : Job) : Nat :=
  let st := match b.st with
    | .idle => 0 | .running => 1 | .stopped => 2 | .done => 3 | .aborted => 4
  st * 2 ^ 61 + b.cause * 2 ^ 56 + b.opc * 2 ^ 48 + b.xcause * 2 ^ 44 + (if b.idxph then 2 ^ 43 else 0) +
    (if b.oor then 2 ^ 42 else 0) + (if b.safe then 2 ^ 41 else 0) + b.idx % 2 ^ 32
/-- The register as SPRG reads it: that of a copy or fill has no fields of R199 (R181, R199). -/
def Job.register (b : Job) : Nat :=
  if b.opc = 0x7A ∨ b.opc = 0x7B then { b with xcause := 0, idxph := false, oor := false, safe := false }.progress else b.progress

/-- SABT's result and effect. -/
def Row.sabt (r : Row) (f : Fab) : Fab :=
  let j : Fin 4 := Fin.ofNat 4 r.var
  match (f.job r.e j).st with
  | .running => r.num 0 (f.abortJob r.e j)
  | .stopped => r.num 0 (f.endJob r.e j .aborted jcAborted)
  | _ => r.num 1 f

/-- SRES's result and effect. -/
def Row.sres (r : Row) (f : Fab) : Fab :=
  let j : Fin 4 := Fin.ofNat 4 r.var
  let b := f.job r.e j
  if b.st ≠ .stopped then r.num 1 f
  else if b.safe then r.num 2 f
  else
    r.num 0 ((f.modJob r.e j fun b => { b with st := .running, cause := 0, xcause := 0, idxph := false }).jobAt r.e j (r.now + 28))

/-- Weights of the four slots for one direction: floors, and the rest by demand, leftover positions by the largest remainder, or to the
lowest slots where there is no demand (R210). -/
def portWeights (users : List (Nat × Nat × Nat)) : List (Nat × Nat) :=
  let rest := 16 - (users.map (·.2.1)).foldl (· + ·) 0
  let total := (users.map (·.2.2)).foldl (· + ·) 0
  let base := users.map fun (i, fl, d) => (i, fl + (if total = 0 then 0 else rest * d / total))
  let left := 16 - (base.map (·.2)).foldl (· + ·) 0
  let order := if total = 0 then users.map (·.1)
    else (users.mergeSort fun a b => decide (rest * b.2.2 % total ≤ rest * a.2.2 % total)).map (·.1)
  base.map fun (i, w) => (i, w + ((List.range left).filter fun k => order.getD (k % max order.length 1) 99 == i).length)

/-- The level of the index tile of a gather or scatter; 0 where there is none. -/
def Fab.indexLevel (f : Fab) (e : ElemId) (b : Job) : Nat :=
  if isIndexed b.opc then ((f.tileOf e b.c (handleOf b.b.v)).map (·.lvl)).getD 0 else 0

/-- Does a job use a direction of the port: 0 inbound for the data of STRMI and GATH, 1 outbound for that of STRMO and SCAT and for indices
read from a tile at E or D (R198)? -/
def Fab.usesPort (f : Fab) (e : ElemId) (dir : Nat) (b : Job) : Bool :=
  if dir = 0 then b.opc == 0x84 || b.opc == 0x86
  else b.opc == 0x85 || b.opc == 0x87 || f.indexLevel e b == 1 || f.indexLevel e b == 2

/-- Does element i of a stream begin a line of G, and so a beat of data (R198)? -/
def Job.dataBeat (b : Job) (i : Nat) : Bool := i == 0 || isIndexed b.opc || b.smAddr i / 64 != b.smAddr (i - 1) / 64

/-- Does element i begin a line of the index tile whose beat has not gone yet? -/
def Fab.indexBeat (f : Fab) (e : ElemId) (b : Job) : Bool :=
  let at_ (i : Nat) : Nat := (bits (pword b.pb 6) 0 26 + i * (if (pword b.pb 3).testBit 0 then 2 else 4)) / 64
  (f.indexLevel e b == 1 || f.indexLevel e b == 2) && b.extra != [b.idx] && (b.idx == 0 || at_ b.idx != at_ (b.idx - 1))

/-- Has a job a beat of a direction ready on this tick: its chains allow its element, and a ring's word is in the state it needs (R197,
R210)? -/
def Fab.beatReady (f : Fab) (e : ElemId) (dir : Nat) (b : Job) : Bool :=
  b.live && b.st == .running && b.next == f.clock && f.usesPort e dir b &&
    (if dir = 1 && f.indexBeat e b then true
     else decide (dir = 0 ↔ isInbound b.opc) && !f.indexBeat e b && b.dataBeat b.idx) &&
    !f.ringWaits e b && b.waves.all (f.chainOk e b.c b.run b.copy b.frame ·)

/-- PORT_WEIGHT_RECOMPUTE: entries 0-7 of the port hold the demand of each slot, inbound then outbound, 8-15 the weights (R210). -/
def Fab.reweighed (f : Fab) (e : ElemId) : Fab :=
  f.modElem e fun x =>
    let users (dir : Nat) : List (Nat × Nat × Nat) :=
      ((List.range 4).filterMap fun i =>
        let b := x.sq.get (Fin.ofNat 4 i)
        if b.live && f.usesPort e dir b then some (i, (fld b.op 0 4).toNat, x.port.get (Fin.ofNat 26 (4 * dir + i))) else none)
    let set (dir : Nat) (ws : List (Nat × Nat)) (v : Vector Nat 26) : Vector Nat 26 :=
      (List.range 4).foldl (fun v i => v.set (Fin.ofNat 26 (8 + 4 * dir + i)) (((ws.find? (·.1 == i)).map (·.2)).getD 0)) v
    { x with port := set 1 (portWeights (users 1)) (set 0 (portWeights (users 0)) x.port) }

/-- The slot that owns a position of a direction's cycle. -/
def Elem.positionOwner (x : Elem) (dir pos : Nat) : Nat :=
  let upTo (i : Nat) : Nat := ((List.range (i + 1)).map fun k => x.port.get (Fin.ofNat 26 (8 + 4 * dir + k))).foldl (· + ·) 0
  ((List.range 4).find? fun i => decide (pos < upTo i)).getD 0

/-- The slot whose beat goes on a tick: the owner of the position, else the first ready one after it (R210). -/
def Fab.beatOf (f : Fab) (e : ElemId) (dir : Nat) : Option Nat :=
  let o := (f.elem e).positionOwner dir (f.clock % 16)
  ([o, o + 1, o + 2, o + 3].map (· % 4)).find? fun i => f.beatReady e dir (f.job e (Fin.ofNat 4 i))

/-- A beat of a direction asked for: counted as demand, and granted or held (R210). -/
def Fab.beat (f : Fab) (e : ElemId) (j : Fin 4) (dir : Nat) : Bool × Fab :=
  let add (v : Vector Nat 26) : Vector Nat 26 :=
    let k := Fin.ofNat 26 (16 + 4 * dir + j.val)
    v.set k (v.get k + 1)
  let ok := (f.elem e).port.get (Fin.ofNat 26 (24 + dir)) != f.clock + 1 && f.beatOf e dir == some j.val
  (ok, f.modElem e fun x => { x with port := if ok then (add x.port).set (Fin.ofNat 26 (24 + dir)) (f.clock + 1) else add x.port })

/-- The beats that the element at IDX needs: that of its index line first, then that of its data; one direction moves one beat a tick (R198,
R210). -/
def Fab.portBeat (f : Fab) (e : ElemId) (j : Fin 4) (b : Job) : Bool × Fab :=
  let data (f : Fab) : Bool × Fab :=
    if streamOp b.opc && b.dataBeat b.idx then f.beat e j (if isInbound b.opc then 0 else 1) else (true, f)
  if !f.indexBeat e b then data f
  else match f.beat e j 1 with
    | (false, f) => (false, f)
    | (true, f) =>
      let f := f.modJob e j fun b => { b with extra := [b.idx] }
      if b.opc = 0x87 then (false, f) else data f

/-- The end of a demand window of an element's port: its demand counts for the weights that follow (R210). -/
def Elem.demandWindow (x : Elem) : Elem :=
  { x with port := (List.range 8).foldl (fun (v : Vector Nat 26) i =>
      (v.set (Fin.ofNat 26 i) (v.get (Fin.ofNat 26 (16 + i)))).set (Fin.ofNat 26 (16 + i)) 0) x.port }

/-! ### The instructions -/

/-- TALLOC (R173). -/
def execTalloc (b : BitVec 6) (w : BitVec 1) (s : BitVec 1) (q : BitVec 2) (wr : Wires) (st : State) : Host.Outcome State Fault Refusal :=
  jobRowOf (opWord (.talloc b w s q wr)) wr Row.talloc st

/-- TFREE (R174). -/
def execTfree (w : BitVec 1) (s : BitVec 1) (q : BitVec 2) (wr : Wires) (st : State) : Host.Outcome State Fault Refusal :=
  handleRow (opWord (.tfree w s q wr)) wr false Row.tfree st

/-- TQRY (R175). -/
def execTqry (w : BitVec 1) (s : BitVec 1) (q : BitVec 2) (v : BitVec 2) (u : BitVec 4) (wr : Wires) (st : State) : Host.Outcome State Fault Refusal :=
  handleRow (opWord (.tqry w s q v u wr)) wr false (fun r f => r.num r.tqry f) st

/-- TLEVEL (R176). -/
def execTlevel (w : BitVec 1) (s : BitVec 1) (q : BitVec 2) (v : BitVec 2) (u : BitVec 4) (wr : Wires) (st : State) : Host.Outcome State Fault Refusal :=
  lift (fun f =>
    let r := f.rowCtx (opWord (.tlevel w s q v u wr)) wr
    r.issue r.planDefault (match firstPoison [r.a] with
      | some p => r.addrPoison false p r.taken
      | none => r.tlevel r.taken)) st

/-- TCOPY (R179). -/
def execTcopy (b : BitVec 6) (w : BitVec 1) (s : BitVec 1) (q : BitVec 2) (wr : Wires) (st : State) : Host.Outcome State Fault Refusal :=
  jobRowOf (opWord (.tcopy b w s q wr)) wr (Row.copyRow · false) st

/-- TFILL (R179). -/
def execTfill (b : BitVec 6) (w : BitVec 1) (s : BitVec 1) (q : BitVec 2) (wr : Wires) (st : State) : Host.Outcome State Fault Refusal :=
  jobRowOf (opWord (.tfill b w s q wr)) wr (Row.copyRow · true) st

/-- STRMI (R194). -/
def execStrmi (b : BitVec 6) (w : BitVec 1) (s : BitVec 1) (q : BitVec 2) (u : BitVec 4) (wr : Wires) (st : State) : Host.Outcome State Fault Refusal :=
  jobRowOf (opWord (.strmi b w s q u wr)) wr Row.streamRow st

/-- STRMO (R194). -/
def execStrmo (b : BitVec 6) (w : BitVec 1) (s : BitVec 1) (q : BitVec 2) (u : BitVec 4) (wr : Wires) (st : State) : Host.Outcome State Fault Refusal :=
  jobRowOf (opWord (.strmo b w s q u wr)) wr Row.streamRow st

/-- GATH (R194). -/
def execGath (b : BitVec 6) (w : BitVec 1) (s : BitVec 1) (q : BitVec 2) (u : BitVec 4) (wr : Wires) (st : State) : Host.Outcome State Fault Refusal :=
  jobRowOf (opWord (.gath b w s q u wr)) wr Row.streamRow st

/-- SCAT (R194). -/
def execScat (b : BitVec 6) (w : BitVec 1) (s : BitVec 1) (q : BitVec 2) (u : BitVec 4) (wr : Wires) (st : State) : Host.Outcome State Fault Refusal :=
  jobRowOf (opWord (.scat b w s q u wr)) wr Row.streamRow st

/-- XFER (R211). -/
def execXfer (b : BitVec 6) (w : BitVec 1) (s : BitVec 1) (q : BitVec 2) (wr : Wires) (st : State) : Host.Outcome State Fault Refusal :=
  jobRowOf (opWord (.xfer b w s q wr)) wr Row.xferRow st

/-- MIRR (R212). -/
def execMirr (b : BitVec 6) (w : BitVec 1) (s : BitVec 1) (q : BitVec 2) (wr : Wires) (st : State) : Host.Outcome State Fault Refusal :=
  jobRowOf (opWord (.mirr b w s q wr)) wr Row.mirrRow st

/-- SPRG (R204). -/
def execSprg (w : BitVec 1) (s : BitVec 1) (q : BitVec 2) (v : BitVec 2) (u : BitVec 4) (wr : Wires) (st : State) : Host.Outcome State Fault Refusal :=
  oxRow (opWord (.sprg w s q v u wr)) wr (fun r => r.num (bits (r.f.job r.e (Fin.ofNat 4 r.var)).register (32 * r.sub) 32) r.taken) st

/-- SABT (R204). -/
def execSabt (w : BitVec 1) (s : BitVec 1) (q : BitVec 2) (v : BitVec 2) (wr : Wires) (st : State) : Host.Outcome State Fault Refusal :=
  oxRow (opWord (.sabt w s q v wr)) wr (fun r => r.sabt r.taken) st

/-- SRES (R204). -/
def execSres (w : BitVec 1) (s : BitVec 1) (q : BitVec 2) (v : BitVec 2) (wr : Wires) (st : State) : Host.Outcome State Fault Refusal :=
  oxRow (opWord (.sres w s q v wr)) wr (fun r => r.sres r.taken) st

/-- TILE_MOVE_COMPLETION (R172, R173, R176). -/
def execTileMoveCompletion (e : ElemId) (s : State) : Host.Outcome State Fault Refusal :=
  lift (fun f => f.tileMoved e) s

/-- PORT_WEIGHT_RECOMPUTE (R210). -/
def execPortWeightRecompute (e : ElemId) (s : State) : Host.Outcome State Fault Refusal :=
  lift (fun f => f.reweighed e) s

end Sys2Proof.Machine
end

