-- ==== Sys2Proof/Machine/Decomp.lean ====
section
/-! DEFINITION. The expand engines: LZ4 blocks, DEFLATE, sequence tables, and the job that runs them (spec 11_transform
R287-R293). -/

namespace Sys2Proof.Machine

/-! ### Decoding (R289, R290) -/

/-- Error codes (R290). -/
def decBackref : Nat := 1
def decBadcode : Nat := 2
def decTrunc : Nat := 3
def decDstfull : Nat := 4
def decBadblock : Nat := 5
def decPoison : Nat := 6

/-- How decoding ends early: an error with the bit place of the failing field in the input, or a byte that does not translate: one of the
source, or one of the dictionary so many bytes before the output. -/
inductive DecStop where
  | err (code at_ : Nat)
  | cut (back : Option Nat)
  deriving DecidableEq, Repr

/-- What a decoder is given: the source bytes with the poison of their words up to the first one that does not translate, the source
length, the window, the dictionary length, the capacity, whether it writes a sequence table, the source offset, and the output
offsets whose words are poison. -/
structure DecIn where
  src : Array (Nat × Bool)
  slen : Nat
  win : Nat
  dict : Nat
  cap : Nat
  table : Bool
  soff : Nat
  bad : Nat → Bool

/-- A decoder's state: input place in bits, history (output, then dictionary, last byte first) with poison, where the byte translates; output
bytes, bytes written and the table in reverse, final block seen, ticks used, bytes of which 32 take a tick, and the states passed: ticks,
bytes written, input place, final block. -/
structure Dec where
  at_ : Nat := 0
  hist : List (Option (Nat × Bool)) := []
  p : Nat := 0
  tab : List Nat := []
  made : Nat := 0
  final : Bool := false
  cost : Nat := 0
  moved : Nat := 0
  trace : List (Nat × Nat × Nat × Nat) := []

/-- A decoding action: it keeps its state when it stops. -/
abbrev DecM := EStateM DecStop Dec

/-- The decoder stops with an error at a bit place. -/
def decFail {α : Type} (code at_ : Nat) : DecM α := throw (.err code at_)

/-- The next byte of a field that began at a bit place. -/
def decByte (d : DecIn) (fs : Nat) : DecM Nat := do
  let i := (← get).at_ / 8
  if d.slen ≤ i then decFail decTrunc fs
  else match d.src[i]? with
    | none => throw (.cut none)
    | some (v, p) =>
      if p then decFail decPoison fs
      else do
        modify fun s => { s with at_ := s.at_ + 8 }
        pure v

/-- The next bit of a field, from the low end of each byte (RFC 1951). -/
def decBit (d : DecIn) (fs : Nat) : DecM Nat := do
  let a := (← get).at_
  if d.slen ≤ a / 8 then decFail decTrunc fs
  else match d.src[a / 8]? with
    | none => throw (.cut none)
    | some (v, p) =>
      if p then decFail decPoison fs
      else do
        modify fun s => { s with at_ := a + 1 }
        pure (v / 2 ^ (a % 8) % 2)

/-- A field of some bits, low bit first. -/
def decBits (d : DecIn) (fs : Nat) : Nat → DecM Nat
  | 0 => pure 0
  | n + 1 => do
    let b ← decBit d fs
    let r ← decBits d fs n
    pure (b + 2 * r)

/-- A byte of output. -/
def decEmit (d : DecIn) (fs v : Nat) : DecM Unit := do
  let s ← get
  if d.table then set { s with hist := some (v, false) :: s.hist, p := s.p + 1 }
  else if d.cap ≤ s.made then decFail decDstfull fs
  else set { s with hist := some (v, d.bad s.p) :: s.hist, p := s.p + 1, made := s.made + 1 }

/-- A back-reference checked, and copied as if one byte at a time. -/
def decCopy (d : DecIn) (fs dist : Nat) : Nat → DecM Unit
  | 0 => pure ()
  | n + 1 => do
    match (← get).hist[dist - 1]? with
    | none => decFail decBackref fs
    | some none => throw (.cut (some (dist - (← get).p)))
    | some (some (v, p)) =>
      if p then decFail decPoison fs else decEmit d fs v
      decCopy d fs dist n

/-- Is a distance valid (R290)? -/
def decDist (d : DecIn) (fs dist : Nat) : DecM Unit := do
  if dist = 0 ∨ (← get).p + d.dict < dist ∨ d.win < dist then decFail decBackref fs else pure ()

/-- Ticks used: those of sequences, symbols and tables, and one for every 32 bytes begun (R292). -/
def Dec.ticks (s : Dec) : Nat := s.cost + (s.moved + 31) / 32

/-- The state as the engine's progress shows it: ticks, bytes written, input place, final block (R293). -/
def Dec.state (s : Dec) : Nat × Nat × Nat × Nat := (s.ticks, s.made, s.at_, if s.final then 1 else 0)

/-- A state passed after some ticks and bytes more. -/
def decMark (ticks moved : Nat) : DecM Unit :=
  modify fun s =>
    let s := { s with cost := s.cost + ticks, moved := s.moved + moved }
    { s with trace := s.state :: s.trace }

/-! ### LZ4 -/

/-- A length with its extension bytes: each byte of 255 continues. -/
def lzExt (d : DecIn) (fs v : Nat) : Nat → DecM Nat
  | 0 => pure v
  | n + 1 => do
    let x ← decByte d fs
    if x = 255 then lzExt d fs (v + x) n else pure (v + x)

/-- Literals copied from the input. -/
def lzLits (d : DecIn) (fs : Nat) : Nat → DecM Unit
  | 0 => pure ()
  | n + 1 => do
    let v ← decByte d fs
    decEmit d fs v
    lzLits d fs n

/-- The entries of a sequence table for one sequence: a run above 65535 takes several (R289). -/
def lzEntries (d : DecIn) (fs out src lit dist mlen : Nat) : Nat → DecM Unit
  | 0 => pure ()
  | n + 1 => do
    let k := min lit 65535
    let last := k == lit
    let s ← get
    if d.cap < s.made + 16 then decFail decDstfull fs
    else
      let bs := leBytes 4 out ++ leBytes 4 (d.soff + src) ++ leBytes 2 k ++ leBytes 2 (if last then dist else 0) ++
        leBytes 4 (if last then mlen else 0)
      set { s with tab := (bs.map BitVec.toNat).reverse ++ s.tab, made := s.made + 16 }
      if last then pure () else lzEntries d fs (out + k) (src + k) (lit - k) dist mlen n

/-- Sequences up to the end of the input. -/
def lzSeqs (d : DecIn) : Nat → DecM Unit
  | 0 => pure ()
  | n + 1 => do
    let t0 := (← get).at_
    if d.slen ≤ t0 / 8 then pure ()
    else
      let out0 := (← get).p
      let tok ← decByte d t0
      let fs := (← get).at_
      let lit ← if tok / 16 = 15 then lzExt d fs 15 d.slen else pure (tok / 16)
      let ls := (← get).at_
      lzLits d ls lit
      let fs := (← get).at_
      if d.slen ≤ fs / 8 then
        if d.table then lzEntries d t0 out0 (ls / 8) lit 0 0 (lit / 65535 + 1)
        decMark 2 lit
      else
        let lo ← decByte d fs
        let hi ← decByte d fs
        let dist := lo + 256 * hi
        decDist d fs dist
        let ms := (← get).at_
        let m ← if tok % 16 = 15 then lzExt d ms 15 d.slen else pure (tok % 16)
        decCopy d fs dist (m + 4)
        if d.table then lzEntries d t0 out0 (ls / 8) lit dist (m + 4) (lit / 65535 + 1)
        decMark 2 (lit + m + 4)
        lzSeqs d n

/-! ### DEFLATE (RFC 1951) -/

/-- The canonical code of a list of lengths: length, code, symbol. -/
def huffman (lens : List Nat) : List (Nat × Nat × Nat) :=
  let count (l : Nat) : Nat := (lens.filter (· == l)).length
  let first (l : Nat) : Nat := (List.range l).foldl (fun c i => (c + (if i = 0 then 0 else count i)) * 2) 0
  ((List.range 16).drop 1).flatMap fun l =>
    let syms := (List.range lens.length).filter fun s => lens.getD s 0 == l
    (List.range syms.length).map fun i => (l, first l + i, syms.getD i 0)

/-- Does a list of lengths ask for more codes than there are? -/
def oversubscribed (lens : List Nat) : Bool :=
  decide (2 ^ 15 < (lens.map fun l => if l = 0 then 0 else 2 ^ (15 - min l 15)).foldl (· + ·) 0)

/-- A symbol of a code: bits are taken until they are a code word, or begin none. -/
def huffSym (d : DecIn) (tbl : List (Nat × Nat × Nat)) (fs code len : Nat) : Nat → DecM Nat
  | 0 => decFail decBadcode fs
  | n + 1 => do
    if tbl.all fun (l, c, _) => l < len || c / 2 ^ (l - len) != code then decFail decBadcode fs
    else
      let b ← decBit d fs
      match tbl.find? fun (l, c, _) => l == len + 1 && c == 2 * code + b with
      | some (_, _, s) => pure s
      | none => huffSym d tbl fs (2 * code + b) (len + 1) n

/-- A symbol at the place reached. -/
def huffNext (d : DecIn) (tbl : List (Nat × Nat × Nat)) : DecM Nat := do
  let fs := (← get).at_
  huffSym d tbl fs 0 0 16

/-- Base and extra bits of a length symbol. -/
def lenBase (s : Nat) : Nat × Nat :=
  if s = 285 then (258, 0)
  else if s < 265 then (s - 254, 0)
  else let g := (s - 261) / 4; (2 ^ (g + 2) + 3 + (s - 261) % 4 * 2 ^ g, g)

/-- Base and extra bits of a distance symbol. -/
def distBase (s : Nat) : Nat × Nat :=
  if s < 4 then (s + 1, 0) else let g := s / 2 - 1; (2 ^ (g + 1) + 1 + s % 2 * 2 ^ g, g)

/-- The symbols of a block up to its end code. -/
def inflateSyms (d : DecIn) (lit dist : List (Nat × Nat × Nat)) : Nat → DecM Unit
  | 0 => pure ()
  | n + 1 => do
    let fs := (← get).at_
    let s ← huffSym d lit fs 0 0 16
    if s < 256 then
      decEmit d fs s
      decMark 1 0
      inflateSyms d lit dist n
    else if s = 256 then decMark 1 0
    else if 285 < s then decFail decBadcode fs
    else
      let (base, x) := lenBase s
      let es := (← get).at_
      let len := base + (← decBits d es x)
      let ds := (← get).at_
      let t ← huffSym d dist ds 0 0 16
      if 29 < t then decFail decBadcode ds
      else
        let (db, dx) := distBase t
        let xs := (← get).at_
        let dd := db + (← decBits d xs dx)
        decDist d ds dd
        decCopy d ds dd len
        decMark 2 len
        inflateSyms d lit dist n

/-- Bytes of a stored block. -/
def inflateStored (d : DecIn) : Nat → DecM Unit
  | 0 => pure ()
  | n + 1 => do
    let fs := (← get).at_
    let v ← decByte d fs
    decEmit d fs v
    inflateStored d n

/-- The code lengths of a dynamic block, with repeats (lengths in reverse). -/
def inflateLens (d : DecIn) (cl : List (Nat × Nat × Nat)) (total : Nat) : Nat → List Nat → DecM (List Nat)
  | 0, acc => pure acc
  | n + 1, acc => do
    if total ≤ acc.length then pure acc
    else
      let fs := (← get).at_
      let s ← huffSym d cl fs 0 0 16
      decMark 1 0
      let rep (v k : Nat) : DecM (List Nat) :=
        if total < acc.length + k then decFail decBadblock fs else inflateLens d cl total n (List.replicate k v ++ acc)
      let es := (← get).at_
      if s < 16 then rep s 1
      else if s = 16 then
        match acc with
        | [] => decFail decBadblock fs
        | v :: _ => rep v (3 + (← decBits d es 2))
      else if s = 17 then rep 0 (3 + (← decBits d es 3))
      else rep 0 (11 + (← decBits d es 7))

/-- The order of the code-length code's lengths. -/
def clOrder : List Nat := [16, 17, 18, 0, 8, 7, 9, 6, 10, 5, 11, 4, 12, 3, 13, 2, 14, 1, 15]

/-- A list of 3-bit lengths. -/
def inflateCl (d : DecIn) : Nat → DecM (List Nat)
  | 0 => pure []
  | n + 1 => do
    let fs := (← get).at_
    let x ← decBits d fs 3
    let xs ← inflateCl d n
    pure (x :: xs)

/-- A dynamic block. -/
def inflateDynamic (d : DecIn) : DecM Unit := do
  let fl := (← get).at_
  let hlit := 257 + (← decBits d fl 5)
  if 286 < hlit then decFail decBadblock fl
  let fd := (← get).at_
  let hdist := 1 + (← decBits d fd 5)
  if 30 < hdist then decFail decBadblock fd
  let fc := (← get).at_
  let hclen := 4 + (← decBits d fc 4)
  let f0 := (← get).at_
  let xs ← inflateCl d hclen
  let cl := (List.range 19).map fun s => match clOrder.findIdx? (· == s) with
    | some i => xs.getD i 0
    | none => 0
  if oversubscribed cl then decFail decBadblock f0
  let f1 := (← get).at_
  let ls := (← inflateLens d (huffman cl) (hlit + hdist) (hlit + hdist) []).reverse
  let lit := ls.take hlit
  let dist := ls.drop hlit
  if oversubscribed lit ∨ oversubscribed dist ∨ lit.getD 256 0 = 0 then decFail decBadblock f1
  decMark 48 0
  inflateSyms d (huffman lit) (huffman dist) (d.cap + 1)

/-- The lengths of the fixed code. -/
def fixedLens : List Nat := List.replicate 144 8 ++ List.replicate 112 9 ++ List.replicate 24 7 ++ List.replicate 8 8

/-- Blocks up to the final one. -/
def inflate (d : DecIn) : Nat → DecM Unit
  | 0 => pure ()
  | n + 1 => do
    let fs := (← get).at_
    let fin ← decBits d fs 1
    let ty ← decBits d fs 2
    modify fun s => { s with final := fin == 1 }
    match ty with
    | 0 =>
      modify fun s => { s with at_ := (s.at_ + 7) / 8 * 8 }
      let ls := (← get).at_
      let len ← decBits d ls 16
      let ns := (← get).at_
      let nlen ← decBits d ns 16
      if len + nlen ≠ 65535 then decFail decBadblock ls
      inflateStored d len
      decMark 0 len
    | 1 => inflateSyms d (huffman fixedLens) (huffman (List.replicate 32 5)) (d.cap + 1)
    | 2 => inflateDynamic d
    | _ => decFail decBadblock fs
    if fin = 1 then pure () else inflate d n

/-- A job's decoding: the state reached, and how it stopped early. -/
def decode (fmt : Nat) (d : DecIn) (dict : List (Option (Nat × Bool))) : Dec × Option DecStop :=
  match (if fmt = 1 then inflate d (8 * d.slen + 1) else lzSeqs d (d.slen + 1)).run { hist := dict.reverse } with
  | .ok _ s => (s, none)
  | .error x s => (s, some x)

/-! ### The job (R287, R288, R291, R292) -/

/-- Fields of the job card. -/
def dcSoff (b : BitVec 256) : Nat := bits (pword b 0) 0 26
def dcDoff (b : BitVec 256) : Nat := bits (pword b 1) 0 26
def dcSlen (b : BitVec 256) : Nat := pword b 2
def dcCap (b : BitVec 256) : Nat := pword b 3
def dcFmt (b : BitVec 256) : Nat := bits (pword b 4) 0 2
def dcWin (b : BitVec 256) : Nat := 2 ^ bits (pword b 4) 2 5
def dcDict (b : BitVec 256) : Nat := pword b 5

/-- The memory die of a job's engine: HOME, or that of the destination's first byte (R184, R287). -/
def Fab.dcHome (f : Fab) (e : ElemId) (b : Job) : Nat :=
  match bits (pword b.pb 4) 7 2 with
  | 1 => 0
  | 2 => 1
  | _ => (((f.tileOf e b.c (handleOf b.b.v)).map (·.loc)).getD 0 + dcDoff b.pb) / 2 ^ 11 % 2

/-- Words of a tile that hold a range of bytes. -/
def rangeWords (o n : Nat) : List Nat := if n = 0 then [] else wordsOf (8 * o) (8 * n)

/-- The admission walk: every page of the dictionary and of the destination range, in ascending address (R291). -/
def Fab.dcWalk (f : Fab) (e : ElemId) (b : Job) (d : Tile) : Except XFault Unit × Fab :=
  let dict := rangeWords (dcDoff b.pb - dcDict b.pb) (dcDict b.pb)
  let dst := rangeWords (dcDoff b.pb) (dcCap b.pb)
  bindX (readMany (fun w f => f.wordPlace e d .read w) dict f) fun _ f =>
    bindX (readMany (fun w f => f.wordPlace e d .write w) dst f) fun _ f => (.ok (), f)

/-- A byte of a tile with the poison of its word. -/
def Fab.dcByte (f : Fab) (e : ElemId) (b : Job) (t : Tile) (o : Nat) : Except XFault (Nat × Bool) × Fab :=
  f.readBits e b.c b.run t (8 * o) 8

/-- Bytes of a tile, up to the first one that does not translate. -/
def Fab.dcBytes (f : Fab) (e : ElemId) (b : Job) (t : Tile) (o : Nat) : Nat → List (Nat × Bool) × Fab
  | 0 => ([], f)
  | n + 1 =>
    match f.dcByte e b t o with
    | (.error _, f) => ([], f)
    | (.ok x, f) => let (xs, f) := f.dcBytes e b t (o + 1) n; (x :: xs, f)

/-- Bytes of the dictionary, nothing for one that does not translate: only a back-reference reads it. -/
def Fab.dcDictBytes (f : Fab) (e : ElemId) (b : Job) (t : Tile) (o : Nat) : Nat → List (Option (Nat × Bool)) × Fab
  | 0 => ([], f)
  | n + 1 =>
    let (x, f) := f.dcByte e b t o
    let (xs, f) := f.dcDictBytes e b t (o + 1) n
    (x.toOption :: xs, f)

/-- What the job's engine decodes now: the state reached, how it stopped, and the fault where it stopped at one. -/
def Fab.dcRun (f : Fab) (e : ElemId) (b : Job) (s d : Tile) : Dec × Option DecStop × XFault × Fab :=
  let p := b.pb
  let (src, f) := f.dcBytes e b s (dcSoff p) (dcSlen p)
  let (dict, f) := f.dcDictBytes e b d (dcDoff p - dcDict p) (dcDict p)
  let bad (i : Nat) : Bool := match (f.wordPlace e d .read ((dcDoff p + i) / 8)).1 with
    | .ok a => f.poisoned a
    | .error _ => false
  let (st, stop) := decode (dcFmt p)
    ⟨src.toArray, dcSlen p, dcWin p, dcDict p, dcCap p, dcFmt p == 2, dcSoff p, bad⟩ dict
  let x : Except XFault (Nat × Bool) := match stop with
    | some (.cut (some k)) => (f.dcByte e b d (dcDoff p - k)).1
    | some (.cut none) => (f.dcByte e b s (dcSoff p + src.length)).1
    | _ => .ok (0, false)
  (st, stop, (match x with | .error x => x | .ok _ => ⟨0, 0⟩), f)

/-- A job stopped by a translation fault at IDX, behind the last F change that waits for a cinch (R200, R238). -/
def Fab.stopJob (f : Fab) (e : ElemId) (j : Fin 4) (x : XFault) (ix : Bool) : Fab :=
  let t := ((f.job e j).fpend.map (·.1)).foldl max f.clock
  (f.modJob e j fun b => { b with xcause := x.xc, va := x.va, idxph := ix, next := 0 }).at t (if t = f.clock then 2 else 4) (.jobFaultStop e j)

/-- DCMPJ's check (R288). -/
def dcCheck (b : Job) (s d : Option Tile) : Nat :=
  match s, d with
  | some s, some d =>
    let p := b.pb
    if !(decide (dcSoff p + dcSlen p ≤ s.byteLen ∧ dcDict p ≤ dcDoff p ∧ dcDoff p + dcCap p ≤ d.byteLen)) then jcBounds
    else if s.lvl ≠ 3 || d.lvl ≠ 3 then jcFormat else 0
  | _, _ => jcHandle

/-- DCMPJ's row. Once its words are emptied, `extra` holds IN, the error code, the bit, the final block, whether all is written, the states
passed, and how its decoding will end: 0, an error code, or 7 with the sub-cause and address of a fault. -/
def Row.dcmpj (r : Row) : Fab :=
  let b := { r.newJob with n := dcCap r.block }
  r.jobRow [r.a, r.b] fun f =>
    let dh := handleOf r.b.v
    let cause := dcCheck b (f.tileOf r.e r.c (handleOf r.a.v)) (f.tileOf r.e r.c dh)
    let f := (f.useTile r.e dh).useTile r.e (handleOf r.a.v)
    r.enqueue { b with dst := some dh } cause 0 f

/-- A number of a DCMPJ job's own data. -/
def Job.ex (b : Job) (i : Nat) : Nat := b.extra.getD i 0

/-- The engine's next step, on a tick. -/
def Fab.dcAt (f : Fab) (e : ElemId) (j : Fin 4) (t : Nat) : Fab :=
  (f.modJob e j fun b => { b with fin := t }).at t 2 (.dcmpjCompletion e j)

/-- The job at admission and at a resume: the walk and the emptied words; the engine asked for 28 t after admission (R291, R292). -/
def Fab.dcElement (f : Fab) (e : ElemId) (j : Fin 4) (b : Job) : Fab :=
  match f.tileOf e b.c (handleOf b.b.v) with
  | none => f.endJob e j .aborted jcHandle
  | some d =>
    if b.begun then (f.modJob e j fun b => { b with next := 0 }).at f.clock 2 (.dcmpjEngineStart e j)
    else
      match f.dcWalk e b d with
      | (.error x, _) => f.stopJob e j x false
      | (.ok _, f) =>
        let f := (rangeWords (dcDoff b.pb) (dcCap b.pb)).foldl (fun f w => f.setWordF e b.c d w false) f
        (f.modJob e j fun b => { b with next := 0, fin := f.clock + 28, extra := List.replicate 9 0 }).at (f.clock + 28) 2 (.dcmpjEngineStart e j)

/-- May the accesses of a job's chains be performed (R223, R274, R288)? -/
def Fab.jobChains (f : Fab) (e : ElemId) (b : Job) : Bool := b.waves.all (f.chainOk e b.c b.run b.copy b.frame ·)

/-- The running jobs for the engines of a memory die. -/
def Fab.dcJobs (f : Fab) (home : Nat) : List (ElemId × Job) :=
  (f.elems.flatMap fun (x, el) => el.sq.toList.map fun y => (x, y)).filter fun (x, y) =>
    y.live && y.opc == 0xB9 && (y.st == .running || y.st == .stopped) && f.dcHome x y == home

/-- May a job take an engine of its home die: fewer than two are taken, and no job that arrived earlier waits for one (R287)? -/
def Fab.dcFree (f : Fab) (e : ElemId) (b : Job) : Bool :=
  let js := f.dcJobs (f.dcHome e b)
  decide ((js.filter fun p => p.2.begun).length < 2) &&
    js.all fun (x, y) => y.begun || y.extra.isEmpty || decide (f.clock < y.fin) || y.st != .running || !f.jobChains x y ||
      !decide (y.arr < b.arr ∨ (y.arr = b.arr ∧ (x < e ∨ (x = e ∧ y.seq < b.seq))))

/-- Output bytes of a decoding. -/
def Dec.out (st : Dec) (table : Bool) : List Nat :=
  if table then st.tab.reverse else ((st.hist.take st.p).map fun x => (x.getD (0, false)).1).reverse

/-- The engine decodes: the states to come, from the first one not yet passed, each with the tick on which it is reached, the bytes to write, and
how the decoding will end (R291, R292). -/
def Fab.dcDecode (f : Fab) (e : ElemId) (j : Fin 4) (s d : Tile) : Fab :=
  let b := f.job e j
  let (st, stop, x, f) := f.dcRun e b s d
  let all := st.trace.reverse
  let base := if b.ex 5 = 0 then 0 else (all.getD (b.ex 5 - 1) (0, 0, 0, 0)).1
  let last : Nat × Nat × Nat × Nat := match stop with
    | some (.err _ a) => (st.ticks, st.made, a, if st.final then 1 else 0)
    | _ => st.state
  let states := (all.drop (b.ex 5) ++ [last]).map fun y => (f.clock + (y.1 - base), y.2)
  let how : List Nat := match stop with
    | some (.err c _) => [c, 0, 0]
    | some (.cut _) => [7, x.xc, x.va]
    | none => [0, 0, 0]
  (f.modJob e j fun b =>
    { b with begun := true, trace := states, ahead := (st.out (dcFmt b.pb == 2)).drop b.idx, extra := b.extra.take 6 ++ how }).dcAt e j
      (states.headD (f.clock, 0, 0, 0)).1

/-- DCMPJ_ENGINE_START: an engine of the home die is taken, or waited for in order of arrival, and the job's chains (R223, R287, R292). -/
def Fab.dcStart (f : Fab) (e : ElemId) (j : Fin 4) : Fab :=
  let b := f.job e j
  let later := f.at (f.clock + 1) 2 (.dcmpjEngineStart e j)
  if !b.live || b.opc ≠ 0xB9 || b.st ≠ .running then f
  else if b.abort then (if b.fpend.isEmpty then f.endJob e j .aborted jcAborted else later)
  else if !f.jobChains e b || (!b.begun && !f.dcFree e b) then later
  else
    match f.tileOf e b.c (handleOf b.a.v), f.tileOf e b.c (handleOf b.b.v) with
    | some s, some d => f.dcDecode e j s d
    | _, _ => f.endJob e j .aborted jcHandle

/-- Bytes written from an offset of a tile: how many, and the fault that stopped them. -/
def Fab.dcPut (f : Fab) (e : ElemId) (b : Job) (d : Tile) (o : Nat) : List Nat → Nat × Option XFault × Fab
  | [] => (0, none, f)
  | v :: vs =>
    match f.writeBits e b.c d (8 * o) 8 v false with
    | (.error x, f) => (0, some x, f)
    | (.ok _, f) => let (n, x, f) := f.dcPut e b d (o + 1) vs; (n + 1, x, f)

/-- Words of the range whose last byte in it lies between two offsets from DOFF (R291). -/
def dcWords (p : BitVec 256) (lo hi : Nat) : List Nat :=
  (rangeWords (dcDoff p) (dcCap p)).filter fun w =>
    let x := min (8 * w + 7) (dcDoff p + dcCap p - 1) - dcDoff p
    decide (lo ≤ x ∧ x < hi)

/-- A range of offsets as one number. -/
def dcSpan (lo hi : Nat) : Nat := lo * 2 ^ 27 + hi

/-- The words whose last byte lies in a range of offsets made full. -/
def Fab.dcFull (f : Fab) (e : ElemId) (b : Job) (span : Nat) : Fab :=
  match f.tileOf e b.c (handleOf b.b.v) with
  | some d => (dcWords b.pb (span / 2 ^ 27) (span % 2 ^ 27)).foldl (fun f w => f.setWordF e b.c d w true) f
  | none => f

/-- Bytes written: they count for a cinch, and the words that they end become full, behind the subtraction (R238, R291). -/
def Fab.dcWrote (f : Fab) (e : ElemId) (j : Fin 4) (n lo hi : Nat) : Fab :=
  let b := f.job e j
  let (w, f) := if n = 0 then (none, f) else f.countBytes e (handleOf b.b.v) n
  match w with
  | some t => (f.modJob e j fun b => { b with fpend := b.fpend ++ [(t, dcSpan lo hi)] }).at t 2 (.jobElement e j)
  | none => f.dcFull e b (dcSpan lo hi)

/-- A job that has written its whole range ends, once its F changes have been made: it retires 20 t after its last write (R291, R292). -/
def Fab.dcOver (f : Fab) (e : ElemId) (j : Fin 4) : Fab :=
  let b := f.job e j
  if b.ex 4 = 1 && b.fpend.isEmpty && b.st == .running then
    (if b.ex 1 = 0 then f.endJobAt e j .done 0 (f.clock + 20) else f.endJobAt e j .aborted 9 (f.clock + 20))
  else f

/-- The end of the decoding: a stop at a fault; or the rest of the range written zero, with poison from the stop on after an error, which taints
the run (R290, R291). -/
def Fab.dcFinish (f : Fab) (e : ElemId) (j : Fin 4) (d : Tile) : Fab :=
  let b := f.job e j
  let o := dcDoff b.pb
  let cap := dcCap b.pb
  let n := b.idx
  let code := b.ex 6
  if code = 7 then f.stopJob e j ⟨b.ex 7, b.ex 8⟩ false
  else
    match f.dcPut e b d (o + n) (List.replicate (cap - n) 0) with
    | (_, some x, f) => f.stopJob e j x false
    | (k, none, f) =>
      let f := f.modJob e j fun b => { b with extra := (b.extra.set 1 code).set 4 1 }
      let f := if code = 0 then f else
        let bad := (rangeWords o cap).filter fun w => decide ((o + n) / 8 ≤ w) && decide (n < cap)
        let f := bad.foldl (fun f w => match f.wordPlace e d .write w with
          | (.ok a, f) => f.tilePoison e b.c a true
          | (.error _, f) => f) f
        f.modRun b.run fun r => (r.raise 2).note spaceJob 9 code e (b.ex 0)
      (f.dcWrote e j k (min n (cap - 1)) cap).dcOver e j

/-- DCMPJ_COMPLETION: the engine reaches its next state, writes the bytes up to it and shows it; behind the last state its decoding ends; a write
that faults stops it with IDX the bytes written (R291, R293). -/
def Fab.dcDone (f : Fab) (e : ElemId) (j : Fin 4) : Fab :=
  let b := f.job e j
  if !b.live || b.opc ≠ 0xB9 || b.st ≠ .running || b.fin ≠ f.clock then f
  else if b.abort then (if b.fpend.isEmpty then f.endJob e j .aborted jcAborted else f.dcAt e j (f.clock + 1))
  else
    match b.trace, f.tileOf e b.c (handleOf b.b.v) with
    | (_, made, at_, fin) :: more, some d =>
      let (k, x, f) := f.dcPut e b d (dcDoff b.pb + b.idx) (b.ahead.take (made - b.idx))
      let f := f.modJob e j fun b => { b with idx := b.idx + k, ahead := b.ahead.drop k }
      let last := dcCap b.pb - 1
      let f := f.dcWrote e j k (min b.idx last) (min (b.idx + k) last)
      match x with
      | some x => f.stopJob e j x false
      | none =>
        let deflate := dcFmt b.pb == 1
        let inn := if deflate && more.isEmpty && b.ex 6 == 0 then (at_ + 7) / 8 else at_ / 8
        let f := f.modJob e j fun b =>
          { b with trace := more, extra := (((b.extra.set 0 inn).set 2 (if deflate then at_ % 8 else 0)).set 3 fin).set 5
                     (if more.isEmpty then b.ex 5 else b.ex 5 + 1) }
        match more with
        | (t, _) :: _ => f.dcAt e j t
        | [] => f.dcFinish e j d
    | _, _ => f.endJob e j .aborted jcHandle

/-! ### DCMPQ (R293) -/

/-- The value that DCMPQ selects. -/
def Row.dcmpq (r : Row) : Nat :=
  let b := r.f.job r.e (Fin.ofNat 4 r.var)
  if b.opc ≠ 0xB9 then 0
  else
    match r.sub with
    | 0 => b.idx
    | 1 => b.ex 0
    | 2 => b.ex 1 + b.progress / 2 ^ 61 * 2 ^ 4 + b.ex 3 * 2 ^ 7
    | _ => b.ex 2

/-! ### The instructions -/

/-- DCMPJ (R288). -/
def execDcmpj (b : BitVec 6) (w : BitVec 1) (s : BitVec 1) (q : BitVec 2) (wr : Wires) (st : State) : Host.Outcome State Fault Refusal :=
  jobRowOf (opWord (.dcmpj b w s q wr)) wr Row.dcmpj st

/-- DCMPQ (R293). -/
def execDcmpq (w : BitVec 1) (s : BitVec 1) (q : BitVec 2) (v : BitVec 2) (u : BitVec 4) (wr : Wires) (st : State) : Host.Outcome State Fault Refusal :=
  oxRow (opWord (.dcmpq w s q v u wr)) wr (fun r => r.num r.dcmpq r.taken) st

/-- DCMPJ_ENGINE_START (R292). -/
def execDcmpjEngineStart (e : ElemId) (j : Fin 4) (s : State) : Host.Outcome State Fault Refusal :=
  lift (fun f => f.dcStart e j) s

/-- DCMPJ_COMPLETION (R291). -/
def execDcmpjCompletion (e : ElemId) (j : Fin 4) (s : State) : Host.Outcome State Fault Refusal :=
  lift (fun f => f.dcDone e j) s

end Sys2Proof.Machine
end

