-- ==== Sys2Proof/Machine/Order.lean ====
section
/-! DEFINITION. Fences, cinch barriers and collectives (spec 09_ordering R232-R242). -/

namespace Sys2Proof.Machine

/-! ### Fences (R232, R233) -/

/-- Does a job of the context still hold a fence of a scope: live, and writing storage in the scope? -/
def Fab.fenceJob (f : Fab) (e : ElemId) (c : Ctx) (scope : Nat) (j : Job) : Bool :=
  j.live && j.c == c &&
    (let lvl := match j.dst with
      | some h => ((mget h (f.elem e).tiles).getD { lvl := 3 }).lvl
      | none => 3
     decide (3 ≤ scope) || lvl == 1 || (decide (1 ≤ scope) && lvl == 2))

/-- Does a fence of a scope with jobs still hold? -/
def Fab.fenced (f : Fab) (e : ElemId) (c : Ctx) (scope : Nat) : Bool :=
  (f.elem e).sq.toList.any (f.fenceJob e c scope) || (f.elem e).mq.any fun m => m.c == c

/-- The element released from a fence that has nothing left to wait for. -/
def Fab.fenceTest (f : Fab) (e : ElemId) : Fab :=
  match (f.elem e).hold with
  | some h => if h.kind = .fence ∧ !f.fenced e h.c h.h then f.unhold e else f
  | none => f

/-- A fence that issues: a scope of 5 releases and acquires, and so waits as a fence of scope 4 with jobs; host writes are performed as
they are made, so that nothing else is waited for (log 13). While the element holds, no job or command is admitted to it. -/
def Row.fence (r : Row) (scope : Nat) (jobs : Bool) : Fab :=
  let f := r.taken
  if jobs && f.fenced r.e r.c scope then f.hold r.e { r.access with kind := .fence, h := scope } r.now else f

/-! ### Cinches (R234-R239) -/

/-- Key of a cinch that a parameter block names. -/
def cinchKey (b : BitVec 256) : Nat := bits (pword b 0) 8 3 * 256 + bits (pword b 0) 0 8
/-- A cinch; one never initialised is all zero. -/
def Fab.cinch (f : Fab) (k : Nat) : Cinch := (mget k f.cinches).getD {}
/-- The fabric with a cinch replaced. -/
def Fab.setCinch (f : Fab) (k : Nat) (x : Cinch) : Fab := { f with cinches := mput k x f.cinches }

/-- Travel of a request or an answer between an element and a cinch (R235). -/
def cinchLat (e : ElemId) (k : Nat) : Nat := if dieOf e = k / 256 then 4 else 16

/-- The 128 bits of a cinch (R234). -/
def Cinch.bits (x : Cinch) : Nat :=
  x.pend * 2 ^ 80 + x.count * 2 ^ 68 + x.arr * 2 ^ 56 + x.phase.toNat * 2 ^ 24 + x.binds.length * 2 ^ 20 +
    x.waits.length * 2 ^ 8 + (if x.err then 1 else 0)

/-- An answer of the unit sent to a held element. -/
def Fab.cinchAnswer (f : Fab) (e : ElemId) (k : Nat) (t : TV) (refused : Bool) : Fab :=
  (f.modElem e fun x => { x with hold := x.hold.map fun h => { h with got := some t, aux := if refused then [1] else [] } }).at
    (f.clock + cinchLat e k) 0 (.cinchAnswerArrival e)

/-- An n32 answer. -/
def cinchNum (v : Nat) : TV := ⟨BitVec.ofNat 32 v, false, .n32⟩

/-- The completion of a phase, tested after every request and every change of PEND (R237). -/
def Fab.cinchTest (f : Fab) (k : Nat) : Fab :=
  let x := f.cinch k
  if 0 < x.count ∧ x.count ≤ x.arr ∧ x.pend = 0 then
    (x.waits.foldl (fun f e => f.cinchAnswer e k (cinchNum x.phase.toNat) false) f).setCinch k
      { x with phase := x.phase + 1, arr := 0, binds := [], waits := [] }
  else f

/-- PEND after bytes are added: clamped with ERR (R238). -/
def Cinch.addBytes (x : Cinch) (n : Nat) : Cinch :=
  if 2 ^ 48 ≤ x.pend + n then { x with pend := 2 ^ 48 - 1, err := true } else { x with pend := x.pend + n }
/-- PEND after bytes are subtracted: clamped with ERR (R238). -/
def Cinch.subBytes (x : Cinch) (n : Nat) : Cinch :=
  if x.pend < n then { x with pend := 0, err := true } else { x with pend := x.pend - n }

/-- A request served at the unit: the cinch after it, the answer where there is one, and whether it is a refused arrival. -/
def Fab.cinchServe (f : Fab) (e : ElemId) (h : Hold) (x : Cinch) (count : Nat) : Cinch × Option TV × Bool :=
  let opc := (fld h.op 16 8).toNat
  let var := (fld h.op 4 2).toNat
  if opc = 0xC4 then
    if x.waits.isEmpty then ({ count := count }, some (cinchNum 0), false) else (x, some (cinchNum 1), false)
  else if opc = 0xC8 then
    if 2 ≤ x.count then ({ x with count := x.count - 1 }, some (cinchNum 0), false) else (x, some (cinchNum 1), false)
  else if opc = 0xC7 then (x, some (cinchNum (bits x.bits (32 * (fld h.op 0 4).toNat) 32)), false)
  else if opc = 0xC6 then
    let t := handleOf h.a.v
    if (f.tileOf e h.c t).isNone then (x, some (cinchNum 2), false)
    else if !x.binds.contains (e, t) && decide (8 ≤ x.binds.length) then (x, some (cinchNum 1), false)
    else
      let x := if x.binds.contains (e, t) then x else { x with binds := x.binds ++ [(e, t)] }
      (x.addBytes h.b.v.toNat, some (cinchNum 0), false)
  else if var = 2 then ({ x with waits := x.waits ++ [e] }, none, false)
  else if x.count ≤ x.arr then ({ x with err := true }, some ⟨poisonOf causeOverarrive e, true, .n32⟩, true)
  else if var = 0 then ({ x with arr := x.arr + 1, waits := x.waits ++ [e] }, none, false)
  else ({ x with arr := x.arr + 1 }, some (cinchNum x.phase.toNat), false)

/-- A cinch row that issues: its request travels to the unit, and the element holds until the answer (R235); requests of one tick are
served from the cinch's own die first, in order of element. -/
def Row.cinchRow (r : Row) (addr : List TV) : Fab :=
  match firstPoison addr with
  | some p => r.addrPoison true p r.taken
  | none =>
    let k := cinchKey r.block
    let t := r.now + cinchLat r.e k
    (r.taken.hold r.e { r.access with kind := .cinch, h := k } t).at t (3000 + (if dieOf r.e = k / 256 then 0 else 2000) + r.e)
      (.cinchRequestArrival r.e)

/-- The request of a held element at its unit; the unit of an offline die answers nothing (R340). -/
def Fab.cinchRequest (f : Fab) (e : ElemId) : Fab :=
  match (f.elem e).hold with
  | none => f
  | some h =>
    if h.kind ≠ .cinch ∨ mget (h.h / 256) f.dies = some 2 then f
    else
      let (x, ans, refused) := f.cinchServe e h (f.cinch h.h) (bits (pword (h.row f e).block 1) 0 12)
      let f := f.setCinch h.h x
      (match ans with
        | some t => f.cinchAnswer e h.h t refused
        | none => f).cinchTest h.h

/-- The answer at the element: the result is delivered, and a refused arrival sets ESR.OVERARR (R237). The arrival's row was issued on an
earlier tick, so a row of this tick reads the flag; a write of this tick leaves it set (R89, R90). -/
def Fab.cinchAnswered (f : Fab) (e : ElemId) : Fab :=
  match (f.elem e).hold with
  | none => f
  | some h =>
    if h.kind ≠ .cinch then f
    else
      let r := h.row f e
      let f := h.deliver e { tv := h.got.map fun t => { t with ty := r.resTy .n32 } } (f.unhold e)
      if h.aux = [1] then f.modSlot e h.c fun s => (s.raise esrOverarr).raiseIn esrOverarr else f

/-! ### Collectives (R240-R242) -/

/-- Fields of a COLL block. -/
def collGroup (b : BitVec 256) : Nat := bits (pword b 0) 0 8
def collOpc (b : BitVec 256) : Nat := bits (pword b 0) 8 4
def collArrival (b : BitVec 256) : Bool := (pword b 0).testBit 12
def collM (b : BitVec 256) : Nat := bits (pword b 1) 0 11 + 1
def collVa (b : BitVec 256) : Nat := pword b 2 + bits (pword b 3) 0 16 * 2 ^ 32

/-- The operation of a collective, with the flags it raises (R241). -/
def collOp (op : Nat) (a b : W32) : W32 × W32 :=
  let x := Fmt.fp32.value a.toNat
  let y := Fmt.fp32.value b.toNat
  let pick (v : Num) : W32 × W32 :=
    let (code, fl) := Fmt.fp32.round .rne false 0 v
    (BitVec.ofNat 32 code, { fl with nv := x.isSig || y.isSig }.toEsr)
  match op with
  | 0 => let (v, fl) := atomNew 0x92 32 false a.toNat b.toNat 0; (BitVec.ofNat 32 v, fl)
  | 1 => pick (maxNum x y)
  | 2 => pick (minNum x y)
  | 3 => (a + b, 0)
  | 4 => (if a.toInt < b.toInt then b else a, 0)
  | _ => (if a.toInt ≤ b.toInt then a else b, 0)

/-- A node of the fixed tree over contributions in order of p, with flags and the tick on which it is ready (R241). -/
def collTree (op : Nat) : Nat → List (W32 × Nat) → Option (W32 × W32 × Nat)
  | 0, xs => xs.head?.map fun (v, t) => (v, 0, t)
  | n + 1, xs =>
    match collTree op n (xs.take (2 ^ n)), collTree op n (xs.drop (2 ^ n)) with
    | some (a, fa, ta), some (b, fb, tb) =>
      let (v, fl) := collOp op a b
      some (v, fa ||| fb ||| fl, max ta tb + 1)
    | some x, none => some x
    | none, y => y

/-- The combination in order of arrival (R241). -/
def collArrive (op : Nat) : List (W32 × Nat) → W32 × W32 × Nat
  | [] => (0, 0, 0)
  | (v, t) :: xs => xs.foldl (fun (a, fl, t) (v, u) => let (w, g) := collOp op a v; (w, fl ||| g, max t u)) (v, 0, t)

/-- The contributions of a group that have reached the root, in order of p. -/
def Fab.collHere (f : Fab) (run group : Nat) : List Contrib :=
  ((f.colls.map (·.2)).filter fun x => x.run == run && x.group == group && x.here).mergeSort fun a b => decide (a.p ≤ b.p)

/-- The result of a full group: value, flags, tick, and the payload of the first poison in order of p. -/
def collResult (b : BitVec 256) (xs : List Contrib) : W32 × W32 × Nat × Option W32 :=
  let op := collOpc b
  let pois := (firstPoison (xs.map (·.v))).map (·.v)
  let (v, fl, t) :=
    if collArrival b then collArrive op ((xs.mergeSort fun a b => decide (a.due ≤ b.due)).map fun x => (x.v.v, x.due))
    else (collTree op (Nat.log2 (2 * xs.length - 1)) (xs.map fun x => (x.v.v, x.due))).getD (0, 0, 0)
  (v, fl, t, pois)

/-- The die of a run's participant 0: the root (R240). -/
def Run.root (r : Run) : Nat := dieOf (fieldNo (r.copy 0).ox (r.copy 0).oy)
/-- Travel between an element and the root of its run's collectives (R240). -/
def Fab.collLat (f : Fab) (e : ElemId) (run : Nat) : Nat := if dieOf e = (f.run run).root then 4 else 28

/-- Participant index of an element of a copy (R240). -/
def Copy.participant (k : Copy) (c : Nat) (e : ElemId) : Nat := c * (k.cols * k.rows) + (yOf e - k.oy) * k.cols + (xOf e - k.ox)

/-- COLL's row: the job takes its slot, and the contribution travels to the root (R240, R242). -/
def Row.collRow (r : Row) : Fab :=
  let b := r.newJob
  let p := r.cp.participant r.copyNo r.e
  let grp := collGroup b.pb
  let waiting := r.f.colls.any fun (_, x) => x.run == r.runId && x.group == grp && x.p == p
  let cause := if collM b.pb ≤ p then jcBounds else if waiting then jcDup else 0
  let f := r.taken
  match r.el.freeSlot with
  | none => f
  | some j =>
    let f := (f.modElem r.e fun x => { x with sq := x.sq.set j { b with n := 1 }, sseq := x.sseq + 1 }).reweigh r.e
    if cause ≠ 0 then f.endJob r.e j .aborted cause
    else
      let (k, f) := f.fresh
      let t := r.now + f.collLat r.e r.runId
      { f with colls := mput k ⟨r.runId, grp, p, r.e, j, r.a, t, false, b.pb⟩ f.colls }.at t 0 (.collContributionArrival k)

/-- A group's contributions removed. -/
def Fab.collClear (f : Fab) (run group : Nat) : Fab :=
  { f with colls := f.colls.filter fun (_, x) => !(x.run == run && x.group == group) }

/-- The result word of a full group written, or every participant's job aborted where its address does not translate (R240, R242). -/
def Fab.collWrite (f : Fab) (x : Contrib) (xs : List Contrib) (v fl : W32) (pois : Option W32) : Fab :=
  let head := xs.headD x
  let va := collVa head.pb
  match f.elemTranslate head.e .write va with
  | (.error xc, f) =>
    let b := f.job head.e head.slot
    let f := f.faultMsg true head.e b.c head.slot.val xc false x.run 0x98 va 0
    (xs.foldl (fun f y => (f.modJob y.e y.slot fun b => { b with xcause := xc }).endJob y.e y.slot .aborted jcXlate) f).collClear
      x.run x.group
  | (.ok a, f) =>
    let word := (pois.getD v).toNat + xs.length * 2 ^ 32 + (if pois.isSome then 0 else (fl &&& 31).toNat * 2 ^ 48)
    let f := f.putBytes a (leBytes 8 word)
    let f := if pois.isSome then f.putPoison a true else f
    let f := if a < hostBase then f.putFull a true else f
    (xs.foldl (fun f y =>
      let t := f.clock + f.collLat y.e x.run
      (f.modJob y.e y.slot fun b => { b with next := t }).at t 0 (.collRetirement y.e)) f).collClear x.run x.group

/-- COLL_CONTRIBUTION_ARRIVAL: a contribution reaches the root; a full group is combined when its last node is ready and participant 0's
chain allows the write (R240, R241). -/
def Fab.collArrived (f : Fab) (k : Nat) : Fab :=
  match mget k f.colls with
  | none => f
  | some x =>
    let f := { f with colls := mput k { x with here := true } f.colls }
    let xs := f.collHere x.run x.group
    let head := xs.headD x
    if xs.length < collM head.pb ∨ mget (f.run x.run).root f.dies = some 2 then f
    else
      let (v, fl, t, pois) := collResult head.pb xs
      let b := f.job head.e head.slot
      let ok := b.waves.all fun q => f.chainOk head.e b.c b.run b.copy b.frame q
      if f.clock < t then f.at t 0 (.collContributionArrival k)
      else if !ok then f.at (f.clock + 1) 0 (.collContributionArrival k)
      else f.collWrite x xs v fl pois

/-- COLL_RETIREMENT: the answer reaches the participant, whose job ends done with IDX 1 (R242). -/
def Fab.collAnswered (f : Fab) (e : ElemId) : Fab :=
  ([0, 1, 2, 3] : List (Fin 4)).foldl (fun f j =>
    let b := f.job e j
    if b.live && b.opc == 0x98 && b.st == .running && b.next == f.clock then
      (f.modJob e j fun b => { b with idx := 1 }).endJobAt e j .done 0 f.clock
    else f) f

/-! ### The instructions -/

/-- FENCE (R232). -/
def execFence (u : BitVec 4) (wr : Wires) (s : State) : Host.Outcome State Fault Refusal :=
  oxRow (opWord (.fence u wr)) wr (fun r => r.fence (r.sub % 8 - (if r.sub % 8 = 5 then 1 else 0)) (8 ≤ r.sub || r.sub % 8 == 5)) s

/-- RELS (R233). -/
def execRels (wr : Wires) (s : State) : Host.Outcome State Fault Refusal :=
  oxRow (opWord (.rels wr)) wr (fun r => r.fence 4 true) s

/-- ACQS (R233). -/
def execAcqs (wr : Wires) (s : State) : Host.Outcome State Fault Refusal :=
  oxRow (opWord (.acqs wr)) wr (fun r => r.taken) s

/-- CINIT (R236). -/
def execCinit (b : BitVec 6) (wr : Wires) (s : State) : Host.Outcome State Fault Refusal :=
  jobRowOf (opWord (.cinit b wr)) wr (fun r => r.cinchRow []) s

/-- CARR (R237). -/
def execCarr (b : BitVec 6) (v : BitVec 2) (wr : Wires) (s : State) : Host.Outcome State Fault Refusal :=
  jobRowOf (opWord (.carr b v wr)) wr (fun r => r.cinchRow []) s

/-- CQRY (R236). -/
def execCqry (b : BitVec 6) (u : BitVec 4) (wr : Wires) (s : State) : Host.Outcome State Fault Refusal :=
  jobRowOf (opWord (.cqry b u wr)) wr (fun r => r.cinchRow []) s

/-- CDROP (R236). -/
def execCdrop (b : BitVec 6) (wr : Wires) (s : State) : Host.Outcome State Fault Refusal :=
  jobRowOf (opWord (.cdrop b wr)) wr (fun r => r.cinchRow []) s

/-- CEXPB (R238). -/
def execCexpb (b : BitVec 6) (wr : Wires) (s : State) : Host.Outcome State Fault Refusal :=
  jobRowOf (opWord (.cexpb b wr)) wr (fun r => r.cinchRow [r.a, r.b]) s

/-- CINCH_REQUEST_ARRIVAL (R235: the request of element k). -/
def execCinchRequestArrival (k : Nat) (s : State) : Host.Outcome State Fault Refusal :=
  lift (fun f => f.cinchRequest k) s

/-- CINCH_ANSWER_ARRIVAL (R235). -/
def execCinchAnswerArrival (e : ElemId) (s : State) : Host.Outcome State Fault Refusal :=
  lift (fun f => f.cinchAnswered e) s

/-- CINCH_PEND_SUBTRACT (R238). -/
def execCinchPendSubtract (die : Nat) (k : Nat) (n : Nat) (s : State) : Host.Outcome State Fault Refusal :=
  lift (fun f => (f.setCinch (die * 256 + k) ((f.cinch (die * 256 + k)).subBytes n)).cinchTest (die * 256 + k)) s

/-- COLL (R240). -/
def execColl (b : BitVec 6) (w : BitVec 1) (s : BitVec 1) (q : BitVec 2) (wr : Wires) (st : State) : Host.Outcome State Fault Refusal :=
  jobRowOf (opWord (.coll b w s q wr)) wr Row.collRow st

/-- COLL_CONTRIBUTION_ARRIVAL (R240, R241). -/
def execCollContributionArrival (k : Nat) (s : State) : Host.Outcome State Fault Refusal :=
  lift (fun f => f.collArrived k) s

/-- COLL_RETIREMENT (R242). -/
def execCollRetirement (e : ElemId) (s : State) : Host.Outcome State Fault Refusal :=
  lift (fun f => f.collAnswered e) s

end Sys2Proof.Machine
end

