-- ==== Sys2Proof/Machine/Matrix.lean ====
section
/-! DEFINITION. The matrix node: its commands, the groups it commits, loads and drains, stops and resumes (spec 03_numbers R78-R81,
10_matrix R243-R265). -/

namespace Sys2Proof.Machine

/-! ### Parameter blocks and classes (R78, R246, R253, R258, R259) -/

/-- Fields of a matrix parameter block. -/
def mM (b : BitVec 256) : Nat := bits (pword b 0) 0 6 + 1
def mN (b : BitVec 256) : Nat := bits (pword b 0) 6 6 + 1
def mK (b : BitVec 256) : Nat := bits (pword b 0) 12 12 + 1
def mAcc (b : BitVec 256) : Bool := (pword b 0).testBit 24
def mTa (b : BitVec 256) : Bool := (pword b 0).testBit 25
def mTb (b : BitVec 256) : Bool := (pword b 0).testBit 26
def mHa (b : BitVec 256) : Nat := bits (pword b 1) 0 10
def mHb (b : BitVec 256) : Nat := bits (pword b 1) 16 10
def mFa (b : BitVec 256) : Ty := tyOf (bits (pword b 4) 0 5)
def mFb (b : BitVec 256) : Ty := tyOf (bits (pword b 4) 5 5)
def mCba (b : BitVec 256) : Nat := bits (pword b 4) 10 3
def mCbb (b : BitVec 256) : Nat := bits (pword b 4) 13 3
def mSynA (b : BitVec 256) : Bool := (pword b 5).testBit 0
def mSynB (b : BitVec 256) : Bool := (pword b 5).testBit 1
def mBfib (b : BitVec 256) : Bool := (pword b 5).testBit 2
/-- First cell row and column of a drain, and its half-chain. -/
def mI0 (b : BitVec 256) : Nat := bits (pword b 0) 12 6
def mJ0 (b : BitVec 256) : Nat := bits (pword b 0) 18 6
def mRm (b : BitVec 256) : Nat := bits (pword b 4) 5 3
def mSat (b : BitVec 256) : Bool := (pword b 4).testBit 8

/-- The compute classes (R78). -/
inductive MClass where
  | f4 | i4 | f8 | i8 | h16 | f19 | i16 | f32
  deriving DecidableEq, Repr

/-- The class of a feed type. -/
def classOf : Ty → Option MClass
  | .fp4e2 | .mx4e2 | .fb4 => some .f4
  | .i4 | .n4 => some .i4
  | .fp8e4 | .fp8e5 | .fp6e3 | .fp6e2 | .mx8e4 | .mx8e5 | .mx6e3 | .mx6e2 | .vq4f => some .f8
  | .i8 | .n8 | .mxi8 | .gi4 => some .i8
  | .bf16 | .fp16 | .vq4b => some .h16
  | .fp19 => some .f19
  | .i16 => some .i16
  | .fp32 => some .f32
  | _ => none

/-- Group size G. -/
def MClass.g : MClass → Nat
  | .f4 | .i4 | .f8 | .i8 => 32
  | .h16 => 8
  | .f19 | .i16 => 4
  | .f32 => 1

/-- Ticks for each k-step, in halves (R250). -/
def MClass.half : MClass → Nat
  | .f4 | .i4 => 1
  | .f8 | .i8 => 2
  | .h16 => 4
  | .f19 | .i16 => 8
  | .f32 => 32

/-- Is the accumulator of a pair of feed types i32? -/
def accI32 (fa fb : Ty) : Bool :=
  match classOf fa with
  | some .i4 | some .i16 => true
  | some .i8 => [Ty.i8, .n8].contains fa && [Ty.i8, .n8].contains fb
  | _ => false

/-- The feed types that MMA accepts. -/
def mmaTy (t : Ty) : Bool :=
  [Ty.i16, .i8, .n8, .i4, .n4, .fp32, .fp19, .bf16, .fp16, .fp8e4, .fp8e5, .fp6e3, .fp6e2, .fp4e2].contains t

/-- Does an opcode accept its feed types (R246)? -/
def feedOk (opc : Nat) (fa fb : Ty) : Bool :=
  (match classOf fa, classOf fb with
    | some x, some y => x == y
    | _, _ => false) &&
  (match opc with
    | 0xA0 => mmaTy fa && mmaTy fb
    | 0xA1 => [Ty.bf16, .fp16, .i16].contains fa && [Ty.bf16, .fp16, .i16].contains fb
    | 0xA2 => isVq fa || isVq fb
    | _ => (isBlock fa || isBlock fb) && !isVq fa && !isVq fb)

/-! ### The checks of a loader for a matrix block (R246, R247, R253, R258-R260, R264) -/

/-- Cause codes of R52 that a parameter block can give. -/
def ldResbit : Nat := 0x0B
def ldRmode : Nat := 0x0C
def ldOptype : Nat := 0x0D
def ldWave : Nat := 0x13
def ldStore : Nat := 0x18
def ldSubop : Nat := 0x19

/-- Are the bits of a block outside a mask of each word zero? -/
def onlyBits (b : BitVec 256) (masks : List Nat) : Bool :=
  (List.range 8).all fun k => pword b k &&& (masks.getD k 0) == pword b k

/-- Is a wave field 0 or an entry of a kind? -/
def waveIs (wave : List W32) (q kind : Nat) : Bool := q == 0 || waveKind (wave.getD q 0) == kind

/-- The first failing check of a multiply's block; 0 where it is accepted. -/
def mulBlock (opc : Nat) (b : BitVec 256) (za zb : Bool) (wave : List W32) (owns : Ty → Nat → Bool) : Nat :=
  let fa := mFa b
  let fb := mFb b
  let cb (t : Ty) (n : Nat) : Bool := if isVq t then owns (vqTy t) n else n == 0
  if !onlyBits b [0x7FFFFFF, 0x3FF03FF, 0xFFFFFF, 0xFFFFFF, 0x1FFFFFFF, 7, 0, 0] || (!za && mHa b != 0) || (!zb && mHb b != 0) ||
      (opc != 0xA1 && mBfib b) then ldResbit
  else if opc == 0xA1 && mTa b then ldSubop
  else if !feedOk opc fa fb then ldOptype
  else if !cb fa (mCba b) || !cb fb (mCbb b) then ldStore
  else if 30 ≤ bits (pword b 4) 24 5 then ldSubop
  else if !waveIs wave (bits (pword b 4) 16 4) 1 || !waveIs wave (bits (pword b 4) 20 4) 1 then ldWave
  else 0

/-- The first failing check of MACC's block. -/
def maccBlock (b : BitVec 256) (za : Bool) (wave : List W32) : Nat :=
  if !onlyBits b [0xFFF, 0x3FF, 0xFFFFFF, 0, 0x1F0F001F, 1, 0, 0] || (!za && mHa b != 0) then ldResbit
  else if 30 ≤ bits (pword b 4) 24 5 then ldSubop
  else if !waveIs wave (bits (pword b 4) 16 4) 1 then ldWave
  else 0

/-- The first failing check of MDRN's block. -/
def mdrnBlock (var : Nat) (b : BitVec 256) (za : Bool) (wave : List W32) : Nat :=
  let fd := tyOf (bits (pword b 4) 0 5)
  if !onlyBits b [0xFFFFFF, 0x3FF, 0xFFFFFF, 0, 0x3FFFF, 0, 0, 0] || (!za && mHa b != 0) ||
      (var == 1 && (pword b 1 != 0 || pword b 2 != 0)) then ldResbit
  else if mRm b = 7 then ldSubop
  else if var = 1 ∧ !(isFloat fd || isInt fd) then ldOptype
  else if 30 ≤ bits (pword b 4) 13 5 || 64 < mI0 b + mM b || 64 < mJ0 b + mN b then ldSubop
  else if !waveIs wave (bits (pword b 4) 9 4) 2 then ldWave
  else 0

/-- The first failing check of a matrix command: its var and sub, then its block. -/
def matrixErr (opc var sub : Nat) (b : BitVec 256) (za zb : Bool) (wave : List W32) (owns : Ty → Nat → Bool) : Nat :=
  if opc ≤ 0xA3 then (if var ≠ 0 ∨ sub ≠ 0 then ldSubop else mulBlock opc b za zb wave owns)
  else if opc = 0xA4 then (if var ≠ 0 ∨ 2 ≤ sub then ldSubop else maccBlock b za wave)
  else if 2 ≤ var ∨ sub ≠ 0 then ldSubop else mdrnBlock var b za wave

/-- The types of MD: those of the element's MDRN rows to MD (R259). -/
def Share.mdTypes (sh : Share) : List Ty :=
  ((sh.opWords.filter fun w => fld w 16 8 = 0xA5 && fld w 4 2 = 1).map fun w => tyOf (bits (pword (sh.block w) 4) 0 5)).eraseDups

/-- Does a type suit MD's readers: that of the element's MDRN rows to MD or, where it has none, one that every row that reads MD accepts
(R259, R264)? -/
def Share.mdFits (sh : Share) (fd : Ty) : Bool :=
  match sh.mdTypes with
  | t :: _ => t == fd
  | [] =>
    let row (op : BitVec 24) (route : BitVec 16) : Bool :=
      let s := sigOf op (bits (pword (sh.block op) 0) 8 4)
      let w := decodeRoute route
      (w.a != 8 || s.a.has fd) && (w.b != 8 || s.b.has fd)
    let lo := max sh.op.length 1
    let lr := max sh.route.length 1
    ((List.range (Nat.lcm lo lr)).all fun g => row (sh.op.getD (g % lo) 0) (sh.route.getD (g % lr) 0xFF00)) &&
      sh.armRows.all fun x => row (x.2.extractLsb' 32 24) (x.2.extractLsb' 16 16)

/-- The wave entries that a command shipped by an MSHP row can name, 16 × block + entry: those of the blocks that a matrix command may use
and that no row of the element names itself (R224, R264; log 53). -/
def Share.shipped (sh : Share) : List Nat :=
  if sh.opWords.any fun w => fld w 16 8 = 0xA9 then
    let own := (sh.opWords.filter fun w => formOf (fld w 16 8).toNat = .ox && fld w 16 8 != 0xA9).map fun w => (fld w 10 6).toNat
    ((sh.params.filter fun p => !own.contains p.1).flatMap fun (k, pb) =>
      ([(0xA0, 0, 0), (0xA1, 0, 0), (0xA2, 0, 0), (0xA3, 0, 0), (0xA4, 0, 0), (0xA5, 0, 0)] : List (Nat × Nat × Nat)).flatMap
        fun (o, v, u) =>
          if matrixErr o v u pb true true sh.wave sh.ownsCb = 0 then
            ((blockWaves (BitVec.ofNat 24 (o * 2 ^ 16)) pb).filter (· != 0)).map (16 * k + ·)
          else []).eraseDups
  else []

/-! ### Admission (R254) -/

/-- Opcode, var and sub of a command. -/
def MCmd.opc (m : MCmd) : Nat := (fld m.op 16 8).toNat
def MCmd.var (m : MCmd) : Nat := (fld m.op 4 2).toNat
def MCmd.sub (m : MCmd) : Nat := (fld m.op 0 4).toNat
/-- Is the command a multiply? -/
def MCmd.mul (m : MCmd) : Bool := decide (m.opc ≤ 0xA3)
/-- The form of MACC that clears, and the form of MDRN that drains to MD. -/
def MCmd.clear (m : MCmd) : Bool := m.opc == 0xA4 && m.sub == 1
def MCmd.toMD (m : MCmd) : Bool := m.opc == 0xA5 && m.var == 1

/-- Does a vq or block-scaled operand run along k in its layout, from a multiple of its block (R247)? `al` says that k runs along the
columns of the tile. -/
def kRuns (t : Tile) (along : Bool) (o : Nat) : Bool :=
  !(isVq t.fmt || isBlock t.fmt) || ((if along then t.lay == 0 || t.lay == 2 else t.lay == 1) && o % blockLen t.fmt == 0)

/-- Does a window of rows and columns from an origin lie in a tile? -/
def windowIn (t : Tile) (r0 c0 rows cols : Nat) : Bool := decide (r0 + rows ≤ t.rows ∧ c0 + cols ≤ t.cols)

/-- The cause of a multiply's failing check at admission, 0 where it passes. -/
def mulCheck (opc : Nat) (b : BitVec 256) (ta tb : Option Tile) : Nat :=
  match ta, tb with
  | some a, some t =>
    let (ra, ca) := origin b 2
    let (rb, cb) := origin b 3
    let m := mM b
    let n := mN b
    let k := mK b
    let sparse := opc == 0xA1
    let inA := if sparse then decide (ra + m ≤ a.rows) else if mTa b then windowIn a ra ca k m else windowIn a ra ca m k
    let inB := if sparse && mBfib b then decide (rb < t.rows) else if mTb b then windowIn t rb cb n k else windowIn t rb cb k n
    let fibs := if sparse then a.fibre && ca == 0 && (if mBfib b then t.fibre && cb == 0 && n == 1 else !t.fibre) else !a.fibre && !t.fibre
    let runs := sparse || (kRuns a (!mTa b) (if mTa b then ra else ca) && kRuns t (mTb b) (if mTb b then cb else rb))
    if !inA || !inB then jcBounds else if a.fmt ≠ mFa b || t.fmt ≠ mFb b || !fibs || !runs then jcFormat else 0
  | _, _ => jcHandle

/-- The check of MACC and MDRN at admission. -/
def moveCheck (m : MCmd) (ta : Option Tile) : Nat :=
  let b := m.pb
  let (r0, c0) := origin b 2
  let fa := mFa b
  if m.clear then (if fa = .fp32 ∨ fa = .i32 then 0 else jcFormat)
  else if m.toMD then 0
  else match ta with
    | none => jcHandle
    | some t =>
      let blk := blockOf t.fmt
      if !windowIn t r0 c0 (mM b) (mN b) then jcBounds
      else if t.fmt ≠ fa || t.fibre then jcFormat
      else if m.opc = 0xA4 ∧ !(fa = .fp32 ∨ fa = .i32) then jcFormat
      else if m.opc = 0xA5 ∧ (isVq fa || (isBlock fa && (t.lay == 1 || c0 % blk != 0 || mN b % blk != 0))) then jcFormat
      else 0

/-! ### Starting (R250, R255, R258, R259, R267) -/

/-- The ports that an opcode occupies (R266). -/
def portsOf (op : BitVec 24) : List Nat :=
  match (fld op 16 8).toNat with
  | 0xB0 => [(fld op 4 2).toNat % 2]
  | 0xB7 => [0]
  | 0xB1 | 0xB6 | 0xBF => [2]
  | 0xA0 | 0xA1 | 0xA2 | 0xA3 => [0, 1]
  | 0xA5 => [2]
  | _ => []

/-- May a user with an admission number take its ports: nobody holds one, and nobody waits for one longer (R267)? -/
def Elem.portFree (x : Elem) (ports : List Nat) (seq : Nat) : Bool :=
  let clash (op : BitVec 24) (begun : Bool) (n : Nat) : Bool :=
    (portsOf op).any ports.contains && (begun || decide (n < seq)) && n != seq
  (x.sq.toList.all fun j => !(j.live && (j.st == .running || j.st == .stopped) && clash j.op j.begun j.seq)) &&
    (x.mq.head?.toList.all fun m => !(clash m.op m.begun m.seq))

/-- The fabric with the head of queue M changed. -/
def Fab.modHead (f : Fab) (e : ElemId) (g : MCmd → MCmd) : Fab :=
  f.modElem e fun x => { x with mq := match x.mq with
    | m :: ms => g m :: ms
    | [] => [] }

/-- The fabric with a node changed. -/
def Fab.modNode (f : Fab) (e : ElemId) (g : Node → Node) : Fab := f.modElem e fun x => { x with node := g x.node }
/-- The fabric with a progress register changed. -/
def Fab.modPrg (f : Fab) (e : ElemId) (g : MProg → MProg) : Fab := f.modNode e fun n => { n with prg := g n.prg }

/-- A cell; absent ones are +0. -/
def Node.cell (n : Node) (i j : Nat) : Val := (mget (64 * i + j) n.cells).getD {}
/-- The node with a cell set, in canonical form. -/
def Node.setCell (n : Node) (i j : Nat) (v : Val) : Node :=
  { n with cells := if v = {} then mdel (64 * i + j) n.cells else mput (64 * i + j) v n.cells, marks := mdel (64 * i + j) n.marks }

/-- Cells of a window about to be read: one with an uncorrectable error is poison of cause UNCORR, a single-bit error is corrected and counted
(R243, R351, R354; log 53). -/
def Fab.checkCells (f : Fab) (e : ElemId) (run i0 j0 mm nn : Nat) : Fab :=
  (f.elem e).node.marks.foldl (fun (f : Fab) (k, mark) =>
    let i := k / 64
    let j := k % 64
    if i < i0 ∨ i0 + mm ≤ i ∨ j < j0 ∨ j0 + nn ≤ j then f
    else if mark / 4 % 2 = 1 then
      f.modNode e fun n => { n.setCell i j ⟨poisonOf causeUncorr e, true⟩ with prg := { n.prg with psn := true } }
    else
      let f := f.modNode e fun n => { n with marks := mdel k n.marks }
      let f : Fab := { f with corr := mput (dieOf e) (min (2 ^ 32 - 1) ((mget (dieOf e) f.corr).getD 0 + 1)) f.corr }
      match mget run f.runs with
      | none => f
      | some r =>
        let f := if r.corrSent then f else f.event 2 e r.ctx r 0 0
        f.modRun run fun r => { r.raise 1 with corrSent := true }) f

/-- 1.0 as fp32. -/
def one32 : W32 := 0x3F800000
/-- The tensor scale of an operand (R254). -/
def Tile.ts (t : Tile) : W32 := if t.fmt = .fb4 then t.tscale else one32

/-- The head command ends with a state and cause; it retires on a tick. -/
def Fab.mEnd (f : Fab) (e : ElemId) (st : MState) (cause t : Nat) : Fab :=
  let f := match (f.elem e).mq with
    | m :: _ => (blockWaves m.op m.pb).eraseDups.foldl (fun (f : Fab) q => f.perform e m.run m.copy m.frame q) f
    | [] => f
  ((f.modPrg e fun p => { p with st := st, cause := cause }).modHead e fun m => { m with due := t }).at t 2 (.matrixCommandRetirement e)

/-- Ticks before the first k-step or row by the level of the tiles (R249, R258, R259). -/
def mLead (ts : List Tile) : Nat := if ts.any (·.lvl == 3) then 44 else if ts.any (·.lvl == 2) then 16 else 0

/-- Halves of a tick for each k-step: the class's own, or what the levels of the operands supply (R249). -/
def mulHalf (c : MClass) (b : BitVec 256) (ta tb : Tile) : Nat :=
  let bytes (t : Tile) (rows : Nat) : Nat := (rows * elemBits t.fmt + 7) / 8
  let a := bytes ta (mM b)
  let n := bytes tb (mN b)
  let d (t : Tile) (k : Nat) : Nat := if t.lvl = 2 then 2 * ((k + 31) / 32) else 0
  let g := 2 * (((if ta.lvl = 3 then a else 0) + (if tb.lvl = 3 then n else 0) + 63) / 64)
  max (max c.half (d ta a)) (max (d tb n) g)

/-! ### Fibres (R256, R257, R261) -/

/-- What a feed comes to before its group is whole: a word that is not yet full, or a fault at an element. -/
inductive Halt where
  | wait
  | fault (x : XFault) (opnd : Bool) (idx : Nat)

/-- The tokens of a fibre from item i on, up to the first whose coordinate lies at or above `hi` or does not rise, which is read and is the
last; a fault stands at the coordinate behind the last one read (log 53). -/
def Fab.fibreUpTo (f : Fab) (e : ElemId) (m : MCmd) (t : Tile) (syn : Bool) (row hi : Nat) :
    Nat → Nat → Nat → Except (Option (XFault × Nat)) (List (Nat × Nat × Bool)) × Fab
  | 0, _, _ => (.ok [], f)
  | n + 1, i, lo =>
    let bo := (row * t.cols + i) * 32
    if syn && !f.wordF e t (bo / 64) then (.error none, f)
    else match f.readBits e m.c m.run t bo 32 with
      | (.error x, f) => (.error (some (x, lo)), f)
      | (.ok (v, p), f) =>
        let k := v / 2 ^ 16
        if k = 0xFFFF then (.ok [], f)
        else if hi ≤ k ∨ k < lo then (.ok [(k, v % 2 ^ 16, p)], f)
        else match f.fibreUpTo e m t syn row hi n (i + 1) (k + 1) with
          | (.ok ts, f) => (.ok ((k, v % 2 ^ 16, p) :: ts), f)
          | r => r

/-- The coordinates below `hi` of a fibre as its words stand. -/
def Fab.fibreCoords (f : Fab) (e : ElemId) (m : MCmd) (t : Tile) (row hi : Nat) : Option (List Nat) :=
  match (f.fibreUpTo e m t false row hi t.cols 0 0).1 with
  | .ok ts => some ((ts.map (·.1)).filter (decide <| · < hi))
  | .error _ => none

/-- Ticks that the k-steps of a sparse multiply take from coordinate lo up to hi, with `half` halves of a tick for each (R257). -/
def Fab.fibreTicks (f : Fab) (e : ElemId) (m : MCmd) (ta tb : Tile) (half lo hi : Nat) : Option Nat :=
  let fibre (t : Tile) (row : Nat) : Option (List Nat) := (f.fibreCoords e m t row hi).map fun ks => ks.filter (decide <| lo ≤ ·)
  let as := (List.range (mM m.pb)).map fun i => fibre ta (bits (pword m.pb 2) 0 12 + i)
  if as.any (·.isNone) then none
  else
    let as := as.filterMap id
    let ticks (n : Nat) : Nat := (n * half + 1) / 2
    if mBfib m.pb then
      (fibre tb (bits (pword m.pb 3) 0 12)).map fun b =>
        (as.map fun a => (a.length + b.length + 3) / 4 + ticks (a.filter b.contains).length).foldl max 0
    else some (ticks (as.foldl (fun u a => u ++ a.filter fun k => !u.contains k) []).length + ((as.map (·.length)).foldl max 0 + 3) / 4)

/-- Tick on which group g of a multiply, or row g of a load or drain, is due after a start at from0 (R250, R258, R259). -/
def Fab.mDue (f : Fab) (e : ElemId) (m : MCmd) (g : Nat) : Nat :=
  let b := m.pb
  let ta := (f.tileOf e m.c m.ha).getD {}
  let tb := (f.tileOf e m.c m.hb).getD {}
  if m.mul then
    let c := (classOf (mFa b)).getD .f32
    let hi := min (mK b) ((g + 1) * c.g)
    let half := mulHalf c b ta tb
    let dense := ((hi - m.from0 * c.g) * half + 1) / 2
    m.start + mLead [ta, tb] + mM b + mN b +
      (if m.opc = 0xA1 then (f.fibreTicks e m ta tb half (m.from0 * c.g) hi).getD dense else dense)
  else
    let bytes := (mN b * elemBits (mFa b) + 7) / 8
    let each := if ta.lvl = 1 then 1 else if ta.lvl = 2 ∧ m.opc = 0xA5 then (bytes + 31) / 32 else if ta.lvl = 2 then 1 else (bytes + 63) / 64
    m.start + 2 + mLead [ta] + (g - m.from0) * each

/-- The event by which the head command goes on. -/
def MCmd.event (m : MCmd) (e : ElemId) : Instr := if m.toMD then .mdDrainToken e else .matrixGroupCommit e

/-- The head command's next group, row or token is due. -/
def Fab.mNext (f : Fab) (e : ElemId) : Fab :=
  match (f.elem e).mq with
  | [] => f
  | m :: _ =>
    let t := if m.toMD then m.start + 2 else f.mDue e m (f.elem e).node.prg.done
    (f.modHead e fun m => { m with due := t }).at t 2 (m.event e)

/-- Every cell of the node, or those of a window, +0 without poison. -/
def Node.clearWindow (n : Node) (mm nn : Nat) : Node :=
  { n with
    cells := n.cells.filter fun (k, _) => !(decide (k / 64 < mm) && decide (k % 64 < nn))
    marks := n.marks.filter fun (k, _) => !(decide (k / 64 < mm) && decide (k % 64 < nn)) }
/-- Cells outside a window +0, their poison kept. -/
def Node.zeroOutside (n : Node) (mm nn : Nat) : Node :=
  { n with cells := n.cells.filter fun (k, v) => (decide (k / 64 < mm) && decide (k % 64 < nn)) || v.p }

/-- The state that a multiply with ACC = 0 or a load leaves before its first group or row (R255, R258). -/
def Node.fresh (n : Node) (i32 : Bool) (ta tb : W32) (mm nn : Nat) : Node :=
  let n := if n.i32 != i32 then n.zeroOutside mm nn else n
  { n with i32 := i32, ta := ta, tb := tb, prg := { n.prg with sat := false, flags := 0, psn := false } }

/-- Places that a drain to a tile writes for cell (i, j) of its window. -/
def MCmd.places (m : MCmd) (t : Tile) (k : Nat) : List (Nat × Nat) :=
  let (r0, c0) := origin m.pb 2
  [(t.index (r0 + k / mN m.pb) (c0 + k % mN m.pb) * t.itemBits, t.itemBits)]

/-- TOTAL of a command: its groups, or the rows of its window (R251). -/
def MCmd.total (m : MCmd) : Nat :=
  let g := ((classOf (mFa m.pb)).getD .f32).g
  if m.mul then (mK m.pb + g - 1) / g else mM m.pb

/-- The head command begins, on tick T: the checks of T, then its state; while a port that it needs is held it waits, and the register describes it
(R250, R251, R254, R255, R267). -/
def Fab.mBegin (f : Fab) (e : ElemId) : Fab :=
  match (f.elem e).mq with
  | [] => f
  | m :: _ =>
    let n := (f.elem e).node
    let b := m.pb
    let ta := f.tileOf e m.c m.ha
    let tb := f.tileOf e m.c m.hb
    let i32 := if m.mul then accI32 (mFa b) (mFb b) else mFa b == .i32
    let sa := (ta.map Tile.ts).getD one32
    let sb := (tb.map Tile.ts).getD one32
    let late := m.mul && mAcc b && (n.i32 != i32 || n.ta != sa || n.tb != sb)
    let cause := if m.cause ≠ 0 then m.cause else if late then jcFormat else 0
    let begin_ (p : MProg) : MProg :=
      { st := .idle, opc := m.opc, sat := p.sat, flags := p.flags, psn := p.psn
        total := m.total }
    if cause ≠ 0 then
      ((f.modHead e fun m => { m with begun := true, start := f.clock }).modPrg e begin_).mEnd e .aborted cause (f.clock + 1)
    else if !(f.elem e).portFree (portsOf m.op) m.seq then
      ((f.modHead e fun m => { m with due := f.clock + 1 }).modPrg e begin_).at (f.clock + 1) 2 (m.event e)
    else
      let f := (f.modHead e fun m => { m with begun := true, start := f.clock }).modPrg e begin_
      if m.mul then
        let f := if mAcc b then f else f.modNode e fun n => (n.fresh i32 sa sb (mM b) (mN b)).clearWindow (mM b) (mN b)
        (f.modPrg e fun p => { p with st := .feeding }).mNext e
      else if m.clear then
        (f.modNode e fun n => { n.fresh i32 one32 one32 64 64 with cells := [], marks := [] }).mEnd e .done 0 (f.clock + 1)
      else if m.opc = 0xA4 then
        ((f.modNode e fun n => n.fresh i32 one32 one32 (mM b) (mN b)).modPrg e fun p => { p with st := .draining }).mNext e
      else
        let f := match ta, m.toMD with
          | some t, false =>
            let lasts := lastsAll (m.places t) (mM b * mN b)
            (f.emptyWords e m.c t lasts).modHead e fun m => { m with lasts := lasts }
          | _, _ => f
        (f.modPrg e fun p => { p with st := .draining }).mNext e

/-! ### Groups (R248, R255, R257) -/

/-- A place of the feed: operand (false A), element index of R251. -/
structure Feed where
  opnd : Bool
  idx : Nat
  item : Nat

/-- Elements read in feed order, or the fault with its place. -/
def Fab.readFeed (f : Fab) (e : ElemId) (m : MCmd) (ta tb : Tile) : List Feed → Except (XFault × Feed) (List Elt) × Fab
  | [] => (.ok [], f)
  | x :: xs =>
    let t := if x.opnd then tb else ta
    match f.readElt e m.c m.run t true (if x.opnd then mCbb m.pb else mCba m.pb) x.item with
    | (.error y, f) => (.error (y, x), f)
    | (.ok v, f) =>
      match f.readFeed e m ta tb xs with
      | (.ok vs, f) => (.ok (v :: vs), f)
      | r => r

/-- Item of A(i, k) and of B(k, j) (R245). -/
def MCmd.itemA (m : MCmd) (t : Tile) (i k : Nat) : Nat :=
  let (r, c) := origin m.pb 2
  if mTa m.pb then t.index (r + k) (c + i) else t.index (r + i) (c + k)
def MCmd.itemB (m : MCmd) (t : Tile) (k j : Nat) : Nat :=
  let (r, c) := origin m.pb 3
  if mTb m.pb then t.index (r + j) (c + k) else t.index (r + k) (c + j)

/-- The feed of the k-steps lo to hi − 1: A by rows, then B by columns, for each; a fibre operand is read apart. -/
def MCmd.feed (m : MCmd) (ta tb : Tile) (lo hi : Nat) : List Feed :=
  (List.range (hi - lo)).flatMap fun d =>
    let k := lo + d
    (if ta.fibre then [] else (List.range (mM m.pb)).map fun i => ⟨false, i * mK m.pb + k, m.itemA ta i k⟩) ++
      (if tb.fibre then [] else (List.range (mN m.pb)).map fun j => ⟨true, k * mN m.pb + j, m.itemB tb k j⟩)

/-- The fibres of an operand from a row on, as far as coordinates below `hi` reach: the good part of each, and whether it is malformed. A
fault stands at i × K + k for A, k × N for B (R251). -/
def Fab.readFibres (f : Fab) (e : ElemId) (m : MCmd) (t : Tile) (row : Nat) (opnd : Bool) (hi : Nat) :
    Nat → Nat → Except Halt (List (List (Nat × Nat × Bool) × Bool)) × Fab
  | 0, _ => (.ok [], f)
  | n + 1, i =>
    match f.fibreUpTo e m t (if opnd then mSynB m.pb else mSynA m.pb) (row + i) hi t.cols 0 0 with
    | (.error none, f) => (.error .wait, f)
    | (.error (some (x, k)), f) => (.error (.fault x opnd (if opnd then k * mN m.pb else i * mK m.pb + k)), f)
    | (.ok ts, f) =>
      match f.readFibres e m t row opnd hi n (i + 1) with
      | (.ok xs, f) => (.ok (fibreGood (mK m.pb) 0 ts :: xs), f)
      | r => r

/-- The exact sum of the products of a group, and whether it is invalid (R80). -/
def groupSum (ps : List (Num × Bool)) : Num × Bool :=
  if ps.any fun p => p.2 || p.1.isNan then (.nan false, true)
  else ps.foldl (fun (s, i) p => let (v, j) := Num.add false s p.1; (v, i || j)) (.fin false 0 1, false)

/-- The product of two elements; one that reads a NaN is invalid (R80). -/
def product (a b : Elt) : Num × Bool :=
  let (v, i) := Num.mul a.x b.x
  (v, i || a.x.isNan || b.x.isNan)

/-- A cell's accumulator after a group sum: value, flags, clamp; a sum from +0 that underflows to zero stays +0 (R79, R80). -/
def accumulate (i32 : Bool) (acc : W32) (s : Num × Bool) : W32 × W32 × Bool :=
  if i32 then
    let v : Int := acc.toInt + (match s.1 with
      | .fin neg n d => let x : Int := (n / max d 1 : Nat); if neg then -x else x
      | _ => 0)
    let c := clampInt (-2147483648) 2147483647 v
    (BitVec.ofInt 32 c, 0, c != v)
  else
    let x := Fmt.fp32.value acc.toNat
    let (v, i) := Num.add false x s.1
    let (c, fl) := Fmt.fp32.round .rne false 0 v
    let c := if acc = 0 ∧ c = 2 ^ 31 then 0 else c
    (BitVec.ofNat 32 c, { fl with nv := fl.nv || s.2 || i || x.isSig }.toEsr, false)

/-- A cell after a group: a poison operand of a product poisons it, a poison cell stays, no product leaves it (R248, R257). -/
def cellStep (e : ElemId) (i32 : Bool) (old : Val) (ps : List (Elt × Elt)) : Val × W32 × Bool × Bool :=
  if old.p then (old, 0, false, false)
  else if ps.any fun (a, b) => a.p || b.p then (⟨poisonOf causeUncorr e, true⟩, 0, false, true)
  else if ps.isEmpty then (old, 0, false, false)
  else
    let (v, fl, sat) := accumulate i32 old.v (groupSum (ps.map fun (a, b) => product a b))
    (⟨v, false⟩, fl, sat, false)

/-- The element that a fibre gives at a coordinate. -/
def fibreElt (ty : Ty) (ts : List (Nat × Nat × Bool)) (k : Nat) : Option Elt :=
  (ts.find? fun t => t.1 == k).map fun t => scalarElt ty t.2.1 t.2.2

/-- The group committed in every cell of the window. -/
def Node.commit (n : Node) (e : ElemId) (mm nn lo hi : Nat) (av bv : Nat → Nat → Option Elt) (bad : Nat → Bool) (nan : Bool) : Node :=
  (List.range mm).foldl (fun n i =>
    (List.range nn).foldl (fun n j =>
      let ps := (List.range (hi - lo)).filterMap fun d =>
        match av i (lo + d), bv (lo + d) j with
        | some a, some b => some (a, b)
        | _, _ => none
      let old := n.cell i j
      let (v, fl, sat, psn) :=
        if bad i then ((if old.p then old else ⟨poisonOf causeElemfault e, true⟩), 0, false, true)
        else if nan && !old.p then (⟨0x7FC00000, false⟩, ({ nv := true } : Flags).toEsr, false, false)
        else cellStep e n.i32 old ps
      let n := n.setCell i j v
      { n with prg := { n.prg with flags := n.prg.flags ||| (fl &&& 31), sat := n.prg.sat || sat, psn := n.prg.psn || psn } }) n) n

/-- The head command loses a tick: every later group or row is a tick later (R250). -/
def Fab.mStall (f : Fab) (e : ElemId) : Fab :=
  match (f.elem e).mq with
  | [] => f
  | m :: _ => (f.modHead e fun m => { m with start := m.start + 1, due := f.clock + 1 }).at (f.clock + 1) 2 (m.event e)

/-- A fault of the feed: the registers name it, and the stop takes effect (R261). -/
def Fab.mFault (f : Fab) (e : ElemId) (x : XFault) (opnd : Bool) (idx : Nat) : Fab :=
  ((f.modHead e fun m => { m with fault := some (x.xc, x.va) }).modPrg e fun p => { p with opnd := opnd, fidx := idx }).at f.clock 2
    (.matrixFeedFault e)

/-- Is an fb4 operand's tensor scale unusable (R255)? -/
def badScale4 (t : Tile) : Bool :=
  t.fmt == .fb4 && (match Fmt.fp32.value t.tscale.toNat with
    | .fin neg n _ => neg || n == 0
    | _ => true)

/-- The words of an operand that a feed reads. -/
def feedWords (t : Tile) (opnd : Bool) (xs : List Feed) : List Nat :=
  (xs.filter fun x => x.opnd == opnd).flatMap fun x => t.srcWords x.item

/-- The head multiply stops at a group boundary for a move of its element (R262). -/
def Fab.mMoved (f : Fab) (e : ElemId) : Fab := f.modPrg e fun p => { p with st := .stopped, cause := jcMoved }

/-- The head multiply that a move stopped goes on by itself where the move ends (R262). -/
def Fab.mUnmove (f : Fab) (e : ElemId) : Fab :=
  let p := (f.elem e).node.prg
  if p.st = .stopped ∧ p.cause = jcMoved then
    ((f.modPrg e fun p => { p with st := .feeding, cause := 0 }).modHead e fun m => { m with start := f.clock, from0 := p.done }).mNext e
  else f

/-- The feed waits a tick; of an element that moves, it stops instead (R250, R262). -/
def Fab.mFeedWait (f : Fab) (e : ElemId) : Fab := if f.moving e then f.mMoved e else f.mStall e

/-- Elements that a group reads: its fibres, then its dense elements in feed order. -/
def Fab.readGroup (f : Fab) (e : ElemId) (m : MCmd) (ta tb : Tile) (hi : Nat) (feed : List Feed) :
    Except Halt (List (List (Nat × Nat × Bool) × Bool) × List (List (Nat × Nat × Bool) × Bool) × List Elt) × Fab :=
  match f.readFibres e m ta (origin m.pb 2).1 false hi (if ta.fibre then mM m.pb else 0) 0 with
  | (.error x, f) => (.error x, f)
  | (.ok as, f) =>
    match f.readFibres e m tb (origin m.pb 3).1 true hi (if tb.fibre then 1 else 0) 0 with
    | (.error x, f) => (.error x, f)
    | (.ok bs, f) =>
      match f.readFeed e m ta tb feed with
      | (.error (x, y), f) => (.error (.fault x y.opnd y.idx), f)
      | (.ok vs, f) => (.ok (as, bs, vs), f)

/-- One group of the head multiply: read, then committed everywhere or nowhere (R248, R255, R257). -/
def Fab.mGroup (f : Fab) (e : ElemId) (m : MCmd) : Fab :=
  match f.tileOf e m.c m.ha, f.tileOf e m.c m.hb with
  | some ta, some tb =>
    let b := m.pb
    let g := (f.elem e).node.prg.done
    let size := ((classOf (mFa b)).getD .f32).g
    let lo := g * size
    let hi := min (mK b) (lo + size)
    let feed := m.feed ta tb lo hi
    let dense (t : Tile) (syn opnd : Bool) : Bool := syn && !t.fibre && (feedWords t opnd feed).any fun w => !f.wordF e t w
    if !(blockWaves m.op b).all (f.chainOk e m.c m.run m.copy m.frame ·) || dense ta (mSynA b) false || dense tb (mSynB b) true then
      f.mFeedWait e
    else match f.readGroup e m ta tb hi feed with
      | (.error .wait, _) => f.mFeedWait e
      | (.error (.fault x o k), f) => f.mFault e x o k
      | (.ok (as, bs, vs), f) =>
        let arr := vs.toArray
        let na := if ta.fibre then 0 else mM b
        let nb := if tb.fibre then 0 else mN b
        let av (i k : Nat) : Option Elt := if ta.fibre then fibreElt ta.fmt (as.getD i ([], false)).1 k else arr[(k - lo) * (na + nb) + i]?
        let bv (k j : Nat) : Option Elt := if tb.fibre then fibreElt tb.fmt (bs.getD 0 ([], false)).1 k else arr[(k - lo) * (na + nb) + na + j]?
        let bad (i : Nat) : Bool := (as.getD i ([], false)).2 || (bs.getD 0 ([], false)).2
        let f := f.checkCells e m.run 0 0 (mM b) (mN b)
        let f := f.modNode e fun n => n.commit e (mM b) (mN b) lo hi av bv bad (badScale4 ta || badScale4 tb)
        let f := f.modPrg e fun p => { p with done := g + 1 }
        if (f.elem e).node.prg.total ≤ g + 1 then f.mEnd e .done 0 f.clock else if f.moving e then f.mMoved e else f.mNext e
  | _, _ => f.mEnd e .aborted jcHandle f.clock

/-! ### Loads and drains (R258, R259) -/

/-- One row of MACC's load. -/
def Fab.mLoad (f : Fab) (e : ElemId) (m : MCmd) : Fab :=
  match f.tileOf e m.c m.ha with
  | none => f.mEnd e .aborted jcHandle (f.clock + 1)
  | some t =>
    let b := m.pb
    let i := (f.elem e).node.prg.done
    let feed := (List.range (mN b)).map fun j => (⟨false, i * mN b + j, m.itemA t i j⟩ : Feed)
    if !(blockWaves m.op b).all (f.chainOk e m.c m.run m.copy m.frame ·) || (mSynA b && (feedWords t false feed).any fun w => !f.wordF e t w)
    then f.mStall e
    else
      match f.readFeed e m t t feed with
      | (.error (x, y), f) => f.mFault e x false y.idx
      | (.ok vs, f) =>
        let f := f.modNode e fun n => ((List.range (mN b)).zip vs).foldl (fun n (j, v) =>
          let n := n.setCell i j (if v.p then ⟨poisonOf causeUncorr e, true⟩ else ⟨v.v, false⟩)
          { n with prg := { n.prg with psn := n.prg.psn || v.p } }) n
        let f := f.modPrg e fun p => { p with done := i + 1 }
        if mM b ≤ i + 1 then f.mEnd e .done 0 (f.clock + 1) else f.mNext e

/-- A drained cell: its value scaled by the tensor scales where they are not 1.0 (R81). -/
def Node.drained (n : Node) (i j : Nat) : Elt × W32 :=
  let c := n.cell i j
  if c.p then ({ ty := .fp32, v := c.v, p := true }, 0)
  else if n.i32 then (scalarElt .i32 c.v.toNat false, 0)
  else if n.ta = one32 ∧ n.tb = one32 then (scalarElt .fp32 c.v.toNat false, 0)
  else
    let (x, i) := Num.mul (Fmt.fp32.value c.v.toNat) (Fmt.fp32.value n.ta.toNat)
    let (y, k) := Num.mul x (Fmt.fp32.value n.tb.toNat)
    let (w, fl) := Fmt.fp32.round .rne false 0 y
    (scalarElt .fp32 w false, { fl with nv := fl.nv || i || k }.toEsr)

/-- The store half-chain of a drain. -/
def Fab.mQuant (f : Fab) (e : ElemId) (m : MCmd) : Quant :=
  ⟨rmOf (mRm m.pb) m.emr, mSat m.pb, (f.slot e m.c).portLfsr f.clock⟩

/-- After a drained row or token: the half-chain's flags, kept until the command retires, those of the scaling in the progress register, and
the LFSR (R80, R81, R89, R259). -/
def Fab.mFlags (f : Fab) (e : ElemId) (c : Ctx) (esr prg : W32) (l : BitVec 16) : Fab :=
  ((f.modHead e fun m => { m with esr := m.esr ||| esr }).modPrg e fun p => { p with flags := p.flags ||| (prg &&& 31) }).modSlot e c
    fun s => s.setPortLfsr f.clock l

/-- The words of a drained row become full. -/
def Fab.mRowFull (f : Fab) (e : ElemId) (m : MCmd) (i : Nat) : Fab :=
  match f.tileOf e m.c m.ha with
  | none => f
  | some t =>
    let n := mN m.pb
    let ws := m.lasts.filter fun (_, l) => decide (i * n ≤ l ∧ l < (i + 1) * n)
    ws.foldl (fun f (w, _) => f.setWordF e m.c t w true) f

/-- The rows whose subtraction has been performed at a cinch of another die become full (R238). -/
def Fab.mSettle (f : Fab) (e : ElemId) : Fab :=
  match (f.elem e).mq with
  | [] => f
  | m :: _ =>
    let (now, later) := m.fpend.partition fun p => decide (p.1 ≤ f.clock)
    (now.foldl (fun (f : Fab) p => f.mRowFull e m p.2) f).modHead e fun m => { m with fpend := later }

/-- The drain goes on after a row, or ends behind its last F change. -/
def Fab.mRowDone (f : Fab) (e : ElemId) (m : MCmd) (i : Nat) (wait : Option Nat) : Fab :=
  let f := f.modPrg e fun p => { p with done := i + 1 }
  let last := decide (mM m.pb ≤ i + 1)
  match wait with
  | some u =>
    let f := (f.modHead e fun m => { m with fpend := m.fpend ++ [(u, i)] }).at u 2 (.matrixGroupCommit e)
    if last then f.modHead e fun m => { m with due := u } else f.mNext e
  | none =>
    let f := f.mRowFull e m i
    if last then f.mEnd e .done 0 (f.clock + 1) else f.mNext e

/-- One row of MDRN to a tile; a row that faults has drawn for its elements up to the one that faults, whole blocks of them. -/
def Fab.mDrain (f : Fab) (e : ElemId) (m : MCmd) : Fab :=
  match f.tileOf e m.c m.ha with
  | none => f.mEnd e .aborted jcHandle (f.clock + 1)
  | some t =>
    if mM m.pb ≤ (f.elem e).node.prg.done then f.mEnd e .done 0 (f.clock + 1)
    else if !(blockWaves m.op m.pb).all (f.chainOk e m.c m.run m.copy m.frame ·) then f.mStall e
    else
      let b := m.pb
      let n := mN b
      let i := (f.elem e).node.prg.done
      let f := f.checkCells e m.run (mI0 b + i) (mJ0 b) 1 n
      let node := (f.elem e).node
      let (r0, c0) := origin b 2
      let xs := (List.range n).map fun j => node.drained (mI0 b + i) (mJ0 b + j)
      let items := (List.range n).map fun j => t.index (r0 + i) (c0 + j)
      let (ws, fl, l) := quantWrites (f.mQuant e m) t n (items.zip (xs.map (·.1)))
      match f.writeAll e m.c t ws with
      | (.error x, f) =>
        let w := (x.va - t.loc) / 8
        let j := ((List.range n).find? fun j => (t.places (items.getD j 0)).any fun (bo, len) => (wordsOf bo len).contains w).getD 0
        let k := (j / blockOf t.fmt + 1) * blockOf t.fmt
        let (_, fl, l) := quantWrites (f.mQuant e m) t n ((items.zip (xs.map (·.1))).take k)
        (f.mFlags e m.c fl.toEsr (((xs.take k).map (·.2)).foldl (· ||| ·) 0) l).mFault e x false (i * n + j)
      | (.ok _, f) =>
        let f := f.mFlags e m.c fl.toEsr ((xs.map (·.2)).foldl (· ||| ·) 0) l
        let bytes := (ws.map fun (bo, len, _, _) => (bo + len) / 8 - bo / 8).foldl (· + ·) 0
        let (w, f) := f.countBytes e m.ha bytes
        f.mRowDone e m i w

/-- MATRIX_GROUP_COMMIT: the head command begins where it waited, or its group or row that is due. -/
def Fab.mCommit (f : Fab) (e : ElemId) : Fab :=
  let f := f.mSettle e
  match (f.elem e).mq with
  | [] => f
  | m :: _ =>
    let f := (f.useTile e m.ha).useTile e m.hb
    if m.due ≠ f.clock then f
    else if f.moving e && (f.elem e).node.prg.st != .feeding then f.mStall e
    else if !m.begun then f.mBegin e
    else
      match (f.elem e).node.prg.st with
      | .feeding => f.mGroup e m
      | .draining => if m.opc = 0xA4 then f.mLoad e m else f.mDrain e m
      | _ => f

/-- MD_DRAIN_TOKEN: one value of the drain enters the MD lane where it holds fewer than two (R259). -/
def Fab.mToken (f : Fab) (e : ElemId) : Fab :=
  match (f.elem e).mq with
  | [] => f
  | m :: _ =>
    if m.due ≠ f.clock then f
    else if f.moving e then f.mStall e
    else if !m.begun then f.mBegin e
    else if (f.elem e).node.prg.st ≠ .draining then f
    else if 2 ≤ (f.lane e m.c laneMD).occ f.clock then
      (f.modHead e fun m => { m with due := f.clock + 1 }).at (f.clock + 1) 2 (.mdDrainToken e)
    else
      let b := m.pb
      let n := mN b
      let fd := mFa b
      let f := f.checkCells e m.run (mI0 b + m.idx / n) (mJ0 b + m.idx % n) 1 1
      let (x, fl) := (f.elem e).node.drained (mI0 b + m.idx / n) (mJ0 b + m.idx % n)
      let q := f.mQuant e m
      let o := convTo x.ty fd q.rm q.sat q.l.toNat x.v
      let same := x.ty == fd
      let tok : Token := if x.p then { v := x.v, p := true, ty := fd } else { v := if same then x.v else Machine.deliver fd o.v, ty := fd }
      let f := if x.p then f else f.mFlags e m.c (if same then 0 else o.fl.toEsr) fl (if o.draw && !same then lfsrAfter q.rm q.l else q.l)
      let f := (f.modLane e m.c laneMD fun l => l.push f.clock 1 tok).at (f.clock + 1) 0 (.linkTokenArrival e m.c laneMD)
      let f := (f.modHead e fun m => { m with idx := m.idx + 1 }).modPrg e fun p => { p with done := (m.idx + 1) / n }
      if mM b * n ≤ m.idx + 1 then f.mEnd e .done 0 (f.clock + 1)
      else (f.modHead e fun m => { m with due := f.clock + 1 }).at (f.clock + 1) 2 (.mdDrainToken e)

/-- MATRIX_FEED_FAULT: the stop takes effect, its message is queued (R261). -/
def Fab.mStopped (f : Fab) (e : ElemId) : Fab :=
  match (f.elem e).mq with
  | [] => f
  | m :: _ =>
    match m.fault with
    | none => f
    | some (xc, va) =>
      let p := (f.elem e).node.prg
      let safe := f.unserviceable e m.run
      let f := (f.modPrg e fun p => { p with st := .stopped, cause := jcXlate, xcause := xc, safe := safe }).modHead e fun m =>
        { m with fault := none }
      f.faultKind 3 e m.c 0 xc p.opnd m.run m.opc va p.fidx

/-- A command's flags and push at its retirement, with DONE as its snapshot (R89, R169, R251). -/
def Fab.mPush (f : Fab) (e : ElemId) (m : MCmd) (snap : Nat) : Fab :=
  let f := f.modSlot e m.c fun s => s.raiseIn m.esr
  match m.push with
  | some k => f.modSlot e m.c (slotPush k f.clock (BitVec.ofNat 16 snap))
  | none => f

/-- MATRIX_COMMAND_RETIREMENT: the head leaves the queue with its push, and the next command begins (R169, R170, R250). -/
def Fab.mRetire (f : Fab) (e : ElemId) : Fab :=
  match (f.elem e).mq with
  | [] => f
  | m :: ms =>
    let p := (f.elem e).node.prg
    if m.due ≠ f.clock || !m.begun || !(p.st == .done || p.st == .aborted) then f
    else ((((f.modElem e fun x => { x with mq := ms }).mPush e m p.done).fenceTest e).mBegin e)

/-! ### Rows (R252, R258-R260, R264) -/

/-- A command admitted to queue M; it begins at once where the queue was empty. -/
def Row.mAdmit (r : Row) (op : BitVec 24) (pb : BitVec 256) (ha hb : Nat) (f : Fab) : Fab :=
  let m : MCmd := { op := op, c := r.c, run := r.runId, copy := r.copyNo, frame := (r.f.rowOf r.e r.c).2, seq := r.el.sseq,
                     pb := pb, ha := ha, hb := hb, emr := r.sl.emr, push := r.pushFifo }
  let ta := f.tileOf r.e r.c ha
  let cause := if m.mul then mulCheck m.opc pb ta (f.tileOf r.e r.c hb) else moveCheck m ta
  let f := (f.useTile r.e ha).useTile r.e hb
  let f := f.modElem r.e fun x => { x with mq := x.mq ++ [{ m with cause := cause }], sseq := x.sseq + 1 }
  if r.el.mq.isEmpty then f.mBegin r.e else f

/-- Does a source name nothing? -/
def noSource (code : BitVec 4) : Bool := code == 15

/-- A row of a matrix command: its handles stand in its sources or in the block (R252). -/
def Row.matrixRow (r : Row) : Fab :=
  let b := r.block
  let mul := decide (r.opc ≤ 0xA3)
  let za := noSource r.wr.route.a
  let zb := !mul || noSource r.wr.route.b
  r.jobRow ((if za then [] else [r.a]) ++ (if zb then [] else [r.b])) fun f =>
    r.mAdmit r.op b (if za then mHa b else handleOf r.a.v) (if !mul then 0 else if zb then mHb b else handleOf r.b.v) f

/-- The 96 bits of the matrix progress register (R251). -/
def MProg.bits (p : MProg) : Nat :=
  let st := match p.st with
    | .idle => 0 | .feeding => 1 | .draining => 2 | .stopped => 3 | .done => 4 | .aborted => 5
  st * 2 ^ 93 + p.cause * 2 ^ 88 + p.opc * 2 ^ 80 + p.xcause * 2 ^ 76 + (if p.opnd then 2 ^ 75 else 0) + (if p.sat then 2 ^ 74 else 0) +
    (if p.flags.getLsbD 4 then 2 ^ 73 else 0) + (if p.flags.getLsbD 3 then 2 ^ 72 else 0) + (if p.flags.getLsbD 2 then 2 ^ 71 else 0) +
    (if p.flags.getLsbD 1 then 2 ^ 70 else 0) + (if p.flags.getLsbD 0 then 2 ^ 69 else 0) + (if p.psn then 2 ^ 68 else 0) +
    (if p.safe then 2 ^ 67 else 0) + p.fidx % 2 ^ 32 * 2 ^ 32 + p.total % 2 ^ 16 * 2 ^ 16 + p.done % 2 ^ 16

/-- MRES's result and effect (R260): the command restarts with a new walk at DONE. -/
def Row.mres (r : Row) (f : Fab) : Fab :=
  let p := r.el.node.prg
  match r.el.mq with
  | [] => r.num 1 f
  | m :: _ =>
    if p.st ≠ .stopped ∨ p.cause ≠ jcXlate then r.num 1 f
    else if p.safe then r.num 2 f
    else
      let f := f.modPrg r.e fun p => { p with st := if m.mul then .feeding else .draining, cause := 0, xcause := 0, opnd := false }
      r.num 0 ((f.modHead r.e fun m => { m with start := r.now, from0 := p.done }).mNext r.e)

/-- Every command of queue M ended at once: with their pushes or without; the register reads aborted and describes the last of them, which
retires last (R251, R260, R263). -/
def Fab.mAbortAll (f : Fab) (e : ElemId) (push : Bool) : Fab :=
  let ms := (f.elem e).mq
  let p0 := (f.elem e).node.prg
  let f := f.modElem e fun x => { x with mq := [] }
  let f := f.modPrg e fun p => match ms.getLast? with
    | none => p
    | some m =>
      if ms.length = 1 ∧ m.begun then { p with st := .aborted, cause := jcAborted }
      else { st := .aborted, cause := jcAborted, opc := m.opc, sat := p.sat, flags := p.flags, psn := p.psn, total := m.total }
  let f := ms.foldl (fun (f : Fab) m => (blockWaves m.op m.pb).eraseDups.foldl (fun (f : Fab) q => f.perform e m.run m.copy m.frame q) f) f
  let done := p0.done
  let f := if push then (ms.zip (List.range ms.length)).foldl (fun f (m, i) => f.mPush e m (if i = 0 ∧ m.begun then done else 0)) f
    else ms.foldl (fun f m => f.modSlot e m.c fun s => s.raiseIn m.esr) f
  f.fenceTest e

/-- MABT's result and effect (R260). -/
def Row.mabt (r : Row) (f : Fab) : Fab :=
  match r.el.mq with
  | [] => r.num 1 f
  | m :: _ =>
    let f := f.mAbortAll r.e true
    let f := f.modNode r.e fun n =>
      { n with cells := [], marks := [], ta := one32, tb := one32, prg := { n.prg with sat := false, flags := 0, psn := false } }
    r.num 0 (f.modRun m.run fun x => { x with flagsB := x.flagsB ||| 1 })

/-- MSHP (R264): a command word checked as the loader checks a row, and admitted or refused; entries that it could have named and does not
have no instance in the frame (R224). -/
def Row.mshp (r : Row) : Fab :=
  let w := r.a.v.toNat
  let refuse (t : TV) (f : Fab) : Fab :=
    let f := r.give t f
    match r.pushFifo with
    | some k => f.modSlot r.e r.c (slotPush k f.clock 0xFFFF)
    | none => f
  if r.a.p then refuse ⟨r.a.v, true, r.resTy .n32⟩ r.taken
  else
    let opc := 0xA0 + bits w 0 4
    let sh := r.sh
    match mget (bits w 4 6) sh.params with
    | none => refuse ⟨1, false, r.resTy .n32⟩ r.taken
    | some pb =>
      if 6 ≤ bits w 0 4 ∨ w / 2 ^ 16 ≠ 0 ∨ matrixErr opc (bits w 10 2) (bits w 12 4) pb true true sh.wave sh.ownsCb ≠ 0 ∨
          (opc = 0xA5 ∧ bits w 10 2 = 1 ∧ !sh.mdFits (tyOf (bits (pword pb 4) 0 5))) then
        refuse ⟨1, false, r.resTy .n32⟩ r.taken
      else
        let op := BitVec.ofNat 24 (opc * 2 ^ 16 + bits w 4 6 * 2 ^ 10 + bits w 10 2 * 2 ^ 4 + bits w 12 4) ||| (r.op &&& 0x3C0)
        let f := r.give ⟨0, false, r.resTy .n32⟩ r.taken
        let f := ((sh.ship.map (· % 16)).eraseDups.filter fun q => !(blockWaves op pb).contains q).foldl
          (fun (f : Fab) q => f.perform r.e r.runId r.copyNo (r.f.rowOf r.e r.c).2 q) f
        r.mAdmit op pb (mHa pb) (if opc ≤ 0xA3 then mHb pb else 0) f

/-! ### The instructions -/

/-- MMA (R252). -/
def execMma (b : BitVec 6) (w : BitVec 1) (s : BitVec 1) (q : BitVec 2) (wr : Wires) (st : State) : Host.Outcome State Fault Refusal :=
  jobRowOf (opWord (.mma b w s q wr)) wr Row.matrixRow st

/-- MMAS (R252, R256). -/
def execMmas (b : BitVec 6) (w : BitVec 1) (s : BitVec 1) (q : BitVec 2) (wr : Wires) (st : State) : Host.Outcome State Fault Refusal :=
  jobRowOf (opWord (.mmas b w s q wr)) wr Row.matrixRow st

/-- MMAV (R252). -/
def execMmav (b : BitVec 6) (w : BitVec 1) (s : BitVec 1) (q : BitVec 2) (wr : Wires) (st : State) : Host.Outcome State Fault Refusal :=
  jobRowOf (opWord (.mmav b w s q wr)) wr Row.matrixRow st

/-- MMAB (R252). -/
def execMmab (b : BitVec 6) (w : BitVec 1) (s : BitVec 1) (q : BitVec 2) (wr : Wires) (st : State) : Host.Outcome State Fault Refusal :=
  jobRowOf (opWord (.mmab b w s q wr)) wr Row.matrixRow st

/-- MACC (R258). -/
def execMacc (b : BitVec 6) (w : BitVec 1) (s : BitVec 1) (q : BitVec 2) (u : BitVec 4) (wr : Wires) (st : State) : Host.Outcome State Fault Refusal :=
  jobRowOf (opWord (.macc b w s q u wr)) wr Row.matrixRow st

/-- MDRN (R259). -/
def execMdrn (b : BitVec 6) (w : BitVec 1) (s : BitVec 1) (q : BitVec 2) (v : BitVec 2) (wr : Wires) (st : State) : Host.Outcome State Fault Refusal :=
  jobRowOf (opWord (.mdrn b w s q v wr)) wr Row.matrixRow st

/-- MPRG (R260). -/
def execMprg (u : BitVec 4) (wr : Wires) (s : State) : Host.Outcome State Fault Refusal :=
  oxRow (opWord (.mprg u wr)) wr (fun r => r.num (bits r.el.node.prg.bits (32 * r.sub) 32) r.taken) s

/-- MRES (R260). -/
def execMres (wr : Wires) (s : State) : Host.Outcome State Fault Refusal :=
  oxRow (opWord (.mres wr)) wr (fun r => r.mres r.taken) s

/-- MABT (R260). -/
def execMabt (wr : Wires) (s : State) : Host.Outcome State Fault Refusal :=
  oxRow (opWord (.mabt wr)) wr (fun r => r.mabt r.taken) s

/-- MSHP (R264). -/
def execMshp (w : BitVec 1) (s : BitVec 1) (q : BitVec 2) (wr : Wires) (st : State) : Host.Outcome State Fault Refusal :=
  jobRowOf (opWord (.mshp w s q wr)) wr Row.mshp st

/-- MATRIX_GROUP_COMMIT (R248, R258, R259). -/
def execMatrixGroupCommit (e : ElemId) (s : State) : Host.Outcome State Fault Refusal :=
  lift (fun f => f.mCommit e) s

/-- MATRIX_COMMAND_RETIREMENT (R250). -/
def execMatrixCommandRetirement (e : ElemId) (s : State) : Host.Outcome State Fault Refusal :=
  lift (fun f => f.mRetire e) s

/-- MATRIX_FEED_FAULT (R261). -/
def execMatrixFeedFault (e : ElemId) (s : State) : Host.Outcome State Fault Refusal :=
  lift (fun f => f.mStopped e) s

/-- MD_DRAIN_TOKEN (R259). -/
def execMdDrainToken (e : ElemId) (s : State) : Host.Outcome State Fault Refusal :=
  lift (fun f => f.mToken e) s

end Sys2Proof.Machine
end

