-- ==== Sys2Proof/Machine/Transform.lean ====
section
/-! DEFINITION. Pattern registers, port transfers, reductions, transposes, codebooks, fibres, masked packing and the lane copy
(spec 11_transform R266-R286, R294). -/

namespace Sys2Proof.Machine

/-! ### Patterns (R268-R271) -/

/-- Origin, counts and strides of a pattern. -/
def patCount (p : BitVec 256) (i : Nat) : Nat := bits (pword p (1 + i / 2)) (16 * (i % 2)) 16 + 1
def patStride (p : BitVec 256) (i : Nat) : Int := (p.extractLsb' (32 * (3 + i)) 32).toInt
/-- Number of elements of a pattern. -/
def patN (p : BitVec 256) : Nat := patCount p 0 * patCount p 1 * patCount p 2 * patCount p 3
/-- Fields of the pattern's last word. -/
def patExp (p : BitVec 256) : Nat := bits (pword p 7) 0 2
def patCb (p : BitVec 256) : Nat := bits (pword p 7) 2 3
def patOut (p : BitVec 256) : Ty := tyOf (bits (pword p 7) 5 5)
/-- Transpose size, 0 when off. -/
def patTr (p : BitVec 256) : Nat := let k := bits (pword p 7) 10 3; if k = 0 then 0 else 2 ^ k
def patEos (p : BitVec 256) : Bool := (pword p 7).testBit 13
def patRm (p : BitVec 256) : Nat := bits (pword p 7) 0 3
def patSat (p : BitVec 256) : Bool := (pword p 7).testBit 3
def patComp (p : BitVec 256) : Bool := bits (pword p 7) 4 2 == 1
def patSyn (p : BitVec 256) : Bool := (pword p 7).testBit 23

/-- Linear index of a window's origin in a tile, from a block's word. -/
def linear (b : BitVec 256) (k : Nat) (t : Tile) : Nat := let (r, c) := origin b k; r * t.cols + c

/-- Element index e(j) (R271). -/
def patAt (p : BitVec 256) (t : Tile) (j : Nat) : Int :=
  let c0 := patCount p 0
  let c1 := patCount p 1
  let c2 := patCount p 2
  (linear p 0 t : Int) + (j % c0 : Nat) * patStride p 0 + (j / c0 % c1 : Nat) * patStride p 1 +
    (j / c0 / c1 % c2 : Nat) * patStride p 2 + (j / c0 / c1 / c2 : Nat) * patStride p 3

/-- Item of the tile for element j. -/
def patItem (p : BitVec 256) (t : Tile) (j : Nat) : Nat := t.at (patAt p t j).toNat

/-- Do the extremes of the pattern lie in the tile? -/
def patFits (p : BitVec 256) (t : Tile) : Bool :=
  let spans := ([0, 1, 2, 3] : List Nat).map fun i => ((patCount p i - 1 : Nat) : Int) * patStride p i
  let lo := spans.foldl (fun a s => a + (if s < 0 then s else 0)) (linear p 0 t : Int)
  let hi := spans.foldl (fun a s => a + (if s < 0 then 0 else s)) (linear p 0 t : Int)
  decide (0 ≤ lo ∧ hi < (t.rows * t.cols : Nat))

/-- The format rules of R271; `fib` says that the mode unpacks or packs fibres. -/
def patFormat (p : BitVec 256) (t : Tile) (fib : Bool) : Bool :=
  let firsts := (List.range (patN p / patCount p 0)).map fun i => patAt p t (i * patCount p 0)
  if fib then t.fibre && patStride p 0 == 0 && firsts.all fun x => x % (t.cols : Int) == 0
  else if isBlock t.fmt || isVq t.fmt then
    let m := blockLen t.fmt
    patStride p 0 == (if t.lay = 1 then (t.cols : Int) else 1) && patCount p 0 % m == 0 &&
      firsts.all fun x => let n := t.at x.toNat; (if isVq t.fmt then n % 4 else (t.blockNo n).2) == 0
  else true

/-! ### Handles of a transfer -/

/-- Source and destination handles of a job of this chapter. -/
def Job.srcH (b : Job) : Nat := if b.opc = 0xB0 then b.pat.1 else handleOf b.a.v
def Job.dstH (b : Job) : Option Nat :=
  match b.opc with
  | 0xB0 => if (fld b.op 0 4).toNat = 1 then some (handleOf b.b.v) else none
  | 0xB1 | 0xBF => some b.pat.1
  | 0xB2 => none
  | 0xB4 | 0xB5 | 0xB8 => some (bits (pword b.pb 2) 0 10)
  | 0xBB => some (bits (pword b.pb 0) 0 10)
  | _ => some (handleOf b.b.v)

/-- Is the format a plain scalar one, in a tile that is no fibre? -/
def Tile.plain (t : Tile) : Bool := !t.fibre && !isBlock t.fmt && !isVq t.fmt

/-- Rows and columns less one stand in word 2 of the blocks of TRNS, FIBP and FIBU. -/
def fibK (b : BitVec 256) : Nat := (copyShape b).2
/-- Group size of REDX (R278). -/
def redG (b : BitVec 256) : Nat := bits (pword b 2) 2 12 + 1

/-- Number of elements of a job. -/
def Job.count (b : Job) : Nat :=
  match b.opc with
  | 0xB0 | 0xB1 | 0xBF => patN b.pat.2
  | 0xB2 => 1024
  | 0xB4 | 0xB5 => bits (pword b.pb 4) 0 12 + 1
  | 0xB8 => 1
  | _ => let (r, c) := copyShape b.pb; r * c

/-! ### Admission (R271-R286) -/

/-- Does a run of n items from a linear origin lie in a tile? -/
def fitsAt (t : Tile) (o n : Nat) : Bool := decide (o + n ≤ t.rows * t.cols)

/-- XLD's check (R272, R275). -/
def xldCheck (sh : Share) (b : Job) (lane : Bool) (s : Tile) (d : Option Tile) : Nat :=
  let p := b.pat.2
  let ex := patExp p
  let out := patOut p
  let src := if ex = 1 then vqTy s.fmt else if s.fibre && ex != 2 then .fib else s.fmt
  let t := patTr p
  let inBounds := patFits p s && d.all fun d => fitsAt d (linear b.pb 0 d) b.n
  let ok := patFormat p s (ex == 2) && (ex != 1 || (isVq s.fmt && sh.ownsCb (vqTy s.fmt) (patCb p))) && outOk src out &&
    (t == 0 || b.n % (t * t) == 0) && (!lane || !(isBlock out || isVq out)) && d.all fun d => d.fmt == out && !d.fibre
  if !inBounds then jcBounds else if !ok then jcFormat else 0

/-- The check of XST and REDX (R273, R276, R278). -/
def xstCheck (b : Job) (s d : Tile) : Nat :=
  let p := b.pat.2
  let g := if b.opc = 0xBF then redG b.pb else 1
  if !patFits p d || !fitsAt s (linear b.pb 0 s) (b.n * g) then jcBounds
  else if !s.plain || isVq d.fmt || patComp p != d.fibre || !patFormat p d (patComp p) ||
      (b.opc == 0xBF && !(isF3 s.fmt || isInt s.fmt)) then jcFormat
  else 0

/-- Do two windows of one shape, transposed, overlap in one tile? -/
def overlaps (b : BitVec 256) : Bool :=
  let (r0, c0) := origin b 0
  let (r1, c1) := origin b 1
  let (rows, cols) := copyShape b
  decide (r0 < r1 + cols ∧ r1 < r0 + rows ∧ c0 < c1 + rows ∧ c1 < c0 + cols)

/-- TRNS's check (R279). -/
def trnsCheck (b : Job) (s d : Tile) : Nat :=
  let (r0, c0) := origin b.pb 0
  let (r1, c1) := origin b.pb 1
  let (rows, cols) := copyShape b.pb
  if !(decide (r0 + rows ≤ s.rows ∧ c0 + cols ≤ s.cols)) || !(decide (r1 + cols ≤ d.rows ∧ c1 + rows ≤ d.cols)) then jcBounds
  else if s.fmt ≠ d.fmt || !s.plain || !d.plain || (b.srcH == b.dstH.getD 0 && overlaps b.pb) then jcFormat
  else 0

/-- The value types of fibres that FIBP and FIBU take (R282). -/
def fibTy (t : Ty) : Bool := [Ty.bf16, .fp16, .i16, .n16].contains t

/-- The check of FIBP and FIBU (R282). -/
def fibCheck (b : Job) (dense fib : Tile) : Nat :=
  let (r0, c0) := origin b.pb 0
  let (rows, k) := copyShape b.pb
  if !(decide (r0 + rows ≤ dense.rows ∧ c0 + k ≤ dense.cols ∧ bits (pword b.pb 1) 0 12 + rows ≤ fib.rows)) then jcBounds
  else if dense.fmt ≠ fib.fmt || dense.fibre || !fib.fibre || !fibTy fib.fmt then jcFormat
  else 0

/-- CBLD's check (R281). -/
def cbldCheck (sh : Share) (b : Job) (s : Tile) : Nat :=
  let (r0, c0) := origin b.pb 0
  if !(decide (r0 + 256 ≤ s.rows ∧ c0 + 4 ≤ s.cols)) then jcBounds
  else if s.fibre || !sh.ownsCb s.fmt (fld b.op 0 3).toNat then jcFormat
  else 0

/-- The check of COMPM and EXPDM (R286). -/
def maskCheck (b : Job) (s m d : Tile) : Nat :=
  if !fitsAt s (linear b.pb 0 s) b.n || !fitsAt m (linear b.pb 1 m) b.n || !fitsAt d (linear b.pb 3 d) b.n then jcBounds
  else if !(isInt m.fmt) || m.fibre || s.fmt ≠ d.fmt || !s.plain || !d.plain then jcFormat
  else 0

/-- ISECT's check (R284). -/
def isectCheck (b : Job) (s t d : Tile) : Nat :=
  if !(decide (bits (pword b.pb 0) 0 12 < s.rows ∧ bits (pword b.pb 1) 0 12 < t.rows ∧ bits (pword b.pb 3) 0 12 < d.rows)) then jcBounds
  else if !s.fibre || !t.fibre || !d.fibre || s.fmt ≠ d.fmt || t.fmt ≠ d.fmt then jcFormat
  else 0

/-- The check of a job at admission: handles, bounds, formats (R274). -/
def Fab.transferCheck (f : Fab) (e : ElemId) (b : Job) : Nat :=
  let sh := (f.slot e b.c).share.getD {}
  let tile (h : Nat) : Option Tile := f.tileOf e b.c h
  let s := tile b.srcH
  let d := b.dstH.map tile
  match s, d with
  | none, _ | _, some none => jcHandle
  | some s, none => if b.opc = 0xB2 then cbldCheck sh b s else xldCheck sh b true s none
  | some s, some (some d) =>
    match b.opc with
    | 0xB0 => xldCheck sh b false s (some d)
    | 0xB1 | 0xBF => xstCheck b s d
    | 0xBE => trnsCheck b s d
    | 0xB6 => fibCheck b s d
    | 0xB7 => fibCheck b d s
    | _ =>
      match tile (handleOf b.b.v) with
      | none => jcHandle
      | some m => if b.opc = 0xB8 then isectCheck b s m d else maskCheck b s m d

/-- The places that element j of a job writes in its destination, in the job's own order; an element of COMPM is counted by its place in
the destination. -/
def Job.places (b : Job) (d : Tile) (j : Nat) : List (Nat × Nat) :=
  let row (r : Nat) : List (Nat × Nat) := [(r * d.cols * 32, d.cols * 32)]
  match b.opc with
  | 0xB0 => d.places (d.at (linear b.pb 0 d + j))
  | 0xB1 | 0xBF =>
    let p := b.pat.2
    if patComp p then (if j % patCount p 0 = 0 then row ((patAt p d j).toNat / max d.cols 1) else [])
    else d.places (patItem p d j)
  | 0xBE =>
    let (r1, c1) := origin b.pb 1
    let (_, cols) := copyShape b.pb
    [(d.bitAt (r1 + j % cols) (c1 + j / cols), d.itemBits)]
  | 0xB6 => let k := fibK b.pb; if j % k = 0 then row (bits (pword b.pb 1) 0 12 + j / k) else []
  | 0xB7 => [(copyBit b.pb d 0 j, d.itemBits)]
  | 0xB8 => row (bits (pword b.pb 3) 0 12)
  | 0xB4 | 0xB5 => [(d.at (linear b.pb 3 d + j) * d.itemBits, d.itemBits)]
  | _ => []

/-- Ticks from admission to the first element (R274). -/
def firstMove (ts : List Tile) : Nat := if ts.any (·.lvl == 3) then 48 else if ts.any (·.lvl == 2) then 20 else 4

/-- A transfer row (R274): handles, pattern and block are taken on the issue tick; `held` holds the element (R285). -/
def Row.transfer (r : Row) (addr : List TV) (held : Bool) : Fab :=
  let b := r.newJob
  let b := match patOf r.op with
    | some k => { b with pat := r.sl.pats.get k }
    | none => b
  let b := { b with n := b.count }
  r.jobRow addr fun f =>
    let cause := f.transferCheck r.e b
    let s := f.tileOf r.e r.c b.srcH
    let d := b.dstH.bind (f.tileOf r.e r.c)
    let lasts := match d with
      | some d => if cause = 0 then lastsAll (b.places d) b.n else []
      | none => []
    let f := match d with
      | some d => if cause = 0 then f.emptyWords r.e r.c d lasts else f
      | none => f
    let f := ([b.srcH] ++ b.dstH.toList).foldl (fun f h => f.useTile r.e h) f
    let wide := max ((s.map (·.itemBits)).getD 1) ((d.map (·.itemBits)).getD 1)
    let lane := r.opc == 0xB0 && b.dstH.isNone
    let b := { b with dst := if cause = 0 then b.dstH else none, lasts := lasts, rate := if lane then 512 else max wide 1 }
    let j := (r.el.freeSlot.getD 0).val
    let f := if held then f.hold r.e { r.access with kind := .op, aux := [j], h := 0 } r.now else f
    r.enqueue b cause (firstMove (s.toList ++ d.toList)) f

/-! ### Elements -/

/-- Element i of a read pattern in type OUT: container, flags, and the payload where it is poison (R272, R283). -/
def Fab.readOut (f : Fab) (e : ElemId) (b : Job) (s : Tile) (i : Nat) : Except XFault (W32 × Flags × Option W32) × Fab :=
  let p := b.pat.2
  let out := patOut p
  if patExp p = 2 then
    let k := patCount p 0
    let row := (patAt p s (i / k * k)).toNat / max s.cols 1
    bindX (f.fibreRow e b.c b.run s row s.cols 0) fun ts f =>
      let (good, bad) := fibreGood k 0 ts
      if bad then (.ok (0, {}, some (poisonOf causeElemfault e)), f)
      else
        let (v, q) := ((good.find? fun t => t.1 == i % k).map (·.2)).getD (0, false)
        let (w, fl) := loadElt out s (scalarElt s.fmt v q)
        (.ok (w, fl, if q then some (poisonOf causeUncorr e) else none), f)
  else
    bindX (f.readElt e b.c b.run s (patExp p == 1) (patCb p) (patItem p s i)) fun x f =>
      let (w, fl) := loadElt out s x
      (.ok (w, fl, if x.p then some (poisonOf causeUncorr e) else none), f)

/-- Flags kept by a job until it retires (R272, R273). -/
def Fab.jobFlags (f : Fab) (e : ElemId) (j : Fin 4) (fl : Flags) : Fab := f.modJob e j fun b => { b with esr := b.esr ||| fl.toEsr }

/-- A token put into a port lane of the issuing context, at the head from the next tick (R259, R275). -/
def Fab.pushPort (f : Fab) (e : ElemId) (c : Ctx) (l : LaneNo) (t : Token) : Fab :=
  (f.modLane e c l fun x => x.push f.clock 1 t).at (f.clock + 1) 0 (.linkTokenArrival e c l)

/-- The read lane of a port. -/
def portLane (op : BitVec 24) : LaneNo := if (fld op 4 2).toNat = 0 then laneP0 else laneP1

/-- Element j of XLD (R275). -/
def Fab.xldStep (f : Fab) (e : ElemId) (q : Fin 4) (b : Job) (j : Nat) : Moved :=
  match f.tileOf e b.c b.srcH with
  | none => .abort jcHandle
  | some s =>
    let p := b.pat.2
    let i := transposed (patTr p) j
    let lane := portLane b.op
    let words := if patExp p = 2 then wordsOf ((patAt p s (i / patCount p 0 * patCount p 0)).toNat / max s.cols 1 * s.cols * 32) (s.cols * 32)
      else s.srcWords (patItem p s i)
    if patSyn p && words.any (fun w => !f.wordF e s w) then .wait
    else if b.dstH.isNone && decide (2 ≤ (f.lane e b.c lane).count) then .wait
    else
      match f.readOut e b s i with
      | (.error x, _) => .fault x false
      | (.ok (v, fl, pay), f) =>
        let f := if pay.isSome then f else f.jobFlags e q fl
        match b.dstH with
        | none => .ok (f.pushPort e b.c lane { v := pay.getD (Machine.deliver (patOut p) v), p := pay.isSome, ty := patOut p })
        | some h =>
          match f.tileOf e b.c h with
          | none => .abort jcHandle
          | some d =>
            match f.writeBits e b.c d (d.at (linear b.pb 0 d + j) * d.itemBits) d.itemBits (v.toNat % 2 ^ d.itemBits) pay.isSome with
            | (.error x, _) => .fault x false
            | (.ok _, f) => .ok f

/-- The reduction of R278 over a list, by the fixed tree of a depth: value and ESR bits. -/
def redTree (op : W32 → W32 → W32 × W32) : Nat → List W32 → Option (W32 × W32)
  | 0, xs => xs.head?.map fun v => (v, 0)
  | n + 1, xs =>
    match redTree op n (xs.take (2 ^ n)), redTree op n (xs.drop (2 ^ n)) with
    | some (a, fa), some (b, fb) => let (v, fl) := op a b; some (v, fa ||| fb ||| fl)
    | some x, none => some x
    | none, y => y

/-- The operation of REDX on values of fp32, i32 or n32. -/
def redOp (op : Nat) (ty : Ty) (a b : W32) : W32 × W32 :=
  if ty = .fp32 then collOp op a b
  else
    let lt := if ty = .i32 then decide (a.toInt < b.toInt) else decide (a.toNat < b.toNat)
    match op with
    | 0 => (a + b, 0)
    | 1 => (if lt then b else a, 0)
    | _ => (if lt then a else b, 0)

/-- Source element j of XST or REDX as it enters the quantise stage, with ESR bits: those of widening and of the tree, none for a group with
a poisoned element (R71, R278). -/
def Fab.storeSrc (f : Fab) (e : ElemId) (b : Job) (s : Tile) (j : Nat) : Except XFault (Elt × W32) × Fab :=
  let o := linear b.pb 0 s
  let read (i : Nat) (f : Fab) : Except XFault Elt × Fab := f.readElt e b.c b.run s false 0 (s.at (o + i))
  if b.opc = 0xBF then
    let g := redG b.pb
    let wide : Ty := if isFloat s.fmt then .fp32 else if isSigned s.fmt then .i32 else .n32
    bindX (readMany read ((List.range g).map (j * g + ·)) f) fun xs f =>
      let os := xs.map fun x => convTo s.fmt wide .rne false 0 x.v
      let (v, fl) := (redTree (redOp (bits (pword b.pb 2) 0 2) wide) (Nat.log2 (2 * g - 1)) (os.map (·.v))).getD (0, 0)
      let p := xs.any (·.p)
      (.ok ({ scalarElt wide v.toNat p with v := v }, if p then 0 else os.foldl (fun m o => m ||| o.fl.toEsr) fl), f)
  else bindX (read j f) fun x f => (.ok (x, 0), f)

/-- Element j of XST or REDX: a block or a fibre is made whole at its first element (R273). -/
def Fab.xstStep (f : Fab) (e : ElemId) (q : Fin 4) (b : Job) (j : Nat) : Moved :=
  match f.tileOf e b.c b.srcH, f.tileOf e b.c b.pat.1 with
  | some s, some d =>
    let p := b.pat.2
    let m := if patComp p then patCount p 0 else blockOf d.fmt
    if j % m ≠ 0 then .ok f
    else
      match readMany (fun i f => f.storeSrc e b s i) ((List.range m).map (j + ·)) f with
      | (.error x, _) => .fault x false
      | (.ok xs, f) =>
        let qn : Quant := ⟨rmOf (patRm p) b.emr, patSat p, (f.slot e b.c).portLfsr f.clock⟩
        let (ws, fl, l, oor) :=
          if patComp p then
            let (cs, fl, l) := qn.list d.fmt (xs.headD ({}, 0)).1.ty (xs.map fun x => (x.1.v, x.1.p))
            let ts := (((List.range m).zip (cs.zip xs)).filterMap fun (k, v, x) =>
              if fibreZero d.fmt v && !x.1.p then none else some (k, v, x.1.p))
            (fibreWrites d ((patAt p d j).toNat / max d.cols 1) ts, fl, l, decide (d.cols < ts.length))
          else
            let (ws, fl, l) := quantWrites qn d m (((List.range m).map fun i => patItem p d (j + i)).zip (xs.map (·.1)))
            (ws, fl, l, false)
        match f.writeAll e b.c d ws with
        | (.error x, _) => .fault x false
        | (.ok _, f) =>
          let f := f.modSlot e b.c fun s => s.setPortLfsr f.clock l
          .ok (f.modJob e q fun b =>
            { b with esr := b.esr ||| fl.toEsr ||| (xs.map (·.2)).foldl (· ||| ·) 0, oor := b.oor || oor })
  | _, _ => .abort jcHandle

/-- Element j of TRNS: bit for bit (R279). -/
def Fab.trnsStep (f : Fab) (e : ElemId) (b : Job) (j : Nat) : Moved :=
  match f.tileOf e b.c b.srcH, b.dstH.bind (f.tileOf e b.c) with
  | some s, some d =>
    match f.readBits e b.c b.run s (copyBit b.pb s 0 j) s.itemBits with
    | (.error x, _) => .fault x false
    | (.ok (v, p), f) =>
      match f.writeAll e b.c d ((b.places d j).map fun (bo, w) => (bo, w, v, p)) with
      | (.error x, _) => .fault x false
      | (.ok _, f) => .ok f
  | _, _ => .abort jcHandle

/-- Element j of FIBP: the fibre of a dense row is made at the row's first element (R282). -/
def Fab.fibpStep (f : Fab) (e : ElemId) (q : Fin 4) (b : Job) (j : Nat) : Moved :=
  match f.tileOf e b.c b.srcH, b.dstH.bind (f.tileOf e b.c) with
  | some s, some d =>
    let k := fibK b.pb
    if j % k ≠ 0 then .ok f
    else
      match readMany (fun i f => f.readElt e b.c b.run s false 0 (copyBit b.pb s 0 (j + i) / s.itemBits)) (List.range k) f with
      | (.error x, _) => .fault x false
      | (.ok xs, f) =>
        let ts := ((List.range k).zip xs).filterMap fun (i, x) =>
          let v := x.v.toNat % 2 ^ 16
          if fibreZero s.fmt v && !x.p then none else some (i, v, x.p)
        match f.writeAll e b.c d (fibreWrites d (bits (pword b.pb 1) 0 12 + j / k) ts) with
        | (.error x, _) => .fault x false
        | (.ok _, f) => .ok (f.modJob e q fun b => { b with oor := b.oor || decide (d.cols < ts.length) })
  | _, _ => .abort jcHandle

/-- Element j of FIBU (R282, R283). -/
def Fab.fibuStep (f : Fab) (e : ElemId) (b : Job) (j : Nat) : Moved :=
  match f.tileOf e b.c b.srcH, b.dstH.bind (f.tileOf e b.c) with
  | some s, some d =>
    let k := fibK b.pb
    match f.fibreRow e b.c b.run s (bits (pword b.pb 1) 0 12 + j / k) s.cols 0 with
    | (.error x, _) => .fault x false
    | (.ok ts, f) =>
      let (good, bad) := fibreGood k 0 ts
      let (v, p) := if bad then (0, true) else ((good.find? fun t => t.1 == j % k).map (·.2)).getD (0, false)
      match f.writeBits e b.c d (copyBit b.pb d 0 j) d.itemBits v p with
      | (.error x, _) => .fault x false
      | (.ok _, f) => .ok f
  | _, _ => .abort jcHandle

/-- Element j of CBLD: an entry is written whole at its first component (R281). -/
def Fab.cbldStep (f : Fab) (e : ElemId) (b : Job) (j : Nat) : Moved :=
  match f.tileOf e b.c b.srcH with
  | none => .abort jcHandle
  | some s =>
    if j % 4 ≠ 0 then .ok f
    else
      let (r0, c0) := origin b.pb 0
      match readMany (fun i f => f.readElt e b.c b.run s false 0 (s.index (r0 + j / 4) (c0 + i))) (List.range 4) f with
      | (.error x, _) => .fault x false
      | (.ok xs, f) =>
        let cb := (fld b.op 0 3).toNat
        let f := ((List.range 4).zip xs).foldl (fun f (i, x) =>
          f.store (cbkPlace e s.fmt cb (j / 4) i) (leBytes (widthOf s.fmt / 8) x.v.toNat)) f
        .ok (f.setPoison (cbkTag e s.fmt cb (j / 4)) (xs.any (·.p)))

/-- Mask position j of COMPM or EXPDM (R286): `extra` holds the count so far. A COMPM within one tile keeps what it has read and writes at its
end, so that every element is read before a write could reach it. -/
def Fab.maskStep (f : Fab) (e : ElemId) (q : Fin 4) (b : Job) (j : Nat) : Moved :=
  match f.tileOf e b.c b.srcH, f.tileOf e b.c (handleOf b.b.v), b.dstH.bind (f.tileOf e b.c) with
  | some s, some m, some d =>
    let count := b.extra.headD 0
    let pack := b.opc == 0xB4
    match f.readElt e b.c b.run m false 0 (m.at (linear b.pb 1 m + j)) with
    | (.error x, _) => .fault x false
    | (.ok msk, f) =>
      let sel := msk.p || msk.v != 0
      let src : Except XFault (Nat × Bool) × Fab :=
        if sel then f.readBits e b.c b.run s (s.at (linear b.pb 0 s + (if pack then j else count)) * s.itemBits) s.itemBits
        else (.ok (0, false), f)
      match src with
      | (.error x, _) => .fault x false
      | (.ok (v, p), f) =>
        let count' := if sel then count + 1 else count
        let keep := pack && b.dstH == some b.srcH
        let kept := b.extra.drop 1 ++ (if keep && sel then [v * 2 + (if p || msk.p then 1 else 0)] else [])
        let f := f.modJob e q fun b => { b with extra := count' :: kept }
        let put (i v : Nat) (p : Bool) (r : Except XFault Unit × Fab) : Except XFault Unit × Fab :=
          bindX r fun _ f => bindX (f.writeAll e b.c d ((b.places d i).map fun (bo, w) => (bo, w, v, p))) fun _ f =>
            (.ok (), if pack then f.finals e b d i true else f)
        let start : Except XFault Unit × Fab := (.ok (), f)
        let r :=
          if !pack then put j v (p || msk.p) start
          else if keep then
            (if j + 1 == b.n then (kept.zip (List.range kept.length)).foldl (fun r (x, i) => put i (x / 2) (x % 2 == 1) r) start else start)
          else if sel then put count v (p || msk.p) start else start
        let r := if pack && j + 1 == b.n then ((List.range (b.n - count')).foldl (fun r i => put (count' + i) 0 false r) r) else r
        match r with
        | (.error x, _) => .fault x false
        | (.ok _, f) => .ok f
  | _, _, _ => .abort jcHandle

/-- ISECT (R284): the tokens of the coordinates present in both fibres; `extra` holds the count and whether a fibre is malformed. -/
def Fab.isectStep (f : Fab) (e : ElemId) (q : Fin 4) (b : Job) : Moved :=
  match f.tileOf e b.c b.srcH, f.tileOf e b.c (handleOf b.b.v), b.dstH.bind (f.tileOf e b.c) with
  | some s, some t, some d =>
    match bindX (f.fibreRow e b.c b.run s (bits (pword b.pb 0) 0 12) s.cols 0) fun xs f =>
        bindX (f.fibreRow e b.c b.run t (bits (pword b.pb 1) 0 12) t.cols 0) fun ys f => (.ok (xs, ys), f) with
    | (.error x, _) => .fault x false
    | (.ok (xs, ys), f) =>
      let (xs, bad) := fibreGood 0xFFFF 0 xs
      let (ys, bad') := fibreGood 0xFFFF 0 ys
      let other := if (fld b.op 0 4).toNat = 0 then ys else xs
      let mine := if (fld b.op 0 4).toNat = 0 then xs else ys
      let ts := (mine.filterMap fun (k, v, p) => (other.find? fun t => t.1 == k).map fun t => (k, v, p || t.2.2)).take d.cols
      match f.writeAll e b.c d (fibreWrites d (bits (pword b.pb 3) 0 12) ts) with
      | (.error x, _) => .fault x false
      | (.ok _, f) => .ok (f.modJob e q fun b => { b with extra := ts.length :: if bad || bad' then [1] else [] })
  | _, _, _ => .abort jcHandle

/-! ### The lane copy (R294) -/

/-- LZCP's three numbers: destination offset, length, distance or source offset. -/
def Hold.lzOps (h : Hold) : Nat × Nat × Nat := (h.a.v.toNat, h.b.v.toNat, h.d.v.toNat)

/-- The source and destination tiles of LZCP with the first byte that it reads and writes for its destination word k (R294). -/
def Fab.lzEnds (f : Fab) (e : ElemId) (b : Job) (h : Hold) (k : Nat) : Option (Tile × Nat × Tile × Nat) :=
  (f.tileOf e b.c (bits (pword b.pb 0) 0 10)).map fun t =>
    let (dst, _, x) := h.lzOps
    let lit := (fld b.op 0 4).toNat == 1
    let src := if lit then (f.tileOf e b.c (bits (pword b.pb 0) 16 10)).getD t else t
    let lo := max dst (8 * (dst / 8 + k))
    (src, if lit then x + (lo - dst) else lo - x, t, lo)

/-- Ticks of destination word k of LZCP: at G a read and a write at the latency of R191 each, 24 t more for one that is forwarded from the
home die, that of the job's first address (R184, R294). -/
def Fab.lzGap (f : Fab) (e : ElemId) (b : Job) (h : Hold) (k : Nat) : Nat :=
  match f.lzEnds e b h 0, f.lzEnds e b h k with
  | some (s, o, t, o'), some (_, p, _, p') =>
    let die (t : Tile) (x : Nat) : Nat := (t.loc + x) / 2 ^ 11 % 2
    let home := if s.lvl = 3 then die s o else die t o'
    let far (t : Tile) (x : Nat) : Nat := if t.lvl = 3 ∧ die t x ≠ home then 24 else 0
    if t.lvl = 3 ∨ s.lvl = 3 then 2 * accessTicks 3 0x80 + far s p + far t p' else 2
  | _, _ => 2

/-- LZCP's row: its job has one element for each destination word; `extra` holds the result, or is empty for a poison result of cause
DECOMP. -/
def Row.lzcp (r : Row) : Fab :=
  let b := r.newJob
  let h := r.access
  let (dst, len, x) := h.lzOps
  let lit := r.sub == 1
  r.jobRow [r.a, r.b, r.d] fun f =>
    let t := f.tileOf r.e r.c (bits (pword b.pb 0) 0 10)
    let s := f.tileOf r.e r.c (bits (pword b.pb 0) 16 10)
    let bad := !lit && (x == 0 || decide (dst < x))
    let inTile := (t.any fun t => decide (dst + len ≤ t.byteLen)) && (!lit || s.any fun s => decide (x + len ≤ s.byteLen))
    let j := (r.el.freeSlot.getD 0).val
    let f := f.hold r.e { h with kind := .op, aux := [j], h := 0 } r.now
    let lvl := (t.map (·.lvl)).getD 1
    let first := if lvl = 1 then 2 else if lvl = 2 then 18 else 0
    let d := { b with n := (dst + len - 1) / 8 + 1 - dst / 8, dst := some (bits (pword b.pb 0) 0 10), extra := [(dst + len) % 2 ^ 32] }
    if len = 0 then r.enqueue { b with n := 0, extra := [dst % 2 ^ 32] } 0 1 f
    else if bad then r.enqueue { b with n := 0 } 0 1 f
    else if !inTile then r.enqueue b jcHandle 0 f
    else
      r.enqueue d 0 (first + f.lzGap r.e d h 0) f

/-- Destination word k of LZCP: its bytes are copied one at a time, under a byte mask (R294). -/
def Fab.lzStep (f : Fab) (e : ElemId) (b : Job) (k : Nat) : Moved :=
  match (f.elem e).hold, (f.elem e).hold.bind fun h => f.lzEnds e b h k with
  | some h, some (src, from_, t, lo) =>
    let (dst, len, _) := h.lzOps
    let hi := min (dst + len) (lo / 8 * 8 + 8)
    let copy (i : Nat) (f : Fab) : Except XFault Unit × Fab :=
      bindX (f.readBits e b.c b.run src (8 * (from_ + i)) 8) fun (v, p) f =>
        bindX (f.writeBits e b.c t (8 * (lo + i)) 8 v p) fun _ f => (.ok (), f)
    match readMany copy (List.range (hi - lo)) f with
    | (.error x, _) => .fault x false
    | (.ok _, f) => .ok f
  | _, _ => .abort jcHandle

/-! ### Rows that complete as they issue -/

/-- LAYR and LAYW: a pattern register written (R269). -/
def Row.layout (r : Row) (port : Fin 3) (f : Fab) : Fab :=
  let h := handleOf r.a.v
  if (f.tileOf r.e r.c h).isNone then r.num 1 f
  else r.num 0 (f.modSlot r.e r.c fun s => { s with pats := s.pats.set port (h, r.block) })

/-- VQX: a component of a codebook entry, in the codebook's format or widened to fp32, which reads a signalling NaN as invalid (R70, R71,
R281). -/
def Row.vqx (r : Row) (f : Fab) : Fab :=
  let cb := r.sub % 8
  let ty := r.resTy .fp32
  let fmt : Ty := if r.sh.ownsCb ty cb then ty else if r.sh.ownsCb .bf16 cb then .bf16 else .fp8e4
  let x := f.cbElt r.e fmt cb (r.a.v.toNat % 256) r.var
  let y := r.aluIn .fp32
  let o := if ty = fmt then plain x.v else convTo fmt ty .rne false 0 x.v
  if r.a.p then r.give ⟨r.a.v, true, ty⟩ f
  else if x.p then r.give ⟨poisonOf causeUncorr r.e, true, ty⟩ f
  else r.finish f (o.result y r.e) (o.esr y) r.sl.emr

/-! ### The instructions -/

/-- XLD (R275). -/
def execXld (b : BitVec 6) (w : BitVec 1) (s : BitVec 1) (q : BitVec 2) (v : BitVec 2) (u : BitVec 4) (wr : Wires) (st : State) : Host.Outcome State Fault Refusal :=
  jobRowOf (opWord (.xld b w s q v u wr)) wr (fun r => r.transfer (if r.sub = 1 then [r.b] else []) false) st

/-- XST (R276). -/
def execXst (b : BitVec 6) (w : BitVec 1) (s : BitVec 1) (q : BitVec 2) (wr : Wires) (st : State) : Host.Outcome State Fault Refusal :=
  jobRowOf (opWord (.xst b w s q wr)) wr (fun r => r.transfer [r.a] false) st

/-- CBLD (R281). -/
def execCbld (b : BitVec 6) (w : BitVec 1) (s : BitVec 1) (q : BitVec 2) (u : BitVec 3) (wr : Wires) (st : State) : Host.Outcome State Fault Refusal :=
  jobRowOf (opWord (.cbld b w s q u wr)) wr (fun r => r.transfer [r.a] false) st

/-- VQX (R281). -/
def execVqx (w : BitVec 1) (s : BitVec 1) (q : BitVec 2) (v : BitVec 2) (u : BitVec 3) (wr : Wires) (st : State) : Host.Outcome State Fault Refusal :=
  oxRow (opWord (.vqx w s q v u wr)) wr (fun r => r.vqx r.taken) st

/-- COMPM (R286). -/
def execCompm (b : BitVec 6) (w : BitVec 1) (s : BitVec 1) (q : BitVec 2) (wr : Wires) (st : State) : Host.Outcome State Fault Refusal :=
  jobRowOf (opWord (.compm b w s q wr)) wr (fun r => r.transfer [r.a, r.b] true) st

/-- EXPDM (R286). -/
def execExpdm (b : BitVec 6) (w : BitVec 1) (s : BitVec 1) (q : BitVec 2) (wr : Wires) (st : State) : Host.Outcome State Fault Refusal :=
  jobRowOf (opWord (.expdm b w s q wr)) wr (fun r => r.transfer [r.a, r.b] true) st

/-- FIBP (R282). -/
def execFibp (b : BitVec 6) (w : BitVec 1) (s : BitVec 1) (q : BitVec 2) (wr : Wires) (st : State) : Host.Outcome State Fault Refusal :=
  jobRowOf (opWord (.fibp b w s q wr)) wr (fun r => r.transfer [r.a, r.b] false) st

/-- FIBU (R282). -/
def execFibu (b : BitVec 6) (w : BitVec 1) (s : BitVec 1) (q : BitVec 2) (wr : Wires) (st : State) : Host.Outcome State Fault Refusal :=
  jobRowOf (opWord (.fibu b w s q wr)) wr (fun r => r.transfer [r.a, r.b] false) st

/-- ISECT (R284). -/
def execIsect (b : BitVec 6) (w : BitVec 1) (s : BitVec 1) (q : BitVec 2) (u : BitVec 4) (wr : Wires) (st : State) : Host.Outcome State Fault Refusal :=
  jobRowOf (opWord (.isect b w s q u wr)) wr (fun r => r.transfer [r.a, r.b] true) st

/-- LZCP (R294). -/
def execLzcp (b : BitVec 6) (w : BitVec 1) (s : BitVec 1) (q : BitVec 2) (u : BitVec 4) (wr : Wires) (st : State) : Host.Outcome State Fault Refusal :=
  jobRowOf (opWord (.lzcp b w s q u wr)) wr Row.lzcp st

/-- LAYW (R269). -/
def execLayw (b : BitVec 6) (wr : Wires) (s : State) : Host.Outcome State Fault Refusal :=
  handleRow (opWord (.layw b wr)) wr false (fun r f => r.layout 2 f) s

/-- LAYR (R269). -/
def execLayr (b : BitVec 6) (v : BitVec 2) (wr : Wires) (s : State) : Host.Outcome State Fault Refusal :=
  handleRow (opWord (.layr b v wr)) wr false (fun r f => r.layout (if r.var = 0 then 0 else 1) f) s

/-- TRNS (R279). -/
def execTrns (b : BitVec 6) (w : BitVec 1) (s : BitVec 1) (q : BitVec 2) (wr : Wires) (st : State) : Host.Outcome State Fault Refusal :=
  jobRowOf (opWord (.trns b w s q wr)) wr (fun r => r.transfer [r.a, r.b] false) st

/-- REDX (R278). -/
def execRedx (b : BitVec 6) (w : BitVec 1) (s : BitVec 1) (q : BitVec 2) (wr : Wires) (st : State) : Host.Outcome State Fault Refusal :=
  jobRowOf (opWord (.redx b w s q wr)) wr (fun r => r.transfer [r.a] false) st

end Sys2Proof.Machine
end

