-- ==== Sys2Proof/Machine/JobRun.lean ====
section
/-! DEFINITION. How jobs of queue S go on: their elements, stops, retirement (spec 07_tiles R170, R180-R182, 08_global R197-R204,
09_ordering R238, 11_transform R267, R274, R285). -/

namespace Sys2Proof.Machine

/-- Is the opcode a held operation's (R285)? -/
def heldOp (opc : Nat) : Bool := opc == 0xB4 || opc == 0xB5 || opc == 0xB8 || opc == 0xBB

/-- The retirement event of a slot's job. -/
def Job.retireEvent (b : Job) (e : ElemId) (j : Fin 4) : Instr := if heldOp b.opc then .heldOpRetirement e else .jobRetirement e j

/-- Element i of a job by its opcode. -/
def Fab.stepJob (f : Fab) (e : ElemId) (j : Fin 4) (b : Job) (i : Nat) : Moved :=
  match b.opc with
  | 0x7A | 0x7B => f.copyStep e b i
  | 0x84 | 0x85 | 0x86 | 0x87 => f.streamStep e j b i
  | 0x96 => f.xferStep e b i
  | 0x97 => f.mirrStep e j b i
  | 0xB0 => f.xldStep e j b i
  | 0xB1 | 0xBF => f.xstStep e j b i
  | 0xB2 => f.cbldStep e b i
  | 0xB4 | 0xB5 => f.maskStep e j b i
  | 0xB6 => f.fibpStep e j b i
  | 0xB7 => f.fibuStep e b i
  | 0xB8 => f.isectStep e j b
  | 0xBB => f.lzStep e b i
  | 0xBE => f.trnsStep e b i
  | _ => .ok f

/-- The places that element i of a job writes in the tile it is the writer of. -/
def Job.writes (b : Job) (d : Tile) (i : Nat) : List (Nat × Nat) :=
  match b.opc with
  | 0x7A | 0x7B => d.places (copyBit b.pb d 1 i / max d.itemBits 1)
  | 0x84 | 0x86 => [(8 * smTileOff b.pb d i, 8 * smEsz b.pb)]
  | 0x96 => [(8 * (bits (pword b.pb 1) 0 26 + 8 * i), 64)]
  | _ => b.places d i

/-- The bytes whose last bit element i writes: what a cinch counts (R238). -/
def Job.bytesOf (b : Job) (d : Tile) (i : Nat) : Nat :=
  ((b.writes d i).map fun (bo, w) => (bo + w) / 8 - bo / 8).foldl (· + ·) 0

/-- Is the final state of the job's words full? A fill and a transfer may leave them empty (R179, R211). -/
def Job.fillsFull (b : Job) : Bool := !(b.opc == 0x7B && (pword b.pb 3).testBit 8) && !(b.opc == 0x96 && !xfFull b.pb)

/-- The F changes of a written element; those of a ring are made word by word (R180, R197). -/
def Fab.settleF (f : Fab) (e : ElemId) (j : Fin 4) (i : Nat) : Fab :=
  let b := f.job e j
  if b.opc = 0xB4 then f
  else if b.opc = 0xB9 then f.dcFull e b i
  else match b.dst.bind (f.tileOf e b.c) with
    | some d =>
      if streamOp b.opc && smRing b.pb then
        if smLastOfWord b.pb b.n i then (wordsOf (8 * smTileOff b.pb d i) (8 * smEsz b.pb)).foldl (fun f w => f.setWordF e b.c d w true) f else f
      else f.finals e b d i b.fillsFull
    | none => f

/-- The F changes whose subtraction has been performed; with the last of them an ended job may retire (R238). -/
def Fab.settleDue (f : Fab) (e : ElemId) (j : Fin 4) : Fab :=
  let b := f.job e j
  let (now, later) := b.fpend.partition fun p => decide (p.1 ≤ f.clock)
  let f := (now.foldl (fun (f : Fab) p => f.settleF e j p.2) f).modJob e j fun b => { b with fpend := later }
  if !now.isEmpty && later.isEmpty && (b.st == .done || b.st == .aborted) then f.at f.clock 2 (b.retireEvent e j) else f

/-- Ticks to the next element. -/
def Fab.jobGap (f : Fab) (e : ElemId) (b : Job) : Nat :=
  if b.opc = 0xBB then (f.elem e).hold.elim 2 fun h => f.lzGap e b h b.idx
  else b.tickOf b.idx - b.tickOf (b.idx - 1)

/-- Does an EOS still follow the last token of a port transfer (R275)? -/
def Job.eosDue (b : Job) : Bool := b.opc == 0xB0 && b.dstH.isNone && patEos b.pat.2 && b.extra.isEmpty

/-- The job ends after its last element, or its next element is due. -/
def Fab.jobAfter (f : Fab) (e : ElemId) (j : Fin 4) : Fab :=
  let b := f.job e j
  if b.idx < b.n then f.jobAt e j (f.clock + f.jobGap e b)
  else if !b.fpend.isEmpty then f.jobAt e j ((b.fpend.map (·.1)).foldl max 0)
  else if b.eosDue then f.jobAt e j (f.clock + 1)
  else f.endJob e j .done 0

/-- The EOS after a port transfer's last token. -/
def Fab.jobEos (f : Fab) (e : ElemId) (j : Fin 4) (b : Job) : Fab :=
  if 2 ≤ (f.lane e b.c (portLane b.op)).count then f.jobAt e j (f.clock + 1)
  else
    ((f.pushPort e b.c (portLane b.op) { kind := .eos, ty := patOut b.pat.2 }).modJob e j fun b => { b with extra := [1] }).endJob e j .done 0

/-- A translation fault of a job: it stops at IDX; a held operation ends with a fault message of a scalar access instead (R192, R200,
R285, R294). -/
def Fab.jobFaulted (f : Fab) (e : ElemId) (j : Fin 4) (b : Job) (x : XFault) (ix : Bool) : Fab :=
  if heldOp b.opc then (f.faultMsg false e b.c 0 x.xc false b.run b.opc x.va 0).endJob e j .aborted jcXlate
  else f.stopJob e j x ix

/-- Handles that an element of a job accesses (R172). -/
def Job.handles (b : Job) : List Nat :=
  b.dst.toList ++ (if b.opc = 0x7B ∨ b.opc = 0x98 then [] else if 0xB0 ≤ b.opc then [b.srcH] else [handleOf b.a.v]) ++
    (if isIndexed b.opc then [handleOf b.b.v] else [])

/-- The element at IDX: it waits for its port or engine, for its chains and for a word, it moves, it faults, or it ends the job. -/
def Fab.jobGo (f : Fab) (e : ElemId) (j : Fin 4) (b : Job) : Fab :=
  if !b.begun && ((!(portsOf b.op).isEmpty && !(f.elem e).portFree (portsOf b.op) b.seq) || (streamOp b.opc && !f.engineFree e b)) then
    f.jobAt e j (f.clock + 1)
  else
    let f := f.modJob e j fun b => { b with begun := true }
    if b.n ≤ b.idx then (if b.eosDue then f.jobEos e j b else f.endJob e j .done 0)
    else if !(b.waves.all (f.chainOk e b.c b.run b.copy b.frame ·)) || f.ringWaits e b then f.jobAt e j (f.clock + 1)
    else
      let (granted, f) := f.portBeat e j b
      if !granted then f.jobAt e j (f.clock + 1)
      else match f.stepJob e j b b.idx with
      | .wait => f.jobAt e j (f.clock + 1)
      | .fault x ix => f.jobFaulted e j b x ix
      | .abort c => f.endJob e j .aborted c
      | .ok f =>
        let f := b.handles.foldl (fun (f : Fab) h => f.useTile e h) (f.modJob e j fun b => { b with idx := b.idx + 1 })
        let d := b.dst.bind (f.tileOf e b.c)
        let n := (d.map (b.bytesOf · b.idx)).getD 0
        let (w, f) := if heldOp b.opc || n == 0 then (none, f) else f.countBytes e (b.dst.getD 0) n
        match w with
        | some t => ((f.modJob e j fun x => { x with fpend := x.fpend ++ [(t, b.idx)] }).at t 2 (.jobElement e j)).jobAfter e j
        | none => (f.settleF e j b.idx).jobAfter e j

/-- Is a job's next element due on this tick? -/
def Fab.jobDue (f : Fab) (e : ElemId) (j : Fin 4) : Bool :=
  let b := f.job e j
  b.live && b.st == .running && b.next == f.clock && b.opc != 0x98

/-- The job of an element that is served next on this tick: of those due, the one admitted first (R168). -/
def Fab.firstDue (f : Fab) (e : ElemId) : Option (Fin 4) :=
  ([0, 1, 2, 3] : List (Fin 4)).foldl (fun (k : Option (Fin 4)) j =>
    if !f.jobDue e j then k
    else match k with
      | some i => if (f.job e i).seq ≤ (f.job e j).seq then some i else some j
      | none => some j) none

/-- JOB_ELEMENT: the F changes of its slot that are due, then an element of the job whose turn it is. -/
def Fab.jobElement (f : Fab) (e : ElemId) (j : Fin 4) : Fab :=
  let f := if (f.job e j).live then f.settleDue e j else f
  let f := if (f.job e j).live && (f.job e j).opc = 0xB9 then f.dcOver e j else f
  match f.firstDue e with
  | none => f
  | some j =>
    let b := f.job e j
    if f.moving e then f.jobAt e j (f.clock + 1)
    else if b.abort then f.endJob e j .aborted jcAborted
    else if b.opc = 0xB9 then f.dcElement e j b
    else f.jobGo e j b

/-- JOB_FAULT_STOP: the state of the stop and its message (R200-R203). -/
def Fab.jobStopped (f : Fab) (e : ElemId) (j : Fin 4) : Fab :=
  let b := f.job e j
  if !b.live || b.st ≠ .running then f
  else
    let safe := f.unserviceable e b.run
    (f.modJob e j fun b => { b with st := .stopped, cause := jcXlate, safe := safe }).faultMsg true e b.c j.val b.xcause b.idxph b.run b.opc
      b.va b.idx

/-! ### Retirement (R169, R170) -/

/-- Has a job ended, and every earlier job of its context retired? -/
def Fab.mayRetire (f : Fab) (e : ElemId) (b : Job) : Bool :=
  b.live && (b.st == .done || b.st == .aborted) && b.fpend.isEmpty &&
    (f.elem e).sq.toList.all fun x => !(x.live && x.c == b.c && decide (x.seq < b.seq))

/-- A job's slot freed, with its push, its flags, and the retirement of a later job that waited for it. -/
def Fab.retireJob (f : Fab) (e : ElemId) (j : Fin 4) : Fab :=
  let b := f.job e j
  let f := f.modJob e j fun b => { b with live := false }
  let f := f.modSlot e b.c fun s => s.raiseIn b.esr
  let f := match b.push with
    | some k => if b.nopush then f else f.modSlot e b.c (slotPush k f.clock (BitVec.ofNat 16 b.idx))
    | none => f
  let f := (f.reweigh e).fenceTest e
  ([0, 1, 2, 3] : List (Fin 4)).foldl (fun f i =>
    let x := f.job e i
    if f.mayRetire e x && x.c == b.c && decide (x.fin < f.clock) then f.at f.clock 2 (x.retireEvent e i) else f) f

/-- JOB_RETIREMENT. -/
def Fab.jobRetired (f : Fab) (e : ElemId) (j : Fin 4) : Fab :=
  let b := f.job e j
  if f.mayRetire e b && !heldOp b.opc && decide (b.fin < f.clock) then f.retireJob e j else f

/-- What a held operation delivers (R283-R286, R294). -/
def heldResult (b : Job) (e : ElemId) (ty : Ty) : TV :=
  if b.st = .aborted ∨ (b.opc = 0xB8 ∧ b.extra.length = 2) then ⟨poisonOf causeElemfault e, true, ty⟩
  else if b.opc = 0xBB ∧ b.extra = [] then ⟨poisonOf causeDecomp e, true, ty⟩
  else ⟨BitVec.ofNat 32 (b.extra.headD 0), false, ty⟩

/-- HELD_OP_RETIREMENT: the result to the row's destinations, and the retirement. -/
def Fab.heldRetired (f : Fab) (e : ElemId) : Fab :=
  match (f.elem e).hold with
  | none => f
  | some h =>
    let j : Fin 4 := Fin.ofNat 4 (h.aux.headD 0)
    let b := f.job e j
    if h.kind = .op ∧ f.mayRetire e b then
      let r := h.row f e
      let f := r.finish (f.unhold e) (heldResult b e (r.resTy .n32)) 0 (f.slot e h.c).emr
      f.retireJob e j
    else f

/-! ### The instructions -/

/-- JOB_ELEMENT (R180, R197, R274). -/
def execJobElement (e : ElemId) (j : Fin 4) (s : State) : Host.Outcome State Fault Refusal :=
  lift (fun f => f.jobElement e j) s

/-- JOB_FAULT_STOP (R200). -/
def execJobFaultStop (e : ElemId) (j : Fin 4) (s : State) : Host.Outcome State Fault Refusal :=
  lift (fun f => f.jobStopped e j) s

/-- JOB_RETIREMENT (R170). -/
def execJobRetirement (e : ElemId) (j : Fin 4) (s : State) : Host.Outcome State Fault Refusal :=
  lift (fun f => f.jobRetired e j) s

/-- HELD_OP_RETIREMENT (R285). -/
def execHeldOpRetirement (e : ElemId) (s : State) : Host.Outcome State Fault Refusal :=
  lift (fun f => f.heldRetired e) s

end Sys2Proof.Machine
end

