-- ==== Sys2Proof/Machine/RowTypes.lean ====
section
/-! DEFINITION. The types that the rows of a share read and give, as its words and type tables tell (spec 03_numbers R74,
04_arithmetic R84, R85, R95, 06_routing R149, 12_tape R298, R314). -/

namespace Sys2Proof.Machine

/-! ### Types (R74, R84, R85, R95, R149) -/

/-- A row of a share: its op word, route and register-address words. -/
structure RowWords where
  op : BitVec 24
  route : BitVec 16
  reg : BitVec 16
  deriving DecidableEq, Repr

def RowWords.o (w : RowWords) : Nat := (fld w.op 16 8).toNat
def RowWords.rt (w : RowWords) : Route := decodeRoute w.route
def RowWords.rg (w : RowWords) : RegWord := decodeReg w.reg
def RowWords.sig (w : RowWords) (sh : Share) : Sig := sigOf w.op (bits (pword (sh.block w.op) 0) 8 4)

/-- The links that a row may drive: its mask, and the false mask of STEER. -/
def RowWords.links (w : RowWords) : BitVec 4 := Route.links w.rt ||| (if w.o = 0x58 then fld w.op 0 4 else 0)

/-- The types that the destinations of a row declare (R85). -/
def RowWords.declared (w : RowWords) (sh : Share) : List Ty :=
  (((if w.rt.reg then [sh.regType w.rg.rd] else []) ++ (dirs.filter (maskBit w.links)).map sh.outType).filter (· != .untyped)).eraseDups

/-- Does the instruction pass its source's data and type on (R149, R314, R368)? -/
def RowWords.passes (w : RowWords) : Bool :=
  [0x58, 0x59, 0x5A, 0x5B, 0x6C, 0xDC].contains w.o || (w.o == 0xCE && !w.op.getLsbD 4)

/-- The result type where no destination declares one; that of the source for an instruction that passes it on is found from the source. -/
def RowWords.dflt (w : RowWords) (sh : Share) : Ty :=
  let o := w.o
  if o < 0x30 then .i32
  else if o < 0x58 then
    (if (0x3A ≤ o ∧ o ≤ 0x3D) ∨ o = 0x3F ∨ o = 0x41 ∨ o = 0x45 ∨ o = 0x51 then .i32
     else if o = 0x47 ∧ fld w.op 8 2 = 1 then .n8
     else if o = 0x47 ∧ fld w.op 8 2 = 2 then .fp16
     else .fp32)
  else if o = 0x6A ∧ fld w.op 0 8 = 0 then .i32
  else match (w.sig sh).res with
    | .bool => .i32
    | .hdl => .hdl
    | .codebook => .fp32
    | .query => .n32
    | _ => if 0x8B ≤ o ∧ o ≤ 0x92 then sh.regType w.rg.rd else if formOf o = .om ∧ o ≠ 0x79 then .i32 else .n32

/-- The rows of an element: all pairings of rows 0 to P - 1 with the indices of their words (R39). -/
def Share.pairings (sh : Share) : List (Nat × Nat × Nat × RowWords) :=
  let lo := max sh.op.length 1
  let lr := max sh.route.length 1
  let lg := max sh.reg.length 1
  (List.range (Nat.lcm lo (Nat.lcm lr lg))).map fun g =>
    (g % lo, g % lr, g % lg, ⟨sh.op.getD (g % lo) 0, sh.route.getD (g % lr) 0, sh.reg.getD (g % lg) 0⟩)

/-- The words of an arm. -/
def armWords (x : BitVec 64) : RowWords := ⟨x.extractLsb' 32 24, x.extractLsb' 16 16, x.extractLsb' 0 16⟩
/-- The two arms of pair k, where defined. -/
def Share.armsOf (sh : Share) (k : Nat) : List RowWords :=
  if sh.armDefined k then [armWords (sh.arms.getD (2 * k) 0), armWords (sh.arms.getD (2 * k + 1) 0)] else []

/-- All rows of a share, ring rows and arm rows. -/
def Share.allRows (sh : Share) : List RowWords := sh.pairings.map (·.2.2.2) ++ sh.armRows.map fun x => armWords x.2

/-- The types of LT: the result types of the element's LUT and LUTSEL rows (R84). -/
def Share.ltTypes (sh : Share) : List Ty :=
  ((sh.allRows.filter fun w => w.o == 0x50 || w.o == 0x55).map fun w => (w.declared sh).headD .fp32).eraseDups
/-- What is known of the type of a source: none for a lane whose tokens carry it and where nothing gives it. -/
abbrev SrcTy := Option Ty

/-- The types that FB may have before row g, and the result type of a row, traced back at most as many rows as the fuel (R84). -/
def Share.fbTypes (sh : Share) (rows : List RowWords) : Nat → Nat → List SrcTy
  | 0, _ => []
  | n + 1, g =>
    let g' := (g + rows.length - 1) % max rows.length 1
    let w := rows.getD g' ⟨0, 0xFF00, 0⟩
    let before := sh.fbTypes rows n g'
    let src (x : RowWords) : List SrcTy :=
      let code := x.rt.a.toNat
      if code = 12 then before
      else match srcDir code with
        | some d => [some (sh.inTy.getD (2 * dirIdx d + sh.inTrack d) .untyped)]
        | none =>
          if code = 0 then [some (sh.regType x.rg.ra)]
          else if code = 7 then [sh.ltTypes.head?]
          else if code = 8 then [sh.mdTypes.head?]
          else if code = 9 ∨ code = 13 then [some .i32]
          else if code = 10 then [some .ctl]
          else if code = 14 then [some .n32]
          else [none]
    let res (x : RowWords) : List SrcTy :=
      if (x.sig sh).res = .no then before
      else match x.declared sh with
        | t :: _ => [some t]
        | [] => if x.passes then src x else [some (x.dflt sh)]
    if w.o = 0x6D then ((sh.armsOf (fld w.op 0 3).toNat).flatMap res).eraseDups else res w

/-- The types of a source of a row, given those of FB before it (R84). -/
def Share.srcTypes (sh : Share) (fb : List SrcTy) (code : BitVec 4) (k : BitVec 5) : List SrcTy :=
  match srcDir code.toNat with
  | some d => [some (sh.inTy.getD (2 * dirIdx d + sh.inTrack d) .untyped)]
  | none =>
    match code.toNat with
    | 0 => [some (sh.regType k)]
    | 7 => [sh.ltTypes.head?]
    | 8 => [sh.mdTypes.head?]
    | 9 => [some .i32]
    | 10 => [some .ctl]
    | 12 => fb
    | 13 => [some .i32]
    | 14 => [some .n32]
    | _ => [none]

/-- FB's types before an arm row of pair k: those before every ARMX row that names it (R84). -/
def Share.armFb (sh : Share) (rows : List RowWords) (k : Nat) : List SrcTy :=
  ((List.range rows.length).flatMap fun g =>
    let w := rows.getD g ⟨0, 0, 0⟩
    if w.o = 0x6D ∧ (fld w.op 0 3).toNat = k then sh.fbTypes rows (2 * rows.length) g else []).eraseDups

/-- The result type of a row, given the types of FB before it: what its destinations declare, else that of the source it passes on, else its
instruction's own (R74, R85, R298; log 43). -/
def RowWords.resultTy (sh : Share) (fb : List SrcTy) (w : RowWords) : Ty :=
  match w.declared sh with
  | t :: _ => t
  | [] => if w.passes then ((sh.srcTypes fb w.rt.a w.rg.ra).head?.join).getD .i32 else w.dflt sh

end Sys2Proof.Machine
end

