-- ==== Sys2Proof/Machine/Tape.lean ====
section
/-! DEFINITION. The tape engines: recording, storage, keys, replay, regeneration, divergence, and instructions 0xCC-0xD3 (spec 12_tape
R295-R319). A tape's key is 16 × its die + its number. -/

namespace Sys2Proof.Machine

/-! ### Storage (R297, R298) -/

/-- A little-endian number of a tape's storage; zero where it cannot be read. -/
def Fab.tapeGet (f : Fab) (key off n : Nat) : Nat :=
  match f.tapePlace key off with
  | some a => f.load a n
  | none => 0

/-- Bytes written to a tape's storage, each at its place. -/
def Fab.tapePut (f : Fab) (key off : Nat) : List Byte → Fab
  | [] => f
  | b :: bs => (match f.tapePlace key off with
      | some a => f.putBytes a [b]
      | none => f).tapePut key (off + 1) bs

/-- The fabric with a tape's record changed. -/
def Fab.modTape (f : Fab) (key : Nat) (g : Tape → Tape) : Fab := { f with tapes := mmod key g f.tapes }

/-- Header fields. -/
def Fab.tpState (f : Fab) (key : Nat) : Nat := f.tapeGet key 4 1
def Fab.tpPolicy (f : Fab) (key : Nat) : Nat := f.tapeGet key 5 1 % 2
def Fab.tpFlags (f : Fab) (key : Nat) : Nat := f.tapeGet key 6 1
def Fab.tpElems (f : Fab) (key : Nat) : Nat := f.tapeGet key 0x0A 2
def Fab.tpFrames (f : Fab) (key : Nat) : Nat := f.tapeGet key 0x0C 4
def Fab.tpOv (f : Fab) (key : Nat) : Nat := f.tapeGet key 0x10 4
def Fab.tpVcap (f : Fab) (key : Nat) : Nat := f.tapeGet key 0x14 2
def Fab.tpBcap (f : Fab) (key : Nat) : Nat := f.tapeGet key 0x16 2
def Fab.tpRcap (f : Fab) (key : Nat) : Nat := f.tapeGet key 0x18 2
def Fab.tpKcap (f : Fab) (key : Nat) : Nat := f.tapeGet key 0x1A 2
def Fab.tpL (f : Fab) (key : Nat) : Nat := f.tapeGet key 0x1C 2
def Fab.tpKeys (f : Fab) (key : Nat) : Nat := f.tapeGet key 0x1E 2
def Fab.tpStart (f : Fab) (key : Nat) : Nat := f.tapeGet key 0x60 4
/-- Has the value area overflowed? -/
def Fab.tpOvf (f : Fab) (key : Nat) : Bool := (f.tpFlags key).testBit 0

/-- Offset of the element table's entry i. -/
def Fab.tpTable (f : Fab) (key i : Nat) : Nat := 0x80 + 4 * f.tpL key + 16 * i
/-- Offset H of the chunks. -/
def tapeH (l e : Nat) : Nat := 64 * ((128 + 4 * l + 16 * e + 63) / 64)
/-- Offset of a chunk. -/
def Fab.tpChunk (f : Fab) (key ch : Nat) : Nat := tapeH (f.tpL key) (f.tpElems key) + 32 * ch
/-- Offset of key entry k. -/
def Fab.tpKey (f : Fab) (key k : Nat) : Nat := f.tpChunk key (f.tpVcap key + f.tpBcap key + f.tpRcap key) + 160 * k

/-- A header flag set: 0 OVF, 1 KOVF, 2 DIV, 3 PSN. -/
def Fab.tpSetFlag (f : Fab) (key b : Nat) : Fab := f.tapePut key 6 (leBytes 1 (f.tpFlags key ||| 2 ^ b))

/-- Used count of a chunk: bits, or bytes in the branch area. -/
def Fab.chunkUsed (f : Fab) (key ch : Nat) : Nat := f.tapeGet key (f.tpChunk key ch + 2) 2
/-- The element's chunk before a chunk. -/
def Fab.chunkPrev (f : Fab) (key ch : Nat) : Nat := f.tapeGet key (f.tpChunk key ch + 4) 2
/-- The 24 bytes of a chunk as one number. -/
def Fab.chunkData (f : Fab) (key ch : Nat) : Nat := f.tapeGet key (f.tpChunk key ch + 8) 24

/-! ### Streams (R299) -/

/-- A new chunk of an area for a shape element, the lowest free one, behind another; nothing where the area is full. -/
def Fab.takeChunk (f : Fab) (key lo cap i prev : Nat) : Option (Nat × Fab) :=
  match mget key f.tapes with
  | none => none
  | some t =>
    (((List.range cap).map (lo + ·)).find? fun k => !t.taken.contains k).map fun k =>
      (k, (f.modTape key fun t => { t with taken := k :: t.taken }).tapePut key (f.tpChunk key k)
        (leBytes 2 i ++ [0, 0] ++ leBytes 2 prev ++ List.replicate 26 0))

/-- Number of significant bits. -/
def sigBits (d : Nat) : Nat := if d = 0 then 0 else Nat.log2 d + 1

/-- A value appended to a shape element's stream in an area; nothing where it overflows (R299). -/
def Fab.appendValue (f : Fab) (key lo cap i : Nat) (s : VStream) (v : W32) : Option (VStream × Fab) :=
  let d := (v ^^^ s.last).toNat
  let n := sigBits d
  let room : Option (Nat × Nat × Fab) :=
    if s.ch ≠ 65535 ∧ s.pos + n + 6 ≤ 192 then some (s.ch, s.pos, f)
    else (f.takeChunk key lo cap i s.ch).map fun (k, f) => (k, 0, f)
  room.map fun (k, pos, f) =>
    let old := f.chunkData key k
    let data := old % 2 ^ pos + (d + n * 2 ^ n) * 2 ^ pos
    let f := (f.tapePut key (f.tpChunk key k + 8) (leBytes 24 data)).tapePut key (f.tpChunk key k + 2) (leBytes 2 (pos + n + 6))
    (⟨s.n + 1, v, k, pos + n + 6⟩, f)

/-- A decision appended to a shape element's branch stream; nothing where the area overflows (R299). -/
def Fab.appendBranch (f : Fab) (key i : Nat) (s : BStream) (b : Bool) : Option (BStream × Fab) :=
  let put (k pos run : Nat) (f : Fab) : BStream × Fab :=
    (⟨s.n + 1, k, pos, run⟩, (f.tapePut key (f.tpChunk key k + 7 + pos) (leBytes 1 run)).tapePut key (f.tpChunk key k + 2) (leBytes 2 pos))
  let top := if b then 128 else 0
  if s.ch ≠ 65535 ∧ s.run / 128 * 128 = top ∧ s.run % 128 < 127 then some (put s.ch s.pos (s.run + 1) f)
  else if s.ch ≠ 65535 ∧ s.pos < 24 then some (put s.ch (s.pos + 1) top f)
  else (f.takeChunk key (f.tpVcap key) (f.tpBcap key) i s.ch).map fun (k, f) => put k 1 top f

/-- The last value of a stream with the stream before it (R305). -/
def Fab.popValue (f : Fab) (key : Nat) (s : VStream) : W32 × VStream :=
  let data := f.chunkData key s.ch
  let n := bits data (s.pos - 6) 6
  let pos := s.pos - 6 - n
  let d := bits data pos n
  let (ch, pos) := if pos = 0 then let p := f.chunkPrev key s.ch; (p, if p = 65535 then 0 else f.chunkUsed key p) else (s.ch, pos)
  (s.last, ⟨s.n - 1, s.last ^^^ BitVec.ofNat 32 d, ch, pos⟩)

/-- The last decision of a stream with the stream before it (R305). -/
def Fab.popBranch (f : Fab) (key : Nat) (s : BStream) : Bool × BStream :=
  let byte (k pos : Nat) : Nat := f.tapeGet key (f.tpChunk key k + 7 + pos) 1
  let b := decide (128 ≤ s.run)
  if s.run % 128 ≠ 0 then (b, { s with n := s.n - 1, run := s.run - 1 })
  else if 1 < s.pos then (b, ⟨s.n - 1, s.ch, s.pos - 1, byte s.ch (s.pos - 1)⟩)
  else
    let p := f.chunkPrev key s.ch
    let u := if p = 65535 then 0 else f.chunkUsed key p
    (b, ⟨s.n - 1, p, u, if p = 65535 then 0 else byte p u⟩)

/-- A stream after n pops of decisions. -/
def Fab.dropBranch (f : Fab) (key : Nat) (s : BStream) : Nat → BStream
  | 0 => s
  | n + 1 => f.dropBranch key (f.popBranch key s).2 n

/-- Decision k of a stream of stored decisions. -/
def Fab.decision (f : Fab) (key : Nat) (s : BStream) (k : Nat) : Option Bool :=
  if k < s.n then some (f.popBranch key (f.dropBranch key s (s.n - 1 - k))).1 else none

/-- Chunks of a stream behind its tail, down to a chunk that stays. -/
def Fab.chunksTo (f : Fab) (key stay : Nat) : Nat → Nat → List Nat
  | 0, _ => []
  | n + 1, k => if k = stay ∨ k = 65535 then [] else k :: f.chunksTo key stay n (f.chunkPrev key k)

/-- A tape's chunks from a tail down to an earlier tail freed; the earlier tail takes its earlier used count (R302, R309). -/
def Fab.cutStream (f : Fab) (key tail stay used : Nat) : Fab :=
  let gone := f.chunksTo key stay 65536 tail
  let f := f.modTape key fun t => { t with taken := t.taken.filter fun k => !gone.contains k }
  if stay = 65535 then f else f.tapePut key (f.tpChunk key stay + 2) (leBytes 2 used)

/-! ### Record list (R298) -/

/-- The record-list entry of a row, given the types of FB before it; nothing where it records nothing. -/
def recEntry (sh : Share) (fb : List SrcTy) (i ix : Nat) (w : RowWords) : Option Nat :=
  let ent (kind ty : Nat) : Option Nat := some (i + ix * 2 ^ 16 + kind * 2 ^ 24 + ty * 2 ^ 26)
  if recordsBranch w.o then ent 3 0x1D
  else if w.o = 0xCE then (if w.op.getLsbD 4 then ent 2 Ty.n32.ctorIdx else ent 1 (w.resultTy sh fb).ctorIdx)
  else if formOf w.o = .oa ∧ w.o ≠ 0 ∧ w.op.getLsbD 11 then ent 0 (w.resultTy sh fb).ctorIdx
  else none

/-- The recording sources of a share: ring rows, then arm rows. -/
def Share.recList (sh : Share) (i : Nat) : List Nat :=
  let rows := sh.pairings.map (·.2.2.2)
  (((List.range sh.op.length).zip rows).filterMap fun (k, w) =>
    recEntry sh (if w.rt.a = 12 then sh.fbTypes rows (2 * rows.length) k else []) i k w) ++
    ((List.range sh.arms.length).filterMap fun k =>
      let w := armWords (sh.arms.getD k 0)
      recEntry sh (if w.rt.a = 12 then sh.armFb rows (k / 2) else []) i (128 + k) w)

/-! ### Opening, overflow, ending -/

/-- The die of a region's shape element 0. -/
def Copy.die (k : Copy) : Nat := dieOf (fieldNo k.ox k.oy)
/-- Index of an element in its region's shape. -/
def Copy.index (k : Copy) (e : ElemId) : Nat := (yOf e - k.oy) * k.cols + (xOf e - k.ox)

/-- The fabric with the slots of a region's context changed, each with its element. -/
def Fab.modRegion (f : Fab) (run copy : Nat) (g : ElemId → Slot → Slot) : Fab :=
  let r := f.run run
  (r.copy copy).elems.foldl (fun f e => f.modSlot e r.ctx (g e)) f

/-- The fabric with a region's recording changed. -/
def Fab.modRec (f : Fab) (run copy : Nat) (g : Recording → Recording) : Fab :=
  f.modRun run fun r => r.modCopy copy fun k => { k with rec_ := k.rec_.map g }
/-- The fabric with a region's replay changed. -/
def Fab.modReplay (f : Fab) (run copy : Nat) (g : Replay → Replay) : Fab :=
  f.modRun run fun r => r.modCopy copy fun k => { k with replay := k.replay.map g }

/-- A recording that ends without closing: the tape is abandoned, waiting records and keys are dropped (R301, R309). -/
def Fab.abandon (f : Fab) (run copy : Nat) : Fab :=
  match ((f.run run).copy copy).rec_ with
  | none => f
  | some k =>
    if k.over_ then f
    else
      let f := (f.tapePut k.key 4 [2]).modTape k.key fun t => { t with openRec := false }
      (f.modRec run copy fun k => { k with over_ := true }).modRegion run copy fun _ s => { s with recq := [], keyq := [] }

/-- An overflow that ends the run, with this tick as its deadline: no row of it issues on this tick (R301, R331). -/
def Fab.tapeTrap (f : Fab) (run copy : Nat) : Fab :=
  ((f.abandon run copy).modRun run fun r => if r.want = .no then { r with want := .tape } else r).at f.clock 0 (.deadline run)

/-- The keys of a tape whose frames lie at or above the overflow frame hold no value count (R300). -/
def Fab.unkeyFrom (f : Fab) (key frame : Nat) : Fab :=
  (List.range (f.tpKeys key)).foldl (fun f k =>
    if frame ≤ f.tapeGet key (f.tpKey key k) 4 then f.tapePut key (f.tpKey key k + 4) [255, 255, 255, 255] else f) f

/-- Value recording stopped at a frame: every element's values go back to the start of the frame (R302). -/
def Fab.tapeStop (f : Fab) (run copy frame : Nat) : Fab :=
  let r := f.run run
  let cp := r.copy copy
  match cp.rec_ with
  | none => f
  | some k =>
    let marks := ((mget k.key f.tapes).getD {}).marks
    let f := cp.elems.foldl (fun f e =>
      match ((mget (cp.index e) marks).getD []).find? fun m => decide (frame ≤ m.1) with
      | none => f
      | some (_, v, _) =>
        let s := f.slot e r.ctx
        (f.cutStream k.key s.tp.v.ch v.ch v.pos).modSlot e r.ctx fun s => { s with tp := { s.tp with v := v } }) f
    (((f.tpSetFlag k.key 0).tapePut k.key 0x10 (leBytes 4 frame)).unkeyFrom k.key frame).modRec run copy fun k => { k with ovf := some frame }

/-! ### Divergence and regeneration (R306, R308) -/

/-- A regeneration that ends: its run is gone and the forward slot holds none. -/
def Fab.endSegment (f : Fab) (pr : Nat) : Fab :=
  let r := f.run pr
  let cp := r.copy (r.copies.length - 1)
  let f := cp.elems.foldl (fun f e => (f.modElem e fun x =>
    if (x.hold.map fun h => h.c == r.ctx).getD false then { x with hold := none } else x).modSlot e r.ctx fun s =>
      { s with run := none, st := .resident, recq := [] }) f
  { f with runs := mdel pr f.runs }

/-- The run is tainted by a divergence of one of its copies (R308, R351). -/
def Fab.taintDiverge (f : Fab) (run : Nat) (e : ElemId) : Fab :=
  f.modRun run fun r => { (r.raise 2).note spacePoison causeDiverge 0 e 0 with flagsB := r.flagsB ||| 2 }

/-- A divergence found during a replay: DIV is set, a regeneration ends, later pops are poison (R308). -/
def Fab.diverge (f : Fab) (run copy : Nat) (e : ElemId) : Fab :=
  match ((f.run run).copy copy).replay with
  | none => f
  | some p =>
    let f := match p.seg with
      | some (_, _, some pr) => f.endSegment pr
      | _ => f
    let f := match p.key with
      | some k => f.tpSetFlag k 2
      | none => f
    (f.modReplay run copy fun p => { p with div := true, seg := none }).taintDiverge run e

/-- Elements of a region whose rings or arms hold TAPEK. -/
def Share.hasKey (sh : Share) : Bool :=
  (sh.op.any fun w => fld w 16 8 == 0xD3) || sh.arms.any fun x => x.extractLsb' 48 8 == 0xD3

/-- The key entry of a shape element at a frame. -/
def Fab.keyAt (f : Fab) (key i frame : Nat) : Option Nat :=
  (List.range (f.tpKeys key)).find? fun k =>
    f.tapeGet key (f.tpKey key k) 4 == frame && f.tapeGet key (f.tpKey key k + 28) 2 == i

/-- Frames that have a complete key, in the order of their entries. -/
def Fab.keyFrames (f : Fab) (key : Nat) (cp : Copy) (c : Ctx) : List Nat :=
  let es := cp.elems.filter fun e => ((f.slot e c).share.getD {}).hasKey
  if es.isEmpty then []
  else (((List.range (f.tpKeys key)).map fun k => f.tapeGet key (f.tpKey key k) 4).eraseDups).filter fun fr =>
    es.all fun e => (f.keyAt key (cp.index e) fr).isSome

/-- A slot with the registers of a key restored (R300, R306). -/
def Fab.restoreKey (f : Fab) (key k : Nat) (s : Slot) : Slot :=
  let g (off : Nat) : Nat := f.tapeGet key (f.tpKey key k + off) 4
  let mask := g 12
  let psn := g 16
  let fl := g 20
  let regs := (List.range 32).foldl (fun (v : Vector Val 32) i =>
    if mask.testBit i then v.set (Fin.ofNat 32 i) ⟨BitVec.ofNat 32 (g (32 + 4 * i)), psn.testBit i⟩ else v) s.regs
  let s := { s with regs := regs }
  if fl.testBit 3 then
    { s with latch := fl.testBit 0, latchP := fl.testBit 1, fb := { s.fb with v := BitVec.ofNat 32 (g 24), p := fl.testBit 2 } }
  else s

/-- Decisions of a shape element stored before a frame: those before its first record at or after the frame, else all. -/
def Fab.decisionsBefore (f : Fab) (key i frame : Nat) : Nat :=
  let ms := (mget i ((mget key f.tapes).getD {}).marks).getD []
  match ms.find? fun m => decide (frame ≤ m.1) with
  | some (_, _, n) => n
  | none => f.tapeGet key (f.tpTable key i + 12) 4

/-- Is the forward image resident in the slot on every element of the region, each with the share of its place in the shape (R304)? -/
def Fab.forwardSlot (f : Fab) (key : Nat) (cp : Copy) (c : Ctx) : Bool :=
  cp.elems.all fun e =>
    match (f.slot e c).share with
    | some sh => ((f.slot e c).st == .resident || (f.slot e c).st == .running) && sh.elem == cp.index e &&
      sh.hash == BitVec.ofNat 512 (f.tapeGet key 0x20 64)
    | none => false

/-- The segment of the frame below those regenerated: from the frame after the largest key below it to the least key frame at or above
it, or the last frame recorded. Nothing where no key lies below. -/
def Fab.segmentOf (f : Fab) (key : Nat) (cp : Copy) (c : Ctx) (frame : Nat) : Option (Nat × Nat) :=
  let ks := f.keyFrames key cp c
  ((ks.filter (· < frame)).max?).map fun k =>
    (k + 1, ((ks.filter (frame ≤ ·)).min?).getD (f.tpStart key + f.tpFrames key - 1))

/-- The physical slot that TAPER names on the region's elements (R326). -/
def Fab.tapeSlot (f : Fab) (cp : Copy) (k : Fin 4) : Ctx := (f.elem (fieldNo cp.ox cp.oy)).smap.get k

/-- A segment that starts: keys restored, lanes emptied, the row counter set, the rows 8 t later (R306). A waiting slot keeps it waiting; a
missing key or image diverges. -/
def Fab.startSegment (f : Fab) (run copy : Nat) : Fab :=
  let r := f.run run
  let cp := r.copy copy
  let e0 := fieldNo cp.ox cp.oy
  match cp.replay with
  | none => f
  | some p =>
    match p.key with
    | none => f
    | some key =>
      let c := f.tapeSlot cp p.slot
      if !f.forwardSlot key cp c then f.diverge run copy e0
      else match f.segmentOf key cp c (p.next - 1) with
        | none => f.diverge run copy e0
        | some (lo, hi) =>
          if cp.elems.any fun e => (f.slot e c).st == .running then
            f.modReplay run copy fun p => { p with seg := some (lo, hi, none) }
          else
            let (pr, f) := f.fresh
            let sh := (f.slot e0 c).share.getD {}
            let t := (mget key f.tapes).getD {}
            let k := f.tapeGet key 7 1
            let reg : Copy := { cp with start := f.clock + 8, g := lo * sh.ii, stop := some ((hi + 1) * sh.ii), first := none,
                                        passed := false, rec_ := some { key := key, since := 0, stop := t.stop }, replay := none, perf := []
                                        held := t.held }
            let pseudo : Run := { part := r.part, tag := r.tag, safety := r.safety, ctx := c, n := t.n, regen := some (run, copy), dl := 0
                                  copies := List.replicate k { passed := true } ++ [reg] }
            let f := { f with runs := mput pr pseudo f.runs }
            let f := f.modTape key fun t => { t with taken := t.taken.filter (· < f.tpVcap key + f.tpBcap key) }
            let f := cp.elems.foldl (fun f e =>
              let i := cp.index e
              let f := f.modSlot e r.ctx fun s => { s with tp := { s.tp with r := {} } }
              f.modSlot e c fun s =>
                let s := match f.keyAt key i (lo - 1) with
                  | some q => f.restoreKey key q s
                  | none => s
                let at_ := match f.keyAt key i (lo - 1) with
                  | some q => f.tapeGet key (f.tpKey key q + 8) 4
                  | none => f.decisionsBefore key i lo
                { s with lanes := Vector.replicate 16 {}, run := some (pr, k), st := .running, tp := { s.tp with at_ := at_ } }) f
            f.modReplay run copy fun p => { p with seg := some (lo, hi, some pr) }

/-- The decision count of a shape element at the end of a segment, as the forward run recorded it: the key's, or the table's for the last
segment; nothing where there is neither. -/
def Fab.segmentCount (f : Fab) (key i hi : Nat) : Option Nat :=
  match f.keyAt key i hi with
  | some q => some (f.tapeGet key (f.tpKey key q + 8) 4)
  | none => if hi + 1 = f.tpStart key + f.tpFrames key then some (f.tapeGet key (f.tpTable key i + 12) 4) else none

/-- A value stream after pops down to n values. -/
def Fab.dropValues (f : Fab) (key n : Nat) (s : VStream) : Nat → VStream
  | 0 => s
  | k + 1 => if s.n ≤ n then s else f.dropValues key n (f.popValue key s).2 k

/-- The regenerated values that a rollback found popped already, popped again (R309). -/
def Fab.dropPopped (f : Fab) (run copy : Nat) (p : Replay) (key : Nat) : Fab :=
  f.modRegion run copy fun e s =>
    match mget (((f.run run).copy copy).index e) p.drop with
    | some n => { s with tp := { s.tp with r := f.dropValues key n s.tp.r s.tp.r.n } }
    | none => s

/-- A segment whose rows have all issued: its decision counts are compared and popping resumes (R306, R308). -/
def Fab.finishSegment (f : Fab) (run copy lo hi pr : Nat) : Fab :=
  let r := f.run run
  let cp := r.copy copy
  match cp.replay.bind (·.key) with
  | none => f
  | some key =>
    let c := (f.run pr).ctx
    match cp.elems.find? fun e => (f.segmentCount key (cp.index e) hi).any fun n => n != (f.slot e c).tp.at_ with
    | some e => f.diverge run copy e
    | none =>
      (((f.endSegment pr).dropPopped run copy (cp.replay.getD {}) key)).modReplay run copy fun p =>
        { p with seg := none, next := lo, regens := p.regens + 1, drop := [] }

/-- Has a region of a regeneration issued its last row, with its records accepted? -/
def Fab.segmentDone (f : Fab) (pr : Nat) : Bool :=
  let r := f.run pr
  let cp := r.copy (r.copies.length - 1)
  (cp.stop.any fun g => decide (g ≤ cp.g)) && cp.elems.all fun e =>
    (f.slot e r.ctx).recq.isEmpty && !((f.elem e).hold.map fun h => h.c == r.ctx).getD false

/-- Does a replay need its next segment now: its region is not torn down nor past its last row, every value of the current one is popped, and
frames above the overflow remain (R306)? -/
def Fab.needsSegment (f : Fab) (r : Run) (cp : Copy) (p : Replay) (now : Nat) : Bool :=
  match p.key with
  | none => false
  | some key =>
    r.torn == .no && !cp.passed && !p.div && decide (p.ready ≤ now) && f.tpOvf key && decide (f.tpOv key < p.next) && cp.elems.all fun e => (f.slot e r.ctx).tp.r.n == 0

/-- TAPE_REGENERATION of the replay of a tape: the next segment starts, or the running one ends. -/
def Fab.regenerate (f : Fab) (key : Nat) : Fab :=
  f.runs.foldl (fun f (rn, r) =>
    (List.range r.copies.length).foldl (fun f k =>
      match ((f.run rn).copy k).replay with
      | none => f
      | some p =>
        if p.key ≠ some key then f
        else match p.seg with
          | some (lo, hi, some pr) => if f.segmentDone pr then f.finishSegment rn k lo hi pr else f
          | _ => if f.needsSegment r (r.copy k) p f.clock then f.startSegment rn k else f) f) f

/-! ### Accepting records (R296, R299, R301) -/

/-- A value of a regeneration: stored in the regeneration area of the replaying region from the overflow frame on, dropped below; a full area
diverges (R306, R308). -/
def Fab.regenValue (f : Fab) (key run copy : Nat) (e : ElemId) (x : Rec) : Fab :=
  if x.frame < f.tpOv key then f
  else
    let c := (f.run run).ctx
    match f.appendValue key (f.tpVcap key + f.tpBcap key) (f.tpRcap key) (((f.run run).copy copy).index e) (f.slot e c).tp.r x.v with
    | some (s, f) => f.modSlot e c fun t => { t with tp := { t.tp with r := s } }
    | none => f.diverge run copy e

/-- A decision of a regeneration compared with the recorded one. -/
def Fab.regenBranch (f : Fab) (key run copy : Nat) (e : ElemId) (c : Ctx) (x : Rec) : Fab :=
  let i := ((f.run run).copy copy).index e
  let off := f.tpTable key i
  let tail := f.tapeGet key (off + 6) 2
  let used := if tail = 65535 then 0 else f.chunkUsed key tail
  let s : BStream := ⟨f.tapeGet key (off + 12) 4, tail, used, f.tapeGet key (f.tpChunk key tail + 7 + used) 1⟩
  let k := (f.slot e c).tp.at_
  if f.decision key s k = some (x.v != 0) then f.modSlot e c fun t => { t with tp := { t.tp with at_ := k + 1 } }
  else f.diverge run copy e

/-- A record of a recording run stored, with its overflow; a value that an earlier frame made and that comes later is stored still (R299-R302;
log 43). -/
def Fab.storeRecord (f : Fab) (key rn k : Nat) (e : ElemId) (c : Ctx) (x : Rec) : Fab :=
  let cp := (f.run rn).copy k
  let i := cp.index e
  let s := f.slot e c
  let f := if x.p then f.tpSetFlag key 3 else f
  let f := f.modTape key fun t =>
    let ms := (mget i t.marks).getD []
    if (ms.getLast?.any fun m => decide (x.frame ≤ m.1)) then t else { t with marks := mput i (ms ++ [(x.frame, s.tp.v, s.tp.b.n)]) t.marks }
  if x.branch then
    match f.appendBranch key i s.tp.b (x.v != 0) with
    | some (b, f) => f.modSlot e c fun t => { t with tp := { t.tp with b := b } }
    | none => f.tapeTrap rn k
  else if (cp.rec_.bind (·.ovf)).any (· ≤ x.frame) then f
  else
    match f.appendValue key 0 (f.tpVcap key) i s.tp.v x.v with
    | some (v, f) => f.modSlot e c fun t => { t with tp := { t.tp with v := v } }
    | none => if f.tpPolicy key = 0 then (f.tpSetFlag key 0).tapeTrap rn k else f.tapeStop rn k x.frame

/-- The element, context and oldest record that the engine of a die accepts next. -/
def Fab.nextRecord (f : Fab) (die : Nat) : Option (ElemId × Ctx × Nat × Nat × Nat × Rec) :=
  f.elems.findSome? fun (e, x) =>
    ([0, 1, 2, 3] : List Ctx).findSome? fun c =>
      match (x.slot c).recq, (x.slot c).run with
      | q :: _, some (rn, k) =>
        match ((f.run rn).copy k).rec_ with
        | some w => if w.key / 16 = die ∧ q.due ≤ f.clock then some (e, c, rn, k, w.key, q) else none
        | none => none
      | _, _ => none

/-- One record accepted. -/
def Fab.acceptOne (f : Fab) (die : Nat) : Fab :=
  match f.nextRecord die with
  | none => f
  | some (e, c, rn, k, key, q) =>
    let f := f.modSlot e c fun s => { s with recq := s.recq.tail }
    match (f.run rn).regen with
    | some (run, copy) => if q.branch then f.regenBranch key run copy e c q else f.regenValue key run copy e q
    | none => f.storeRecord key rn k e c q

/-- Up to k records accepted. -/
def Fab.accept (f : Fab) (die : Nat) : Nat → Fab
  | 0 => f
  | n + 1 => (f.acceptOne die).accept die n

/-! ### Closing and keys (R298, R300, R313, R319) -/

/-- The 16 bytes of an element-table entry. -/
def TPos.entry (t : TPos) : List Byte :=
  leBytes 4 t.v.last.toNat ++ leBytes 2 t.v.ch ++ leBytes 2 t.b.ch ++ leBytes 4 t.v.n ++ leBytes 4 t.b.n

/-- May the recording of a region close: its window or its rows are over, every record is made and accepted? -/
def Fab.mayClose (f : Fab) (r : Run) (cp : Copy) : Bool :=
  match cp.rec_ with
  | none => false
  | some k => !k.over_ && r.regen.isNone && (cp.passed || k.stop.isSome) && cp.elems.all fun e =>
    (f.slot e r.ctx).recq.isEmpty && !((f.elem e).hold.map fun h => h.c == r.ctx && h.kind == .tapev).getD false

/-- A recording closed: element table, frames, state (R313). -/
def Fab.closeRec (f : Fab) (rn k : Nat) : Fab :=
  let r := f.run rn
  let cp := r.copy k
  match cp.rec_ with
  | none => f
  | some w =>
    let f := cp.elems.foldl (fun f e => f.tapePut w.key (f.tpTable w.key (cp.index e)) (f.slot e r.ctx).tp.entry) f
    let frames := match w.last with
      | some l => l + 1 - w.start
      | none => 0
    let f := (f.tapePut w.key 0x0C (leBytes 4 frames)).tapePut w.key 4 [1]
    (f.modTape w.key fun t => { t with openRec := false, stop := w.stop, held := cp.held, lastUse := f.clock }).modRec rn k fun w => { w with over_ := true }

/-- TAPE_CLOSE of a tape. -/
def Fab.closeTape (f : Fab) (key : Nat) : Fab :=
  f.runs.foldl (fun f (rn, r) =>
    (List.range r.copies.length).foldl (fun f k =>
      let cp := (f.run rn).copy k
      if (cp.rec_.any fun w => w.key == key) && f.mayClose (f.run rn) cp then f.closeRec rn k else f) f) f

/-- The 160 bytes of a key of a slot as it stands; the counts take in the records that wait (R300). -/
def Slot.keyBytes (s : Slot) (i : Nat) (q : KeyReq) : List Byte :=
  let waiting (b : Bool) : Nat := (s.recq.filter fun x => x.branch == b && decide (x.frame ≤ q.frame)).length
  let regs := (List.range 32).map fun k => (q.mask.getLsbD k, s.regs.get (Fin.ofNat 32 k))
  let psn := ((List.range 32).map fun k => if q.mask.getLsbD k && (s.regs.get (Fin.ofNat 32 k)).p then 2 ^ k else 0).foldl (· + ·) 0
  let fl := (if s.latch then 1 else 0) + (if s.latchP then 2 else 0) + (if s.fb.p then 4 else 0) + 8
  leBytes 4 q.frame ++ leBytes 4 (s.tp.v.n + waiting false) ++ leBytes 4 (s.tp.b.n + waiting true) ++ leBytes 4 q.mask.toNat ++ leBytes 4 psn ++
    leBytes 4 (if q.incl then fl else 0) ++ leBytes 4 (if q.incl then s.fb.v.toNat else 0) ++ leBytes 2 i ++ [0, 0] ++
    regs.flatMap fun (m, v) => leBytes 4 (if m then v.v.toNat else 0)

/-- Keys asked for whose frame has ended at an element are captured as the slot stands at the end of the tick; each is written 8 t later
(R319). -/
def Fab.captureKeys (f : Fab) (e : ElemId) (c : Ctx) : Fab :=
  let s := f.slot e c
  match s.run with
  | none => f
  | some (rn, k) =>
    let cp := (f.run rn).copy k
    let sh := s.share.getD {}
    let ended (q : KeyReq) : Bool := q.saved.isNone && decide ((q.frame + 1 + sh.stage) * sh.ii ≤ cp.g) &&
      !((f.elem e).hold.map fun h => h.c == c).getD false
    (s.keyq.filter ended).foldl (fun f _ => f.at (f.clock + 8) 0 (.tapeKeyWrite e c)) <| f.modSlot e c fun s => { s with
      keyq := s.keyq.map fun q => if ended q then { q with saved := some (s.keyBytes (cp.index e) q), due := f.clock + 8 } else q }

/-- TAPE_KEY_WRITE: a captured key written as the next entry, its value count all ones from the overflow frame on; one beyond KCAP is not
written (R300, R301). -/
def Fab.writeKey (f : Fab) (e : ElemId) (c : Ctx) : Fab :=
  match (f.slot e c).keyq.find? fun q => q.saved.isSome && decide (q.due ≤ f.clock) with
  | none => f
  | some q =>
    let f := f.modSlot e c fun s => { s with keyq := s.keyq.filter fun x => !decide (x = q) }
    let n := f.tpKeys q.tape
    if f.tpKcap q.tape ≤ n then f.tpSetFlag q.tape 1
    else
      let bs := q.saved.getD []
      let bs := if f.tpOvf q.tape ∧ f.tpOv q.tape ≤ q.frame then bs.take 4 ++ [255, 255, 255, 255] ++ bs.drop 8 else bs
      (f.tapePut q.tape (f.tpKey q.tape n) bs).tapePut q.tape 0x1E (leBytes 2 (n + 1))

/-- The keys whose frames ended on the tick that ends. -/
def Fab.keysDue (f : Fab) : Fab :=
  f.elems.foldl (fun f (e, x) => ([0, 1, 2, 3] : List Ctx).foldl (fun f c =>
    if (x.slot c).keyq.isEmpty then f else f.captureKeys e c) f) f

/-- What the tape engines owe on the tick that begins: records to accept, recordings to close, segments to start or end. -/
def Fab.tapeDue (f : Fab) : Fab :=
  let dies := (f.elems.flatMap fun (_, x) => x.slots.toList.filterMap fun s =>
    match s.recq, s.run with
    | _ :: _, some (rn, k) => ((f.run rn).copy k).rec_.map fun w => w.key / 16
    | _, _ => none).eraseDups
  let f := dies.foldl (fun f d => f.at f.clock 0 (.tapeRecordAccept d 2)) f
  f.runs.foldl (fun f (_, r) => r.copies.foldl (fun f cp =>
    let f := if f.mayClose r cp then match cp.rec_ with
        | some w => f.at f.clock 0 (.tapeClose (w.key / 16) (w.key % 16))
        | none => f
      else f
    match cp.replay with
    | some p =>
      match p.key, p.seg with
      | some key, some (_, _, some _) => f.at f.clock 0 (.tapeRegeneration (key / 16) (key % 16))
      | some key, _ => if f.needsSegment r cp p f.clock then f.at f.clock 0 (.tapeRegeneration (key / 16) (key % 16)) else f
      | none, _ => f
    | none => f) f) f

/-- The regenerations of a run ended at once: a teardown leaves the forward slots as they stand (R306). -/
def Fab.endSegments (f : Fab) (rn : Nat) : Fab :=
  (List.range (f.run rn).copies.length).foldl (fun f k =>
    let f := match ((f.run rn).copy k).replay.bind (·.seg) with
      | some (_, _, some pr) => f.endSegment pr
      | _ => f
    f.modReplay rn k fun p => { p with seg := none }) f

/-- A run's tapes when it retires: an open recording is abandoned, a replay ends and frees its tape where asked and not diverged (R309,
R315). -/
def Fab.tapesEnd (f : Fab) (rn : Nat) : Fab :=
  (List.range (f.run rn).copies.length).foldl (fun f k =>
    let f := f.abandon rn k
    match ((f.run rn).copy k).replay with
    | none => f
    | some p =>
      match p.key with
      | none => f
      | some key =>
        if p.release && !(f.tpFlags key).testBit 2 then { f with tapes := mdel key f.tapes }
        else f.modTape key fun t => { t with replayed := false }) (f.endSegments rn)

/-! ### TAPEB, TAPEE, TAPEK (R312, R313, R319) -/

/-- Do the row's rows belong to a regeneration? -/
def Row.regen (r : Row) : Bool := r.run.regen.isSome

/-- The bytes of a new tape up to its chunks: header, record list, zero element table (R298). -/
def Row.tapeHead (r : Row) (t : Nat) (list : List Nat) : List Byte :=
  let w := pword r.block
  let e := r.cp.cols * r.cp.rows
  leBytes 4 0x45504154 ++ leBytes 1 0 ++ leBytes 1 (bits (w 0) 4 1) ++ [0] ++ leBytes 1 r.copyNo ++ leBytes 1 r.sh.copies ++ leBytes 1 t ++
    leBytes 2 e ++ leBytes 4 0 ++ leBytes 4 0xFFFFFFFF ++ leBytes 2 (bits (w 1) 0 16) ++ leBytes 2 (bits (w 1) 16 16) ++
    leBytes 2 (bits (w 2) 0 16) ++ leBytes 2 (bits (w 2) 16 8) ++ leBytes 2 list.length ++ leBytes 2 0 ++ leBytes 64 r.sh.hash.toNat ++
    leBytes 4 (r.f.rowOf r.e r.c).2 ++ leBytes 2 r.sh.ii ++ leBytes 1 r.sh.stages ++ List.replicate 25 0 ++
    list.flatMap (leBytes 4 ·) ++ List.replicate (tapeH list.length e - 128 - 4 * list.length) 0

/-- TAPEB's result and effect. -/
def Row.tapeb (r : Row) (f : Fab) : Fab :=
  let w := pword r.block
  let t := bits (w 0) 0 4 + r.copyNo
  let key := 16 * r.cp.die + t
  let old := (mget key f.tapes).getD {}
  if r.regen || r.cp.rec_.isSome then r.num 3 f
  else if old.openRec || old.replayed then r.num 2 f
  else
    let list := r.cp.elems.flatMap fun e => ((f.slot e r.c).share.getD {}).recList (r.cp.index e)
    let len := tapeH list.length (r.cp.cols * r.cp.rows) + 32 * (bits (w 1) 0 16 + bits (w 1) 16 16 + bits (w 2) 0 16) + 160 * bits (w 2) 16 8
    match ({ f with tapes := mdel key f.tapes } : Fab).makeRoom (fieldNo r.cp.ox r.cp.oy) 2 (unitsAt 2 len) with
    | none => r.num 1 { f with tapes := mdel key f.tapes }
    | some (at_, f, _) =>
      let tape : Tape := { loc := at_, len := unitsAt 2 len, lastUse := r.now, openRec := true, n := r.run.n, tag := r.run.tag }
      let f := { f with tapes := mput key tape f.tapes }
      let f := (f.tapePut key 0 (r.tapeHead t list)).modRegion r.runId r.copyNo fun _ s => { s with tp := {} }
      r.num 0 (f.modRun r.runId fun x => x.modCopy r.copyNo fun k =>
        { k with rec_ := some { key := key, since := r.g, start := (r.f.rowOf r.e r.c).2 } })

/-- TAPEE's result and effect. -/
def Row.tapee (r : Row) (f : Fab) : Fab :=
  if r.regen || r.tape.isNone then r.num 1 f else r.num 0 (f.modRec r.runId r.copyNo fun k => { k with stop := some r.g })

/-- TAPEK's result and effect. -/
def Row.tapek (r : Row) (f : Fab) : Fab :=
  let w := pword r.block
  let m := bits (w 1) 0 16
  let frame := (r.f.rowOf r.e r.c).2
  match r.tape with
  | none => r.num 1 f
  | some k =>
    if r.regen || (frame + 1) % max m 1 ≠ 0 then r.num 1 f
    else
      let pending := (r.cp.elems.map fun e => (f.slot e r.c).keyq.length).foldl (· + ·) 0
      if f.tpKcap k.key ≤ f.tpKeys k.key + pending then r.num 2 (f.tpSetFlag k.key 1)
      else r.num 0 (f.modSlot r.e r.c fun s =>
        { s with keyq := s.keyq ++ [{ tape := k.key, frame := frame, mask := BitVec.ofNat 32 (w 0), incl := (w 1).testBit 16 }] })

/-! ### TAPEV (R314) -/

/-- TAPEV.v1 admitted: its checks, then a hold of one element a tick. -/
def Row.tapevTile (r : Row) (f : Fab) : Fab :=
  let b := r.block
  let n := bits (pword b 1) 0 16 + 1
  if r.tape.isNone then r.retireC (r.num 1 f)
  else match f.tileOf r.e r.c (handleOf r.a.v) with
    | none => r.retireC (r.num 2 f)
    | some t =>
      if t.rows * t.cols < t.index (bits (pword b 0) 0 12) (bits (pword b 0) 12 12) + n then r.retireC (r.num 2 f)
      else if t.lvl = 3 || t.fibre || !([Ty.fp32, .fp19, .i32, .n32].contains t.fmt) then r.retireC (r.num 3 f)
      else
        let due := r.now + 1 + (if t.lvl = 2 then 16 else 0)
        ((f.useTile r.e (handleOf r.a.v)).modSlot r.e r.c fun s => { s with tapeIdx := 0 }).hold r.e
          { r.access with kind := .tapev, aux := [0, n] } due |>.at due 0 (.scalarAccessCompletion r.e)

/-- The next element of a TAPEV.v1: it waits while 16 records wait and while the element moves to its spare (R309). -/
def Fab.tapevStep (f : Fab) (e : ElemId) (h : Hold) : Fab :=
  let r := h.row f e
  let again (f : Fab) (h : Hold) : Fab := (f.hold e h (f.clock + 1)).at (f.clock + 1) 0 (.scalarAccessCompletion e)
  match h.aux, f.tileOf e h.c h.h with
  | [i, n], some t =>
    if f.moving e || ((r.tapeAt h.g).any (·.ovf.isNone) && decide (16 ≤ r.recWaiting)) then again f h
    else
      let b := r.block
      let (r0, c0) := origin b 0
      match f.readBits e h.c h.run t ((t.index r0 c0 + i) * t.itemBits) 32 with
      | (.error _, f) => r.retireC (r.num 2 (f.unhold e))
      | (.ok (v, p), f) =>
        let f := (r.recordAt h.g h.frame false (if p then poisonOf causeUncorr e else BitVec.ofNat 32 v) p f).modSlot e h.c fun s => { s with tapeIdx := i + 1 }
        if i + 1 < n then again f { h with aux := [i + 1, n] } else r.retireC (r.num 0 (f.unhold e))
  | _, _ => r.retireC (r.num 2 (f.unhold e))

/-- TAPEV's row. -/
def Row.tapev (r : Row) : Fab :=
  if r.var = 0 then r.retireC (r.finish (r.record false r.a.v r.a.p r.taken) r.a 0 r.sl.emr)
  else match firstPoison [r.a] with
    | some p => r.addrPoison false p r.taken
    | none => r.tapevTile r.taken

/-! ### TAPER, TAPEP, TAPEC, TAPEQ (R304, R305, R315-R318) -/

/-- The header check of a replay (R304). -/
def Row.tapeMatches (r : Row) (key : Nat) (c : Ctx) (f : Fab) : Bool :=
  let w := pword r.block
  match mget key f.tapes with
  | none => false
  | some t =>
    f.tpState key == 1 && !(f.tpFlags key).testBit 2 && !(f.tpFlags key).testBit 3 && f.forwardSlot key r.cp c &&
      f.tpElems key == r.cp.cols * r.cp.rows && (w 1 == 0 || f.tpFrames key == w 1) &&
      (bits (w 2) 0 6 == 0 || f.tapeGet key 8 1 == bits (w 2) 0 6) && !t.replayed

/-- The tape position that a replay starts from (R305, R310). -/
def Fab.replayPos (f : Fab) (key i : Nat) : TPos :=
  let g (off n : Nat) : Nat := f.tapeGet key (f.tpTable key i + off) n
  let vt := g 4 2
  let bt := g 6 2
  let used (k : Nat) : Nat := if k = 65535 then 0 else f.chunkUsed key k
  { v := ⟨g 8 4, BitVec.ofNat 32 (g 0 4), vt, used vt⟩
    b := ⟨g 12 4, bt, used bt, if bt = 65535 then 0 else f.tapeGet key (f.tpChunk key bt + 7 + used bt) 1⟩ }

/-- TAPER's result and effect. -/
def Row.taper (r : Row) (f : Fab) : Fab :=
  let w := pword r.block
  let key := 16 * r.cp.die + bits (w 0) 0 4 + r.copyNo
  let slot : Fin 4 := Fin.ofNat 4 (bits (w 0) 4 2)
  let set (p : Replay) (f : Fab) : Fab := f.modRun r.runId fun x => x.modCopy r.copyNo fun k => { k with replay := some p }
  if r.cp.replay.isSome then r.num 2 f
  else if r.tapeMatches key (f.tapeSlot r.cp slot) f then
    let f := f.modTape key fun t => { t with replayed := true, lastUse := r.now }
    let f := f.modRegion r.runId r.copyNo fun e s => { s with tp := f.replayPos key (r.cp.index e) }
    r.num 0 (set { key := some key, slot := slot, release := (w 0).testBit 6, ready := r.now + 24
                   next := f.tpStart key + f.tpFrames key } f)
  else r.num 1 ((set { div := true } f).taintDiverge r.runId r.e)

/-- A poison of cause DIVERGE. -/
def divergePoison (e : ElemId) (ty : Ty) : TV := ⟨poisonOf causeDiverge e, true, ty⟩

/-- TAPEP's token and what is left of the values; nothing while the value is not ready. -/
def Row.popV (r : Row) (f : Fab) : Option (TV × Fab) :=
  let ty := tyOf (bits (pword r.block 0) 0 5)
  match r.cp.replay with
  | none => some (divergePoison r.e ty, f.taintDiverge r.runId r.e)
  | some p =>
    match p.key with
    | some key =>
      let tp := r.sl.tp
      let set (g : TPos → TPos) : Fab := f.modSlot r.e r.c fun s => { s with tp := g s.tp }
      if p.div then some (divergePoison r.e ty, f)
      else if r.now < p.ready then none
      else if tp.r.n ≠ 0 then let (v, s) := f.popValue key tp.r; some (⟨v, false, ty⟩, set fun t => { t with r := s })
      else if f.tpOvf key ∧ f.tpOv key < p.next then none
      else if tp.v.n ≠ 0 then let (v, s) := f.popValue key tp.v; some (⟨v, false, ty⟩, set fun t => { t with v := s })
      else some (divergePoison r.e ty, f.diverge r.runId r.copyNo r.e)
    | none => some (divergePoison r.e ty, f)

/-- TAPEP's attempt: it also needs room in the TR lane. -/
def Row.tapep (r : Row) : Option Fab :=
  if r.planDefault ≠ .go ∨ 2 ≤ (r.sl.lane laneTR).occ r.now then none
  else (r.popV r.taken).map fun (t, f) =>
    let f := f.pushPort r.e r.c laneTR { v := t.v, p := t.p, ty := t.ty }
    let tp := (f.slot r.e r.c).tp
    r.retireC (r.num (tp.v.n + tp.r.n) f)

/-- TAPEC's attempt. -/
def Row.tapec (r : Row) : Option Fab :=
  let ty := r.resTy .n32
  let out : Option (TV × Fab) :=
    match r.cp.replay with
    | none => some (divergePoison r.e ty, r.taken.taintDiverge r.runId r.e)
    | some p =>
      match p.key with
      | some key =>
        let b := r.sl.tp.b
        if p.div then some (divergePoison r.e ty, r.taken)
        else if r.now < p.ready then none
        else if b.n = 0 then some (divergePoison r.e ty, r.taken.diverge r.runId r.copyNo r.e)
        else
          let (v, s) := r.f.popBranch key b
          some (⟨bit 32 v, false, ty⟩, r.taken.modSlot r.e r.c fun t => { t with tp := { t.tp with b := s } })
      | none => some (divergePoison r.e ty, r.taken)
  if r.planDefault ≠ .go then none else out.map fun (t, f) => r.retireC (r.give t f)

/-- The value that TAPEQ selects. -/
def Row.tapeq (r : Row) : Nat :=
  let tp := r.sl.tp
  let key := match r.cp.replay with
    | some p => p.key
    | none => r.cp.rec_.map Recording.key
  let div := (r.cp.replay.map (·.div)).getD false
  let get (g : Nat → Nat) : Nat := (key.map g).getD 0
  let some_ := r.cp.replay.isSome || r.cp.rec_.isSome
  let f := r.f
  if !some_ then 0
  else match r.sub with
    | 0 => tp.v.n + tp.r.n
    | 1 => tp.b.n
    | 2 =>
      let st := match r.cp.replay with
        | some p => if p.key.isSome then 3 else 0
        | none => get fun k => if f.tpState k = 0 then 1 else if f.tpState k = 1 then 2 else 4
      let fl := get f.tpFlags
      let b (i n : Nat) : Nat := if fl.testBit i then 2 ^ n else 0
      st + (get f.tpPolicy) * 8 + b 0 4 + (if fl.testBit 2 || div then 32 else 0) + b 3 6 + b 1 7 + (get (· % 16)) * 2 ^ 8 + (get f.tpKeys) * 2 ^ 16
    | 3 => get f.tpOv
    | 4 => (r.cp.replay.map (·.regens)).getD 0
    | _ => r.sl.tapeIdx

/-! ### The instructions -/

/-- A row of chapter 12 that completes as it issues. -/
def tapeRow (op : BitVec 24) (wr : Wires) (g : Row → Fab → Fab) : State → Host.Outcome State Fault Refusal :=
  oxRow op wr fun r => g r r.taken

/-- TAPEB (R312). -/
def execTapeb (b : BitVec 6) (wr : Wires) (s : State) : Host.Outcome State Fault Refusal :=
  tapeRow (opWord (.tapeb b wr)) wr Row.tapeb s

/-- TAPEE (R313). -/
def execTapee (wr : Wires) (s : State) : Host.Outcome State Fault Refusal :=
  tapeRow (opWord (.tapee wr)) wr Row.tapee s

/-- TAPEV (R314). -/
def execTapev (b : BitVec 6) (v : BitVec 1) (wr : Wires) (s : State) : Host.Outcome State Fault Refusal :=
  jobRowOf (opWord (.tapev b v wr)) wr Row.tapev s

/-- TAPER (R304, R315). -/
def execTaper (b : BitVec 6) (wr : Wires) (s : State) : Host.Outcome State Fault Refusal :=
  tapeRow (opWord (.taper b wr)) wr Row.taper s

/-- TAPEP (R316). -/
def execTapep (b : BitVec 6) (wr : Wires) (s : State) : Host.Outcome State Fault Refusal :=
  ocRow (opWord (.tapep b wr)) wr Row.tapep s

/-- TAPEC (R317). -/
def execTapec (wr : Wires) (s : State) : Host.Outcome State Fault Refusal :=
  ocRow (opWord (.tapec wr)) wr Row.tapec s

/-- TAPEQ (R318). -/
def execTapeq (u : BitVec 4) (wr : Wires) (s : State) : Host.Outcome State Fault Refusal :=
  tapeRow (opWord (.tapeq u wr)) wr (fun r f => r.num r.tapeq f) s

/-- TAPEK (R319). -/
def execTapek (b : BitVec 6) (wr : Wires) (s : State) : Host.Outcome State Fault Refusal :=
  tapeRow (opWord (.tapek b wr)) wr Row.tapek s

/-- TAPE_RECORD_ACCEPT (R296): the engine of a die accepts up to k records. -/
def execTapeRecordAccept (die : Nat) (k : Nat) (s : State) : Host.Outcome State Fault Refusal :=
  lift (fun f => f.accept die k) s

/-- TAPE_KEY_WRITE (R300, R319). -/
def execTapeKeyWrite (e : ElemId) (c : Ctx) (s : State) : Host.Outcome State Fault Refusal :=
  lift (fun f => f.writeKey e c) s

/-- TAPE_CLOSE (R313). -/
def execTapeClose (die : Nat) (k : Nat) (s : State) : Host.Outcome State Fault Refusal :=
  lift (fun f => f.closeTape (16 * die + k)) s

/-- TAPE_REGENERATION (R306). -/
def execTapeRegeneration (die : Nat) (k : Nat) (s : State) : Host.Outcome State Fault Refusal :=
  lift (fun f => f.regenerate (16 * die + k)) s

/-- SCALAR_ACCESS_COMPLETION (R177, R191, R192, R314). -/
def execScalarAccessCompletion (e : ElemId) (s : State) : Host.Outcome State Fault Refusal :=
  lift (fun f =>
    match (f.elem e).hold with
    | some h => if h.kind = .tapev then f.tapevStep e h else f.completeAccess e
    | none => f) s

end Sys2Proof.Machine
end

