-- ==== Sys2Proof/Machine/Integer.lean ====
section
/-! DEFINITION. The integer and bit instructions of elements, and their results on words of any width, which the task core
shares (spec 04_arithmetic R90-R93). -/

namespace Sys2Proof.Machine

/-! ### Results on N-bit words (R93) -/

/-- The high N bits of the signed product. -/
def mulHigh {n : Nat} (a b : BitVec n) : BitVec n := BitVec.ofInt n (a.toInt * b.toInt / 2 ^ n)
/-- The high N bits of the unsigned product. -/
def mulHighN {n : Nat} (a b : BitVec n) : BitVec n := BitVec.ofNat n (a.toNat * b.toNat / 2 ^ n)
/-- Signed minimum. -/
def minS {n : Nat} (a b : BitVec n) : BitVec n := if a.toInt ≤ b.toInt then a else b
/-- Signed maximum. -/
def maxS {n : Nat} (a b : BitVec n) : BitVec n := if a.toInt ≤ b.toInt then b else a
/-- Unsigned minimum. -/
def minU {n : Nat} (a b : BitVec n) : BitVec n := if a.toNat ≤ b.toNat then a else b
/-- Unsigned maximum. -/
def maxU {n : Nat} (a b : BitVec n) : BitVec n := if a.toNat ≤ b.toNat then b else a
/-- Magnitude of the signed value; the most negative value stays. -/
def absV {n : Nat} (a : BitVec n) : BitVec n := if a.toInt < 0 then -a else a
/-- Leading zero bits; N for 0. -/
def clzV {n : Nat} (a : BitVec n) : BitVec n := BitVec.ofNat n (if a.toNat = 0 then n else n - 1 - a.toNat.log2)
/-- The number of 1 bits. -/
def popcV {n : Nat} (a : BitVec n) : BitVec n := BitVec.ofNat n ((List.range n).filter fun k => a.getLsbD k).length
/-- Shifts and rotation by b mod N. -/
def shlV {n : Nat} (a b : BitVec n) : BitVec n := a <<< (b.toNat % n)
def shrV {n : Nat} (a b : BitVec n) : BitVec n := a >>> (b.toNat % n)
def shaV {n : Nat} (a b : BitVec n) : BitVec n := a.sshiftRight (b.toNat % n)
def rotV {n : Nat} (a b : BitVec n) : BitVec n := a.rotateRight (b.toNat % n)
/-- Bits above p = b mod N replaced by bit p. -/
def sextV {n : Nat} (a b : BitVec n) : BitVec n :=
  let hi := BitVec.allOnes n <<< (b.toNat % n + 1)
  if a.getLsbD (b.toNat % n) then a ||| hi else a &&& ~~~hi
/-- The bit field of the descriptor b, whose position and width fields are k bits wide (5 on elements, 6 on Pommel). -/
def bfxV {n : Nat} (k : Nat) (a b : BitVec n) : BitVec n :=
  (a >>> bits b.toNat 0 k) &&& BitVec.ofNat n (2 ^ (bits b.toNat k k + 1) - 1)
/-- rd with the bit field of the descriptor replaced by the low bits of a. -/
def bfiV {n : Nat} (k : Nat) (a b d : BitVec n) : BitVec n :=
  let mask : BitVec n := BitVec.ofNat n (2 ^ (bits b.toNat k k + 1) - 1) <<< bits b.toNat 0 k
  (d &&& ~~~mask) ||| ((a <<< bits b.toNat 0 k) &&& mask)
/-- 1 or 0. -/
def boolV {n : Nat} (p : Bool) : BitVec n := bit n p

/-! ### Saturating sums on elements (R93) -/

/-- An operand of ADDS or SUBS as the value of its own type: unsigned for an n-type and hdl, signed otherwise. -/
def addsValue (t : TV) : Int :=
  match t.ty with
  | .n32 | .n16 | .n8 | .n4 | .hdl => (t.v.toNat : Int)
  | _ => t.v.toInt

/-- A value clamped to the range of the result type; a clamp sets SAT. R93 gives no range for a result of type hdl or ctl: the model's
choice is 0 to 2^32 − 1 for hdl and that of i32 for ctl (log 51). -/
def satResult (ty : Ty) (v : Int) : AluOut :=
  let (lo, hi) := (rangeOf ty).getD (if ty = .hdl then (0, 4294967295) else (-2147483648, 2147483647))
  { v := BitVec.ofInt 32 (clampInt lo hi v), fl := { sat := decide (v < lo ∨ hi < v) } }

/-! ### The instructions -/

/-- NOP (R93): no result; the row issues and changes nothing. -/
def execNop (t : BitVec 1) (wr : Wires) (s : State) : Host.Outcome State Fault Refusal :=
  lift (fun f => let r := f.rowCtx (opWord (.nop t wr)) wr; r.issue r.planDefault r.taken) s

/-- The result of ADD (R93). -/
def addSem (x : AluIn) : AluOut := plain (x.a.v + x.b.v)

/-- ADD (R93): a + b. -/
def execAdd (t : BitVec 1) (i : BitVec 10) (wr : Wires) (s : State) : Host.Outcome State Fault Refusal :=
  aluRow (opWord (.add t i wr)) wr .ab .i32 addSem s

/-- The result of SUB (R93). -/
def subSem (x : AluIn) : AluOut := plain (x.a.v - x.b.v)

/-- SUB (R93): a − b. -/
def execSub (t : BitVec 1) (i : BitVec 10) (wr : Wires) (s : State) : Host.Outcome State Fault Refusal :=
  aluRow (opWord (.sub t i wr)) wr .ab .i32 subSem s

/-- The result of ADDI (R93). -/
def addiSem (x : AluIn) : AluOut := plain (x.a.v + (fld x.op 0 10).signExtend 32)

/-- ADDI (R93): a + sext(imm10). -/
def execAddi (t : BitVec 1) (i : BitVec 10) (wr : Wires) (s : State) : Host.Outcome State Fault Refusal :=
  aluRow (opWord (.addi t i wr)) wr .a .i32 addiSem s

/-- The result of MUL (R93). -/
def mulSem (x : AluIn) : AluOut := plain (x.a.v * x.b.v)

/-- MUL (R93): the low 32 bits of the product. -/
def execMul (t : BitVec 1) (i : BitVec 10) (wr : Wires) (s : State) : Host.Outcome State Fault Refusal :=
  aluRow (opWord (.mul t i wr)) wr .ab .i32 mulSem s

/-- The result of MULH (R93). -/
def mulhSem (x : AluIn) : AluOut := plain (mulHigh x.a.v x.b.v)

/-- MULH (R93): the high bits of the signed product. -/
def execMulh (t : BitVec 1) (i : BitVec 10) (wr : Wires) (s : State) : Host.Outcome State Fault Refusal :=
  aluRow (opWord (.mulh t i wr)) wr .ab .i32 mulhSem s

/-- The result of MULHN (R93). -/
def mulhnSem (x : AluIn) : AluOut := plain (mulHighN x.a.v x.b.v)

/-- MULHN (R93): the high bits of the unsigned product. -/
def execMulhn (t : BitVec 1) (i : BitVec 10) (wr : Wires) (s : State) : Host.Outcome State Fault Refusal :=
  aluRow (opWord (.mulhn t i wr)) wr .ab .i32 mulhnSem s

/-- The result of MIN (R93). -/
def minSem (x : AluIn) : AluOut := plain (minS x.a.v x.b.v)

/-- MIN (R93): signed minimum. -/
def execMin (t : BitVec 1) (i : BitVec 10) (wr : Wires) (s : State) : Host.Outcome State Fault Refusal :=
  aluRow (opWord (.min t i wr)) wr .ab .i32 minSem s

/-- The result of MAX (R93). -/
def maxSem (x : AluIn) : AluOut := plain (maxS x.a.v x.b.v)

/-- MAX (R93): signed maximum. -/
def execMax (t : BitVec 1) (i : BitVec 10) (wr : Wires) (s : State) : Host.Outcome State Fault Refusal :=
  aluRow (opWord (.max t i wr)) wr .ab .i32 maxSem s

/-- The result of MINN (R93). -/
def minnSem (x : AluIn) : AluOut := plain (minU x.a.v x.b.v)

/-- MINN (R93): unsigned minimum. -/
def execMinn (t : BitVec 1) (i : BitVec 10) (wr : Wires) (s : State) : Host.Outcome State Fault Refusal :=
  aluRow (opWord (.minn t i wr)) wr .ab .i32 minnSem s

/-- The result of MAXN (R93). -/
def maxnSem (x : AluIn) : AluOut := plain (maxU x.a.v x.b.v)

/-- MAXN (R93): unsigned maximum. -/
def execMaxn (t : BitVec 1) (i : BitVec 10) (wr : Wires) (s : State) : Host.Outcome State Fault Refusal :=
  aluRow (opWord (.maxn t i wr)) wr .ab .i32 maxnSem s

/-- The result of ABS (R93). -/
def absSem (x : AluIn) : AluOut := plain (absV x.a.v)

/-- ABS (R93): the magnitude of a. -/
def execAbs (t : BitVec 1) (i : BitVec 10) (wr : Wires) (s : State) : Host.Outcome State Fault Refusal :=
  aluRow (opWord (.abs t i wr)) wr .a .i32 absSem s

/-- The result of NEG (R93). -/
def negSem (x : AluIn) : AluOut := plain (-x.a.v)

/-- NEG (R93): −a. -/
def execNeg (t : BitVec 1) (i : BitVec 10) (wr : Wires) (s : State) : Host.Outcome State Fault Refusal :=
  aluRow (opWord (.neg t i wr)) wr .a .i32 negSem s

/-- The result of AND (R93). -/
def andSem (x : AluIn) : AluOut := plain (x.a.v &&& x.b.v)

/-- AND (R93). -/
def execAnd (t : BitVec 1) (i : BitVec 10) (wr : Wires) (s : State) : Host.Outcome State Fault Refusal :=
  aluRow (opWord (.and t i wr)) wr .ab .i32 andSem s

/-- The result of OR (R93). -/
def orSem (x : AluIn) : AluOut := plain (x.a.v ||| x.b.v)

/-- OR (R93). -/
def execOr (t : BitVec 1) (i : BitVec 10) (wr : Wires) (s : State) : Host.Outcome State Fault Refusal :=
  aluRow (opWord (.or t i wr)) wr .ab .i32 orSem s

/-- The result of XOR (R93). -/
def xorSem (x : AluIn) : AluOut := plain (x.a.v ^^^ x.b.v)

/-- XOR (R93). -/
def execXor (t : BitVec 1) (i : BitVec 10) (wr : Wires) (s : State) : Host.Outcome State Fault Refusal :=
  aluRow (opWord (.xor t i wr)) wr .ab .i32 xorSem s

/-- The result of ANDN (R93). -/
def andnSem (x : AluIn) : AluOut := plain (x.a.v &&& ~~~x.b.v)

/-- ANDN (R93): a and not b. -/
def execAndn (t : BitVec 1) (i : BitVec 10) (wr : Wires) (s : State) : Host.Outcome State Fault Refusal :=
  aluRow (opWord (.andn t i wr)) wr .ab .i32 andnSem s

/-- The result of NOT (R93). -/
def notSem (x : AluIn) : AluOut := plain (~~~x.a.v)

/-- NOT (R93). -/
def execNot (t : BitVec 1) (i : BitVec 10) (wr : Wires) (s : State) : Host.Outcome State Fault Refusal :=
  aluRow (opWord (.not t i wr)) wr .a .i32 notSem s

/-- The result of SHL (R93). -/
def shlSem (x : AluIn) : AluOut := plain (shlV x.a.v x.b.v)

/-- SHL (R93): left shift by b mod 32. -/
def execShl (t : BitVec 1) (i : BitVec 10) (wr : Wires) (s : State) : Host.Outcome State Fault Refusal :=
  aluRow (opWord (.shl t i wr)) wr .ab .i32 shlSem s

/-- The result of SHR (R93). -/
def shrSem (x : AluIn) : AluOut := plain (shrV x.a.v x.b.v)

/-- SHR (R93): logical right shift by b mod 32. -/
def execShr (t : BitVec 1) (i : BitVec 10) (wr : Wires) (s : State) : Host.Outcome State Fault Refusal :=
  aluRow (opWord (.shr t i wr)) wr .ab .i32 shrSem s

/-- The result of SHA (R93). -/
def shaSem (x : AluIn) : AluOut := plain (shaV x.a.v x.b.v)

/-- SHA (R93): arithmetic right shift by b mod 32. -/
def execSha (t : BitVec 1) (i : BitVec 10) (wr : Wires) (s : State) : Host.Outcome State Fault Refusal :=
  aluRow (opWord (.sha t i wr)) wr .ab .i32 shaSem s

/-- The result of ROT (R93). -/
def rotSem (x : AluIn) : AluOut := plain (rotV x.a.v x.b.v)

/-- ROT (R93): right rotation by b mod 32. -/
def execRot (t : BitVec 1) (i : BitVec 10) (wr : Wires) (s : State) : Host.Outcome State Fault Refusal :=
  aluRow (opWord (.rot t i wr)) wr .ab .i32 rotSem s

/-- The result of CLZ (R93). -/
def clzSem (x : AluIn) : AluOut := plain (clzV x.a.v)

/-- CLZ (R93): leading zero bits. -/
def execClz (t : BitVec 1) (i : BitVec 10) (wr : Wires) (s : State) : Host.Outcome State Fault Refusal :=
  aluRow (opWord (.clz t i wr)) wr .a .i32 clzSem s

/-- The result of POPC (R93). -/
def popcSem (x : AluIn) : AluOut := plain (popcV x.a.v)

/-- POPC (R93): the number of 1 bits. -/
def execPopc (t : BitVec 1) (i : BitVec 10) (wr : Wires) (s : State) : Host.Outcome State Fault Refusal :=
  aluRow (opWord (.popc t i wr)) wr .a .i32 popcSem s

/-- The result of CMPEQ (R93). -/
def cmpeqSem (x : AluIn) : AluOut := plain (boolV (x.a.v == x.b.v))

/-- CMPEQ (R93). -/
def execCmpeq (t : BitVec 1) (i : BitVec 10) (wr : Wires) (s : State) : Host.Outcome State Fault Refusal :=
  aluRow (opWord (.cmpeq t i wr)) wr .ab .i32 cmpeqSem s

/-- The result of CMPNE (R93). -/
def cmpneSem (x : AluIn) : AluOut := plain (boolV (x.a.v != x.b.v))

/-- CMPNE (R93). -/
def execCmpne (t : BitVec 1) (i : BitVec 10) (wr : Wires) (s : State) : Host.Outcome State Fault Refusal :=
  aluRow (opWord (.cmpne t i wr)) wr .ab .i32 cmpneSem s

/-- The result of CMPLT (R93). -/
def cmpltSem (x : AluIn) : AluOut := plain (boolV (x.a.v.slt x.b.v))

/-- CMPLT (R93): signed less than. -/
def execCmplt (t : BitVec 1) (i : BitVec 10) (wr : Wires) (s : State) : Host.Outcome State Fault Refusal :=
  aluRow (opWord (.cmplt t i wr)) wr .ab .i32 cmpltSem s

/-- The result of CMPLE (R93). -/
def cmpleSem (x : AluIn) : AluOut := plain (boolV (x.a.v.sle x.b.v))

/-- CMPLE (R93): signed at most. -/
def execCmple (t : BitVec 1) (i : BitVec 10) (wr : Wires) (s : State) : Host.Outcome State Fault Refusal :=
  aluRow (opWord (.cmple t i wr)) wr .ab .i32 cmpleSem s

/-- The result of CMPLTN (R93). -/
def cmpltnSem (x : AluIn) : AluOut := plain (boolV (x.a.v.ult x.b.v))

/-- CMPLTN (R93): unsigned less than. -/
def execCmpltn (t : BitVec 1) (i : BitVec 10) (wr : Wires) (s : State) : Host.Outcome State Fault Refusal :=
  aluRow (opWord (.cmpltn t i wr)) wr .ab .i32 cmpltnSem s

/-- The result of CMPLEN (R93). -/
def cmplenSem (x : AluIn) : AluOut := plain (boolV (x.a.v.ule x.b.v))

/-- CMPLEN (R93): unsigned at most. -/
def execCmplen (t : BitVec 1) (i : BitVec 10) (wr : Wires) (s : State) : Host.Outcome State Fault Refusal :=
  aluRow (opWord (.cmplen t i wr)) wr .ab .i32 cmplenSem s

/-- The result of MOVI (R93). -/
def moviSem (x : AluIn) : AluOut := plain ((fld x.op 0 16).signExtend 32)

/-- MOVI (R93): sext(imm16), raw bits to any scalar type (R92). -/
def execMovi (i : BitVec 16) (wr : Wires) (s : State) : Host.Outcome State Fault Refusal :=
  aluRow (opWord (.movi i wr)) wr .z .i32 moviSem s

/-- The result of MOVHI (R93). -/
def movhiSem (x : AluIn) : AluOut := plain (fld x.op 0 16 ++ x.a.v.extractLsb' 0 16)

/-- MOVHI (R93): imm16 above the low half of a. -/
def execMovhi (i : BitVec 16) (wr : Wires) (s : State) : Host.Outcome State Fault Refusal :=
  aluRow (opWord (.movhi i wr)) wr .a .i32 movhiSem s

/-- The result of MOV (R93). -/
def movSem (x : AluIn) : AluOut := plain x.a.v

/-- MOV (R90, R93): the result is a. -/
def execMov (t : BitVec 1) (i : BitVec 9) (wr : Wires) (s : State) : Host.Outcome State Fault Refusal :=
  aluRow (opWord (.mov t i wr)) wr .a .i32 movSem s

/-- The result of SEXT (R93). -/
def sextSem (x : AluIn) : AluOut := plain (sextV x.a.v x.b.v)

/-- SEXT (R93): bits above b mod 32 become that bit. -/
def execSext (t : BitVec 1) (i : BitVec 10) (wr : Wires) (s : State) : Host.Outcome State Fault Refusal :=
  aluRow (opWord (.sext t i wr)) wr .ab .i32 sextSem s

/-- The result of BFX (R93). -/
def bfxSem (x : AluIn) : AluOut := plain (bfxV 5 x.a.v x.b.v)

/-- BFX (R93): extract a bit field. -/
def execBfx (t : BitVec 1) (i : BitVec 10) (wr : Wires) (s : State) : Host.Outcome State Fault Refusal :=
  aluRow (opWord (.bfx t i wr)) wr .ab .i32 bfxSem s

/-- The result of BFI (R93). -/
def bfiSem (x : AluIn) : AluOut := plain (bfiV 5 x.a.v x.b.v x.d.v)

/-- BFI (R93): insert a bit field into rd. -/
def execBfi (t : BitVec 1) (i : BitVec 10) (wr : Wires) (s : State) : Host.Outcome State Fault Refusal :=
  aluRow (opWord (.bfi t i wr)) wr .abd .i32 bfiSem s

/-- The result of ADDS (R93). -/
def addsSem (x : AluIn) : AluOut := satResult x.ty (addsValue x.a + addsValue x.b)

/-- ADDS (R93): the exact sum clamped to the result type. -/
def execAdds (t : BitVec 1) (i : BitVec 10) (wr : Wires) (s : State) : Host.Outcome State Fault Refusal :=
  aluRow (opWord (.adds t i wr)) wr .ab .i32 addsSem s

/-- The result of SUBS (R93). -/
def subsSem (x : AluIn) : AluOut := satResult x.ty (addsValue x.a - addsValue x.b)

/-- SUBS (R93): the exact difference clamped to the result type. -/
def execSubs (t : BitVec 1) (i : BitVec 10) (wr : Wires) (s : State) : Host.Outcome State Fault Refusal :=
  aluRow (opWord (.subs t i wr)) wr .ab .i32 subsSem s

/-- SEL's result (R86, R93, R145): the operand that the control latch selects, with its own poison; a poisoned latch takes B and
gives poison. -/
def selResult (r : Row) (x : AluIn) : TV :=
  if r.sl.latchP then ⟨if x.b.p then x.b.v else poisonOf causeCtlpoison r.e, true, x.ty⟩
  else
    let t := if r.sl.latch then x.a else x.b
    ⟨t.v, t.p, x.ty⟩

/-- SEL (R93): the control latch chooses a or b. -/
def execSel (t : BitVec 1) (i : BitVec 10) (wr : Wires) (s : State) : Host.Outcome State Fault Refusal :=
  lift (fun f =>
    let r := f.rowCtx (opWord (.sel t i wr)) wr
    r.issue r.planDefault (r.finish r.taken (selResult r (r.aluIn .i32)) 0 r.sl.emr)) s

/-- MOV special read (R90): the result is EMR (sel 0) or ESR (sel 1) as the row finds it. -/
def execMovSpecialRead (t : BitVec 1) (s : BitVec 1) (wr : Wires) (st : State) : Host.Outcome State Fault Refusal :=
  lift (fun f =>
    let r := f.rowCtx (opWord (.movSpecialRead t s wr)) wr
    r.issue r.planDefault
      (r.finish r.taken ⟨if s == 0 then r.sl.emr else r.sl.esr, false, r.resTy .i32⟩ 0 r.sl.emr)) st

/-- A special write (R87, R88, R90): the result is the register before it; EMR takes its RW fields, ESR loses the flags that are 1
in the value; poison passes on and writes nothing. -/
def Row.writeSpecial (r : Row) (esr : Bool) : Fab :=
  let ty := r.resTy .i32
  if r.a.p then r.finish r.taken ⟨r.a.v, true, ty⟩ 0 r.sl.emr
  else if esr then
    (r.finish r.taken ⟨r.sl.esr, false, ty⟩ 0 r.sl.emr).modSlot r.e r.c fun s => { s with esr := esrWrite s.esr r.a.v }
  else
    (r.finish r.taken ⟨r.sl.emr, false, ty⟩ 0 (emrWrite r.a.v)).modSlot r.e r.c fun s =>
      { s with oldL := (r.now + 1, lfsrOf r.sl.emr) }

/-- MOV special write (R90). -/
def execMovSpecialWrite (t : BitVec 1) (s : BitVec 1) (wr : Wires) (st : State) : Host.Outcome State Fault Refusal :=
  lift (fun f => let r := f.rowCtx (opWord (.movSpecialWrite t s wr)) wr; r.issue r.planDefault (r.writeSpecial (s == 1))) st

end Sys2Proof.Machine
end

