-- ==== Sys2Proof/Machine/TaskCore.lean ====
section
/-! DEFINITION. The task core: registers, integer instructions, branches, loads and stores of task SRAM, the system I/O space,
channels, timers, crypto requests, system queries (spec 04_arithmetic R91-R94, 05_taskcore R109-R129, 15_package R375). -/

namespace Sys2Proof.Machine

/-! ### Registers and progress (R94, R113, R120) -/

/-- A register; k0 reads as zero (R40). -/
def Pommel.r (p : Pommel) (i : BitVec 5) : W64 := if i = 0 then 0 else p.k.get i.toFin

/-- A register written, its result available after a latency; writes of k0 are discarded. -/
def Pommel.set (p : Pommel) (i : BitVec 5) (v : W64) (lat : Nat) : Pommel :=
  if i = 0 then p else { p with k := p.k.set i.toFin v, ready := p.ready.set i.toFin (p.next + lat) }

/-- The next instruction in order, one cycle later. -/
def Pommel.advance (p : Pommel) : Pommel := { p with pc := p.pc + 4, next := p.next + 1, first := false }

/-- A jump, which takes 3 c (R120). -/
def Pommel.jump (p : Pommel) (pc : W64) : Pommel := { p with pc := pc, next := p.next + 3, first := false }

/-- The fabric with Pommel changed. -/
def Fab.modPom (f : Fab) (g : Pommel → Pommel) : Fab := { f with pom := g f.pom }

/-- An instruction that only advances. -/
def Fab.taskNext (f : Fab) : Fab := f.modPom Pommel.advance
/-- An instruction with a result in kd. -/
def Fab.taskRet (f : Fab) (d : BitVec 5) (v : W64) (lat : Nat) : Fab := f.modPom fun p => (p.set d v lat).advance

/-- A computation of kd from two registers with a latency (R93, R94). -/
def taskAlu (d : BitVec 5) (lat : Nat) (v : Pommel → W64) : State → Host.Outcome State Fault Refusal :=
  lift fun f => f.taskRet d (v f.pom) lat

/-- A division: 36 c, and no other division issues within 36 c (R94). -/
def taskDiv (d : BitVec 5) (v : Pommel → W64) : State → Host.Outcome State Fault Refusal :=
  lift fun f => (f.taskRet d (v f.pom) 36).modPom fun p => { p with div := f.pom.next + 36 }

/-- Quotient and remainder as R93 states them. -/
def divS (a b : W64) : W64 := if b = 0 then BitVec.allOnes 64 else BitVec.ofInt 64 (a.toInt.tdiv b.toInt)
def divU (a b : W64) : W64 := if b = 0 then BitVec.allOnes 64 else BitVec.ofNat 64 (a.toNat / b.toNat)
def remS (a b : W64) : W64 := if b = 0 then a else BitVec.ofInt 64 (a.toInt - b.toInt * a.toInt.tdiv b.toInt)
def remU (a b : W64) : W64 := if b = 0 then a else BitVec.ofNat 64 (a.toNat % b.toNat)

/-- A signed 64-bit value clamped. -/
def sat64 (v : Int) : W64 := BitVec.ofInt 64 (clampInt (-(2 ^ 63)) (2 ^ 63 - 1) v)

/-- The target of a TB branch (R40, R120). -/
def Pommel.target (p : Pommel) (off : BitVec 19) : W64 := p.pc + 4 * off.signExtend 64

/-! ### Addresses (R109, R121) -/

/-- The address of a TI instruction. -/
def Pommel.addr (p : Pommel) (a : BitVec 5) (i : BitVec 14) : W64 := p.r a + i.signExtend 64

/-- Do n bytes at an address lie in the user region of task SRAM? -/
def inUser (a : W64) (n : Nat) : Bool := decide (a.toNat + n ≤ 0x38000)

/-- Has the word an uncorrectable error (R116)? -/
def Fab.uncorr (f : Fab) (a : Nat) : Bool := f.tag a / 4 % 2 == 1

/-- A single-bit error of a task SRAM word fixed in place and counted (R109, R122). -/
def Fab.fixSram (f : Fab) (a : Nat) : Fab :=
  if f.tag (sramBase + a) / 8 % 2 = 1 then
    (f.setTag (sramBase + a) (f.tag (sramBase + a) % 8)).modPom fun p => { p with corrected := min (2 ^ 32 - 1) (p.corrected + 1) }
  else f

/-- Words of task SRAM read: their single-bit errors fixed (R109). -/
def Fab.fixSrams (f : Fab) (a n : Nat) : Fab := (List.range n).foldl (fun (f : Fab) i => f.fixSram (a + 8 * i)) f

/-! ### System I/O space (R126-R129, R375) -/

/-- Temperature, voltage and process sensors of a block (R126). -/
def sensorCounts (b : Nat) : Nat × Nat × Nat :=
  if b < 6 then (12, 8, 4) else if b < 8 then (6, 6, 2) else if b = 8 then (4, 6, 2) else (8, 0, 0)

/-- A block's registers. -/
def Fab.block (f : Fab) (b : Nat) : Block := f.blocks.get (Fin.ofNat 10 b)
/-- The fabric with a block changed. -/
def Fab.modBlock (f : Fab) (b : Nat) (g : Block → Block) : Fab :=
  { f with blocks := f.blocks.set (Fin.ofNat 10 b) (g (f.block b)) }

/-- An ingress port's registers (R375). -/
def Fab.ing (f : Fab) (p : Nat) : Ingress := f.ingress.get (Fin.ofNat 20 p)
/-- The fabric with an ingress port changed. -/
def Fab.modIng (f : Fab) (p : Nat) (g : Ingress → Ingress) : Fab :=
  { f with ingress := f.ingress.set (Fin.ofNat 20 p) (g (f.ing p)) }

/-- A register of the system I/O space; nothing where the map lists none (R126). -/
def Fab.ioRead (f : Fab) (a : Nat) : Option W64 :=
  let b := a / 2 ^ 16
  let o := a % 2 ^ 16
  let (nt, nv, np) := sensorCounts b
  let blk := f.block b
  let sensor (base n : Nat) (xs : List W32) : Option W64 :=
    if base ≤ o ∧ o < base + 8 * n ∧ o % 8 = 0 then some ((xs.getD ((o - base) / 8) 0).zeroExtend 64) else none
  if 2 ^ 16 * 10 ≤ a then none
  else if o = 0 then some (BitVec.ofNat 64 (np * 2 ^ 24 + nv * 2 ^ 16 + nt * 2 ^ 8 + b))
  else match sensor 0x100 nt blk.temp, sensor 0x200 nv blk.volt, sensor 0x300 np blk.proc with
    | some v, _, _ | _, some v, _ | _, _, some v => some v
    | _, _, _ =>
      if o = 0x400 ∧ b < 6 then some (BitVec.ofNat 64 blk.lvl)
      else if o = 0x408 ∧ b < 6 then some (BitVec.ofNat 64 blk.floor)
      else if o = 0x410 then some (bit 64 blk.trip <<< 1 ||| bit 64 blk.alrt)
      else if o = 0x418 then some (blk.alertcfg.zeroExtend 64)
      else if o = 0x420 then some (blk.tripcfg.zeroExtend 64)
      else if b = 8 ∧ 0x1000 ≤ o ∧ o < 0x1000 + 32 * 20 ∧ o % 8 = 0 then
        let p := (o - 0x1000) / 32
        let x := f.ing p
        some (match o % 32 with
          | 0 => x.base.zeroExtend 64
          | 8 => BitVec.ofNat 64 (x.nslot + x.ssize * 2 ^ 16 + (if x.en then 2 ^ 32 else 0))
          | 16 => BitVec.ofNat 64 (x.drop + x.next * 2 ^ 32)
          | _ => (Config.ingressLatency p).zeroExtend 64)
      else none

/-- Latency of an I/O access by block (R126). -/
def ioLatency (a : Nat) : Nat := if a / 2 ^ 16 = 8 then 6 else 24

/-- The check of an I/O address: misaligned, or not of the map (R121, R126). -/
def Fab.ioCheck (f : Fab) (a : W64) : Option Nat :=
  if a.toNat % 8 ≠ 0 then some trapMisalign
  else if 2 ^ 24 ≤ a.toNat ∨ (f.ioRead a.toNat).isNone then some trapBuserr
  else none

/-- The partition whose counter times a block: its die's, and partition 0 for the other blocks (log 11). -/
def Fab.blockPart (f : Fab) (b : Nat) : Nat := if b < 6 then partOf f.pmode b else 0

/-- The effective throttle level that a block asks for (R129). -/
def Block.want (b : Block) : Nat := max b.lvl b.floor

/-! ### Channels (R111, R123) -/

/-- Channels that neither task images nor TBIND rebind (R111). -/
def chanReserved (ch : Nat) : Bool := ch == 1 || ch == 2 || ch == 7

/-- A priority as given to a channel: channel 0 keeps 0, and alone has it (R111, R123). -/
def chanPri (ch pri : Nat) : Nat := if ch = 0 then 0 else if pri = 0 then 1 else pri

/-- The address check of a message buffer or descriptor of 32 bytes (R116, R123, R125). -/
def bufCheck (a : W64) : Option Nat :=
  if a.toNat % 8 ≠ 0 then some trapMisalign else if inUser a 32 then none else some trapBuserr

/-- Word i of the 32 bytes at an address. -/
def Fab.sram64 (f : Fab) (a : W64) (i : Nat) : W64 := BitVec.ofNat 64 (f.sram (a.toNat + 8 * i) 8)

/-- A message's 32 bytes. -/
def Msg.bytes (m : Msg) : List Byte := [m.w0, m.w1, m.w2, m.w3].flatMap fun w => leBytes 8 w.toNat

/-! ### Crypto requests (R125) -/

/-- The job that a descriptor names; nothing where it is invalid. -/
def Fab.cryptoJob (f : Fab) (sigv : Bool) (a : W64) : Option CJob :=
  let d (off n : Nat) : Nat := f.sram (a.toNat + off) n
  let src := BitVec.ofNat 64 (d 0 8)
  let len := d 8 8
  let ptr (p n : Nat) : Bool := p % 8 == 0 && decide (p < 0x38000) && decide (p + n ≤ 0x38000)
  let dst := d 16 4
  let sig := d 24 4
  let ok := decide (len ≤ 2 ^ 40) && decide (d 20 1 < 64) && d 21 1 == 0 && d 28 4 == 0 &&
    (src.getLsbD 63 || ptr src.toNat len) &&
    (if sigv then ptr dst 32 && ptr sig 64 else ptr dst 64 && sig == 0)
  if ok then some ⟨sigv, src, len, dst, sig, d 20 1, BitVec.ofNat 16 (d 22 2)⟩ else none

/-- Cycles of a job: 200 and 64 for each 128-byte block, and 72,000 more for a verification (R125). That the padding counts among the blocks is
the model's choice (log 52). -/
def CJob.cycles (j : CJob) : Nat := 200 + 64 * ((j.len + 17 + 127) / 128) + (if j.sigv then 72000 else 0)

/-- The first waiting job starts, unless none waits. -/
def Fab.startCrypto (f : Fab) : Fab :=
  match f.pom.crypto with
  | [] => f
  | j :: _ => f.at (f.clock + (j.cycles + 2) / 3) 0 (.cryptoCompletion 0)

/-- HASHB and SIGV (R125). -/
def cryptoTask (sigv : Bool) (d a : BitVec 5) : State → Host.Outcome State Fault Refusal :=
  lift fun f =>
    let x := f.pom.r a
    match bufCheck x with
    | some c => f.trapHere c x
    | none =>
      let f := f.fixSrams x.toNat 4
      match f.cryptoJob sigv x with
      | none => f.taskRet d 2 4
      | some j =>
        if 4 ≤ f.pom.crypto.length then f.taskRet d 1 4
        else
          let f' := f.modPom fun p => { p with crypto := p.crypto ++ [j] }
          (if f.pom.crypto.isEmpty then f'.startCrypto else f').taskRet d 0 4

/-! ### Integer instructions (R93, R94) -/

/-- NOP (R93). -/
def execNopTask (s : State) : Host.Outcome State Fault Refusal :=
  lift Fab.taskNext s

/-- ADD_TASK (R93). -/
def execAddTask (d : BitVec 5) (a : BitVec 5) (b : BitVec 5) (s : State) : Host.Outcome State Fault Refusal :=
  taskAlu d 1 (fun p => (p.r a) + (p.r b)) s

/-- SUB_TASK (R93). -/
def execSubTask (d : BitVec 5) (a : BitVec 5) (b : BitVec 5) (s : State) : Host.Outcome State Fault Refusal :=
  taskAlu d 1 (fun p => (p.r a) - (p.r b)) s

/-- ADDI_TASK (R93). -/
def execAddiTask (d : BitVec 5) (a : BitVec 5) (i : BitVec 14) (s : State) : Host.Outcome State Fault Refusal :=
  taskAlu d 1 (fun p => (p.r a) + i.signExtend 64) s

/-- MIN_TASK (R93). -/
def execMinTask (d : BitVec 5) (a : BitVec 5) (b : BitVec 5) (s : State) : Host.Outcome State Fault Refusal :=
  taskAlu d 1 (fun p => minS (p.r a) (p.r b)) s

/-- MAX_TASK (R93). -/
def execMaxTask (d : BitVec 5) (a : BitVec 5) (b : BitVec 5) (s : State) : Host.Outcome State Fault Refusal :=
  taskAlu d 1 (fun p => maxS (p.r a) (p.r b)) s

/-- MINN_TASK (R93). -/
def execMinnTask (d : BitVec 5) (a : BitVec 5) (b : BitVec 5) (s : State) : Host.Outcome State Fault Refusal :=
  taskAlu d 1 (fun p => minU (p.r a) (p.r b)) s

/-- MAXN_TASK (R93). -/
def execMaxnTask (d : BitVec 5) (a : BitVec 5) (b : BitVec 5) (s : State) : Host.Outcome State Fault Refusal :=
  taskAlu d 1 (fun p => maxU (p.r a) (p.r b)) s

/-- ABS_TASK (R93). -/
def execAbsTask (d : BitVec 5) (a : BitVec 5) (s : State) : Host.Outcome State Fault Refusal :=
  taskAlu d 1 (fun p => absV (p.r a)) s

/-- NEG_TASK (R93). -/
def execNegTask (d : BitVec 5) (a : BitVec 5) (s : State) : Host.Outcome State Fault Refusal :=
  taskAlu d 1 (fun p => -(p.r a)) s

/-- AND_TASK (R93). -/
def execAndTask (d : BitVec 5) (a : BitVec 5) (b : BitVec 5) (s : State) : Host.Outcome State Fault Refusal :=
  taskAlu d 1 (fun p => (p.r a) &&& (p.r b)) s

/-- OR_TASK (R93). -/
def execOrTask (d : BitVec 5) (a : BitVec 5) (b : BitVec 5) (s : State) : Host.Outcome State Fault Refusal :=
  taskAlu d 1 (fun p => (p.r a) ||| (p.r b)) s

/-- XOR_TASK (R93). -/
def execXorTask (d : BitVec 5) (a : BitVec 5) (b : BitVec 5) (s : State) : Host.Outcome State Fault Refusal :=
  taskAlu d 1 (fun p => (p.r a) ^^^ (p.r b)) s

/-- ANDN_TASK (R93). -/
def execAndnTask (d : BitVec 5) (a : BitVec 5) (b : BitVec 5) (s : State) : Host.Outcome State Fault Refusal :=
  taskAlu d 1 (fun p => (p.r a) &&& ~~~(p.r b)) s

/-- NOT_TASK (R93). -/
def execNotTask (d : BitVec 5) (a : BitVec 5) (s : State) : Host.Outcome State Fault Refusal :=
  taskAlu d 1 (fun p => ~~~(p.r a)) s

/-- SHL_TASK (R93). -/
def execShlTask (d : BitVec 5) (a : BitVec 5) (b : BitVec 5) (s : State) : Host.Outcome State Fault Refusal :=
  taskAlu d 1 (fun p => shlV (p.r a) (p.r b)) s

/-- SHR_TASK (R93). -/
def execShrTask (d : BitVec 5) (a : BitVec 5) (b : BitVec 5) (s : State) : Host.Outcome State Fault Refusal :=
  taskAlu d 1 (fun p => shrV (p.r a) (p.r b)) s

/-- SHA_TASK (R93). -/
def execShaTask (d : BitVec 5) (a : BitVec 5) (b : BitVec 5) (s : State) : Host.Outcome State Fault Refusal :=
  taskAlu d 1 (fun p => shaV (p.r a) (p.r b)) s

/-- ROT_TASK (R93). -/
def execRotTask (d : BitVec 5) (a : BitVec 5) (b : BitVec 5) (s : State) : Host.Outcome State Fault Refusal :=
  taskAlu d 1 (fun p => rotV (p.r a) (p.r b)) s

/-- CLZ_TASK (R93). -/
def execClzTask (d : BitVec 5) (a : BitVec 5) (s : State) : Host.Outcome State Fault Refusal :=
  taskAlu d 1 (fun p => clzV (p.r a)) s

/-- POPC_TASK (R93). -/
def execPopcTask (d : BitVec 5) (a : BitVec 5) (s : State) : Host.Outcome State Fault Refusal :=
  taskAlu d 1 (fun p => popcV (p.r a)) s

/-- SEL_TASK (R93). -/
def execSelTask (d : BitVec 5) (a : BitVec 5) (b : BitVec 5) (s : State) : Host.Outcome State Fault Refusal :=
  taskAlu d 1 (fun p => if p.r d != 0 then (p.r a) else (p.r b)) s

/-- CMPEQ_TASK (R93). -/
def execCmpeqTask (d : BitVec 5) (a : BitVec 5) (b : BitVec 5) (s : State) : Host.Outcome State Fault Refusal :=
  taskAlu d 1 (fun p => boolV ((p.r a) == (p.r b))) s

/-- CMPNE_TASK (R93). -/
def execCmpneTask (d : BitVec 5) (a : BitVec 5) (b : BitVec 5) (s : State) : Host.Outcome State Fault Refusal :=
  taskAlu d 1 (fun p => boolV ((p.r a) != (p.r b))) s

/-- CMPLT_TASK (R93). -/
def execCmpltTask (d : BitVec 5) (a : BitVec 5) (b : BitVec 5) (s : State) : Host.Outcome State Fault Refusal :=
  taskAlu d 1 (fun p => boolV (decide ((p.r a).toInt < (p.r b).toInt))) s

/-- CMPLE_TASK (R93). -/
def execCmpleTask (d : BitVec 5) (a : BitVec 5) (b : BitVec 5) (s : State) : Host.Outcome State Fault Refusal :=
  taskAlu d 1 (fun p => boolV (decide ((p.r a).toInt ≤ (p.r b).toInt))) s

/-- CMPLTN_TASK (R93). -/
def execCmpltnTask (d : BitVec 5) (a : BitVec 5) (b : BitVec 5) (s : State) : Host.Outcome State Fault Refusal :=
  taskAlu d 1 (fun p => boolV (decide ((p.r a).toNat < (p.r b).toNat))) s

/-- CMPLEN_TASK (R93). -/
def execCmplenTask (d : BitVec 5) (a : BitVec 5) (b : BitVec 5) (s : State) : Host.Outcome State Fault Refusal :=
  taskAlu d 1 (fun p => boolV (decide ((p.r a).toNat ≤ (p.r b).toNat))) s

/-- MOVI_TASK (R93). -/
def execMoviTask (d : BitVec 5) (i : BitVec 14) (s : State) : Host.Outcome State Fault Refusal :=
  taskAlu d 1 (fun _ => i.signExtend 64) s

/-- MOVHI_TASK (R93). -/
def execMovhiTask (d : BitVec 5) (i : BitVec 14) (s : State) : Host.Outcome State Fault Refusal :=
  taskAlu d 1 (fun p => (p.r d <<< 14) ||| i.zeroExtend 64) s

/-- MOV_TASK (R93). -/
def execMovTask (d : BitVec 5) (a : BitVec 5) (s : State) : Host.Outcome State Fault Refusal :=
  taskAlu d 1 (fun p => (p.r a)) s

/-- SEXT_TASK (R93). -/
def execSextTask (d : BitVec 5) (a : BitVec 5) (b : BitVec 5) (s : State) : Host.Outcome State Fault Refusal :=
  taskAlu d 1 (fun p => sextV (p.r a) (p.r b)) s

/-- BFX_TASK (R93). -/
def execBfxTask (d : BitVec 5) (a : BitVec 5) (b : BitVec 5) (s : State) : Host.Outcome State Fault Refusal :=
  taskAlu d 1 (fun p => bfxV 6 (p.r a) (p.r b)) s

/-- BFI_TASK (R93). -/
def execBfiTask (d : BitVec 5) (a : BitVec 5) (b : BitVec 5) (s : State) : Host.Outcome State Fault Refusal :=
  taskAlu d 1 (fun p => bfiV 6 (p.r a) (p.r b) (p.r d)) s

/-- ADDS_TASK (R93). -/
def execAddsTask (d : BitVec 5) (a : BitVec 5) (b : BitVec 5) (s : State) : Host.Outcome State Fault Refusal :=
  taskAlu d 1 (fun p => sat64 ((p.r a).toInt + (p.r b).toInt)) s

/-- SUBS_TASK (R93). -/
def execSubsTask (d : BitVec 5) (a : BitVec 5) (b : BitVec 5) (s : State) : Host.Outcome State Fault Refusal :=
  taskAlu d 1 (fun p => sat64 ((p.r a).toInt - (p.r b).toInt)) s

/-- MUL_TASK (R93). -/
def execMulTask (d : BitVec 5) (a : BitVec 5) (b : BitVec 5) (s : State) : Host.Outcome State Fault Refusal :=
  taskAlu d 4 (fun p => (p.r a) * (p.r b)) s

/-- MULH_TASK (R93). -/
def execMulhTask (d : BitVec 5) (a : BitVec 5) (b : BitVec 5) (s : State) : Host.Outcome State Fault Refusal :=
  taskAlu d 4 (fun p => mulHigh (p.r a) (p.r b)) s

/-- MULHN_TASK (R93). -/
def execMulhnTask (d : BitVec 5) (a : BitVec 5) (b : BitVec 5) (s : State) : Host.Outcome State Fault Refusal :=
  taskAlu d 4 (fun p => mulHighN (p.r a) (p.r b)) s

/-- DIV (R93). -/
def execDiv (d : BitVec 5) (a : BitVec 5) (b : BitVec 5) (s : State) : Host.Outcome State Fault Refusal :=
  taskDiv d (fun p => divS (p.r a) (p.r b)) s

/-- DIVN (R93). -/
def execDivn (d : BitVec 5) (a : BitVec 5) (b : BitVec 5) (s : State) : Host.Outcome State Fault Refusal :=
  taskDiv d (fun p => divU (p.r a) (p.r b)) s

/-- REM (R93). -/
def execRem (d : BitVec 5) (a : BitVec 5) (b : BitVec 5) (s : State) : Host.Outcome State Fault Refusal :=
  taskDiv d (fun p => remS (p.r a) (p.r b)) s

/-- REMN (R93). -/
def execRemn (d : BitVec 5) (a : BitVec 5) (b : BitVec 5) (s : State) : Host.Outcome State Fault Refusal :=
  taskDiv d (fun p => remU (p.r a) (p.r b)) s

/-! ### Branches, task SRAM, I/O (R120, R121, R126) -/

/-- BR (R120). -/
def execBr (f : BitVec 19) (s : State) : Host.Outcome State Fault Refusal :=
  lift (fun x => x.modPom fun p => p.jump (p.target f)) s

/-- BRZ (R120). -/
def execBrz (a : BitVec 5) (f : BitVec 19) (s : State) : Host.Outcome State Fault Refusal :=
  lift (fun x => x.modPom fun p => if p.r a = 0 then p.jump (p.target f) else p.advance) s

/-- BRNZ (R120). -/
def execBrnz (a : BitVec 5) (f : BitVec 19) (s : State) : Host.Outcome State Fault Refusal :=
  lift (fun x => x.modPom fun p => if p.r a = 0 then p.advance else p.jump (p.target f)) s

/-- CALL (R120). -/
def execCall (f : BitVec 19) (s : State) : Host.Outcome State Fault Refusal :=
  lift (fun x => x.modPom fun p => (p.set 31 (p.pc + 4) 1).jump (p.target f)) s

/-- RET: a target that is not a multiple of 4 raises FETCH (R120). -/
def execRet (s : State) : Host.Outcome State Fault Refusal :=
  lift (fun f =>
    let t := f.pom.r 31
    if t.toNat % 4 ≠ 0 then f.trap trapFetch 0 t else f.modPom fun p => p.jump t) s

/-- LDK (R121). -/
def execLdk (d : BitVec 5) (a : BitVec 5) (i : BitVec 14) (s : State) : Host.Outcome State Fault Refusal :=
  lift (fun f =>
    let x := f.pom.addr a i
    if x.toNat % 8 ≠ 0 then f.trapHere trapMisalign x
    else if !inUser x 8 then f.trapHere trapBuserr x
    else if f.uncorr (sramBase + x.toNat) then f.trapHere trapEcc x
    else (f.fixSram x.toNat).taskRet d (BitVec.ofNat 64 (f.sram x.toNat 8)) 3) s

/-- STK (R121). -/
def execStk (d : BitVec 5) (a : BitVec 5) (i : BitVec 14) (s : State) : Host.Outcome State Fault Refusal :=
  lift (fun f =>
    let x := f.pom.addr a i
    if x.toNat % 8 ≠ 0 then f.trapHere trapMisalign x
    else if !inUser x 8 then f.trapHere trapBuserr x
    else ((f.setSram x.toNat (leBytes 8 (f.pom.r d).toNat)).setTag (sramBase + x.toNat) 0).taskNext) s

/-- LDIO (R121, R126). -/
def execLdio (d : BitVec 5) (a : BitVec 5) (i : BitVec 14) (s : State) : Host.Outcome State Fault Refusal :=
  lift (fun f =>
    let x := f.pom.addr a i
    match f.ioCheck x with
    | some c => f.trapHere c x
    | none => f.taskRet d ((f.ioRead x.toNat).getD 0) (ioLatency x.toNat)) s

/-- STIO: the write is performed at its target when the latency of the block has elapsed (R121, R126). -/
def execStio (d : BitVec 5) (a : BitVec 5) (i : BitVec 14) (s : State) : Host.Outcome State Fault Refusal :=
  lift (fun f =>
    let x := f.pom.addr a i
    match f.ioCheck x with
    | some c => f.trapHere c x
    | none =>
      let done := f.cyc + ioLatency x.toNat
      { f.taskNext with
        pom := { f.taskNext.pom with stio := done }
        evq := f.evq ++ [⟨done / 3, 0, .io (BitVec.ofNat 24 x.toNat) (f.pom.r d)⟩] }) s

/-! ### Channels, tasks, queries (R113, R120, R122-R125) -/

/-- SEND (R123). -/
def execSend (d : BitVec 5) (a : BitVec 5) (c : BitVec 6) (s : State) : Host.Outcome State Fault Refusal :=
  lift (fun f =>
    let x := f.pom.r a
    match bufCheck x with
    | some t => f.trapHere t x
    | none =>
      let w0 := (f.sram64 x 0 &&& 0xFFFFFFFFFFFF) ||| BitVec.ofNat 64 (f.pom.chan * 2 ^ 48)
      let m : Msg := ⟨w0, f.sram64 x 1, f.sram64 x 2, f.sram64 x 3⟩
      let f := f.fixSrams x.toNat 4
      if f.chanFull c.toNat then f.taskRet d 1 4
      else (f.modChan c.toNat fun y => { y with q := y.q ++ [m] }).taskRet d 0 4) s

/-- RECV (R123). -/
def execRecv (d : BitVec 5) (a : BitVec 5) (c : BitVec 6) (s : State) : Host.Outcome State Fault Refusal :=
  lift (fun f =>
    let x := f.pom.r a
    match bufCheck x with
    | some t => f.trapHere t x
    | none =>
      let y := f.chan c.toNat
      match y.bind, y.q with
      | .polled, m :: q =>
        ((List.range 4).foldl (fun f i => f.setTag (sramBase + x.toNat + 8 * i) 0)
          ((f.modChan c.toNat fun y => { y with q := q }).setSram x.toNat m.bytes)).taskRet d 1 4
      | .polled, [] => f.taskRet d 0 4
      | _, _ => f.taskRet d 2 4) s

/-- TEND (R113). -/
def execTend (s : State) : Host.Outcome State Fault Refusal :=
  lift (fun f => f.modPom Pommel.idle) s

/-- TBIND (R123). -/
def execTbind (d : BitVec 5) (a : BitVec 5) (b : BitVec 5) (c : BitVec 6) (s : State) : Host.Outcome State Fault Refusal :=
  lift (fun f =>
    let x := f.pom.r a
    let y := f.pom.r b
    let ch := c.toNat
    if y.toNat / 32 ≠ 0 then f.taskRet d 3 4
    else if chanReserved ch then f.taskRet d 2 4
    else if !y.getLsbD 4 then (f.modChan ch fun k => { k with bind := .polled }).taskRet d 0 4
    else if x.toNat % 4 ≠ 0 || !inUser x 4 then f.taskRet d 1 4
    else (f.modChan ch fun k => { k with bind := .task (x.setWidth 32), pri := chanPri ch (y.toNat % 16) }).taskRet d 0 4) s

/-- CHPRI (R123). -/
def execChpri (d : BitVec 5) (a : BitVec 5) (c : BitVec 6) (s : State) : Host.Outcome State Fault Refusal :=
  lift (fun f =>
    let ch := c.toNat
    let old := (f.chan ch).pri
    (f.modChan ch fun k => { k with pri := chanPri ch ((f.pom.r a).toNat % 16) }).taskRet d (BitVec.ofNat 64 old) 4) s

/-- TRAPS (R116, R120). -/
def execTraps (i : BitVec 9) (s : State) : Host.Outcome State Fault Refusal :=
  lift (fun f => f.trapHere trapSoft (i.zeroExtend 64)) s

/-- TIMEQ (R124). -/
def execTimeq (d : BitVec 5) (a : BitVec 5) (b : BitVec 5) (s : State) : Host.Outcome State Fault Refusal :=
  lift (fun f =>
    let x := f.pom.r a
    let part := bits x.toNat 12 3
    if f.pmode ≤ part then f.taskRet d 0 4
    else
      let slot : Fin 16 := Fin.ofNat 16 (bits x.toNat 8 4)
      let arm (t : Option Timer) (p : Pommel) : Pommel := { p with timers := p.timers.set slot t }
      let f' :=
        if slot = 15 then f
        else if x.getLsbD 17 then f.modPom (arm none)
        else if x.getLsbD 16 then f.modPom (arm (some ⟨part, x.toNat % 64, (f.pom.r b).toNat⟩))
        else f
      f'.taskRet d (BitVec.ofNat 64 (f.ctr part)) 4) s

/-- HASHB (R125). -/
def execHashb (d : BitVec 5) (a : BitVec 5) (s : State) : Host.Outcome State Fault Refusal :=
  cryptoTask false d a s

/-- SIGV (R125). -/
def execSigv (d : BitVec 5) (a : BitVec 5) (s : State) : Host.Outcome State Fault Refusal :=
  cryptoTask true d a s

/-- SYSX: the entry address of a channel bound to Bridle, and the count of 16 messages in a field of four bits, are not stated: free
values (R122, log 4). -/
def execSysx (d : BitVec 5) (a : BitVec 5) (i : BitVec 9) (s : State) : Host.Outcome State Fault Refusal :=
  lift (fun f =>
    let ch := (f.pom.r a).toNat % 64
    let k := f.chan ch
    let ret (v : Nat) : Fab := f.taskRet d (BitVec.ofNat 64 v) 2
    match i.toNat with
    | 0 => ret f.cyc
    | 1 => ret (f.pom.chan + 2 ^ 8 * (f.chan f.pom.chan).pri)
    | 2 =>
      let (n, f) := if k.q.length < 16 then (k.q.length, f) else (f.draw.1.toNat % 16, f.draw.2)
      f.taskRet d (BitVec.ofNat 64 ((if k.bind = .polled then 0 else 1) + (if chanReserved ch then 2 else 0) + k.pri * 2 ^ 8 +
        n * 2 ^ 16 + k.lost * 2 ^ 24)) 2
    | 3 => (f.modChan ch fun k => { k with lost := 0 }).taskRet d (BitVec.ofNat 64 k.lost) 2
    | 4 => match k.bind with
      | .polled => ret 0xFFFFFFFF
      | .task e => ret e.toNat
      | .bridle => f.draw.2.taskRet d f.draw.1 2
    | 5 => ret f.pom.corrected
    | 6 => ret (24000 - (f.cyc - f.pom.start))
    | _ => f.trapHere trapIllegal 0) s

/-! ### Events of the task core (R113, R114, R116, R124) -/

/-- The bound channels of a priority level with a message waiting. -/
def Fab.candidates (f : Fab) (level : Nat) : List Nat :=
  (List.range 64).filter fun c =>
    let k := f.chan c
    k.bind ≠ .polled && k.pri == level && !k.q.isEmpty

/-- The channel that the dispatcher takes: the lowest level with a candidate, and in it the least channel above the level's pointer,
else the least (R113). -/
def Fab.dispatchChan (f : Fab) : Option (Nat × Nat) :=
  (List.range 16).findSome? fun l =>
    match f.candidates l with
    | [] => none
    | c :: cs => some (l, ((c :: cs).find? fun x => decide (f.pom.rr.toList.getD l 63 < x)).getD c)

/-- The default Bridle handler of channels 0, 3, 4, 5 and 6: the message is copied into the event log (R111). -/
def Fab.bridleLog (f : Fab) (m : Msg) : Fab := { f with host := { f.host with log := f.host.log ++ [m] } }

/-- TASK_DISPATCH: 8 c to a task; a Bridle handler ends within its dispatch (R111, R113). -/
def execTaskDispatch (s : State) : Host.Outcome State Fault Refusal :=
  match s.fab.dispatchChan with
  | none => .next s
  | some (l, ch) =>
    let f := s.fab
    let k := f.chan ch
    let m := k.q.headD {}
    let f := f.modChan ch fun k => { k with q := k.q.tail }
    let p : Pommel := { f.pom with rr := f.pom.rr.set (Fin.ofNat 16 l) ch, next := f.pom.next + 8 }
    match k.bind with
    | .polled => .next s
    | .bridle =>
      let f := { f with pom := p }
      if ch = 1 then .next { fab := f, agenda := .command :: s.agenda }
      else if ch = 2 ∨ ch = 7 then .next { s with fab := f }
      else .next { s with fab := f.bridleLog m }
    | .task e =>
      .next { s with fab := { f with pom := { p with
        k := #v[0, m.w0, m.w1, m.w2, m.w3, BitVec.ofNat 64 ch, 0, 0, 0, 0, 0, 0, 0, 0, 0, 0, 0, 0, 0, 0, 0, 0, 0, 0, 0, 0, 0, 0, 0, 0, 0, 0]
        ready := Vector.replicate 32 0
        pc := e.zeroExtend 64, running := true, chan := ch, first := true, start := p.next
        nested := ch == 0 && m.w0.toNat / 2 ^ 56 == 1 && m.w0.getLsbD 39 } } }

/-- WATCHDOG: the task ends before the instruction at hand (R114, R116). -/
def execWatchdog (s : State) : Host.Outcome State Fault Refusal :=
  lift (fun f => f.trap trapWatchdog 0 0) s

/-- ILLEGAL_INSTRUCTION (R48, R116). -/
def execIllegalInstruction (s : State) : Host.Outcome State Fault Refusal :=
  lift (fun f => f.trapHere trapIllegal 0) s

/-- FETCH_FAULT: the fetch address is reported (R116). -/
def execFetchFault (s : State) : Host.Outcome State Fault Refusal :=
  lift (fun f => f.trap trapFetch 0 f.pom.pc) s

/-- TIMER_COMPARE (R110, R124). -/
def execTimerCompare (slot : BitVec 4) (s : State) : Host.Outcome State Fault Refusal :=
  lift (fun f =>
    let i : Fin 16 := slot.toFin
    match f.pom.timers.get i with
    | none => f
    | some t =>
      let m : Msg :=
        { w0 := BitVec.ofNat 64 (2 * 2 ^ 56 + 2 ^ 48 + slot.toNat * 2 ^ 40 + t.part * 2 ^ 32), w1 := BitVec.ofNat 64 t.tick
          w2 := BitVec.ofNat 64 (f.ctr t.part) }
      (f.modPom fun p => { p with timers := p.timers.set i none }).send t.ch m) s

/-! ### Monitors, throttle, I/O writes (R126-R129, R375) -/

/-- A message of a monitor alert (R110): kind, block, sensor index, reading, tick of the sample. -/
def Fab.alertMsg (f : Fab) (kind block ix reading : Nat) : Fab :=
  f.send 5 { w0 := BitVec.ofNat 64 (3 * 2 ^ 56 + kind * 2 ^ 48 + block * 2 ^ 40 + ix * 2 ^ 32 + reading % 2 ^ 16)
             w1 := BitVec.ofNat 64 (f.ctr (f.blockPart block)) }

/-- The index of the first temperature reading at or above a threshold, and the reading. -/
def firstHot (thr : Int) : List (BitVec 16) → Nat → Option (Nat × BitVec 16)
  | [], _ => none
  | t :: ts, i => if thr ≤ t.toInt then some (i, t) else firstHot thr ts (i + 1)

/-- MONITOR_SAMPLE: readings of a block in the order TEMP, VOLT, PROC, then alert and trip (R127, R129). That the alert comes first, and that a
message names the first sensor at or above its threshold, are the model's choice (log 52). -/
def execMonitorSample (block : BitVec 4) (readings : List W32) (s : State) : Host.Outcome State Fault Refusal :=
  lift (fun f =>
    let b := block.toNat
    let (nt, nv, np) := sensorCounts b
    let reg (m x : W32) : W32 := 0x80000000 ||| (x &&& m)
    let temps := (readings.take nt).map fun x => x.setWidth 16
    let f := f.modBlock b fun k =>
      { k with temp := (readings.take nt).map (reg 0xFFFF), volt := ((readings.drop nt).take nv).map (reg 0xFFFF)
               proc := ((readings.drop (nt + nv)).take np).map (reg 0xFFFFFF) }
    let k := f.block b
    let f := match firstHot (k.alertcfg.extractLsb' 0 16).toInt temps 0 with
      | some (i, t) =>
        if k.alertcfg.getLsbD 31 && !k.alrt then (f.modBlock b fun k => { k with alrt := true }).alertMsg 1 b i t.toNat else f
      | none => f
    match firstHot k.tripcfg.toInt temps 0 with
    | some (i, t) =>
      (f.modBlock b fun k => { k with trip := true, lvl := if b < 6 then 7 else k.lvl }).alertMsg 2 b i t.toNat
    | none => f) s

/-- THRLVL_WRITE: ignored while TRIP is 1 (R128, R129). -/
def execThrlvlWrite (block : BitVec 4) (v : W64) (s : State) : Host.Outcome State Fault Refusal :=
  lift (fun f =>
    let b := block.toNat
    if (f.block b).trip then f else f.modBlock b fun k => { k with lvl := v.toNat % 8 }) s

/-- ALERTST_WRITE: bits that are 1 clear (R8, R128). -/
def execAlertstWrite (block : BitVec 4) (v : W64) (s : State) : Host.Outcome State Fault Refusal :=
  lift (fun f =>
    f.modBlock block.toNat fun k => { k with alrt := k.alrt && !v.getLsbD 0, trip := k.trip && !v.getLsbD 1 }) s

/-- REGISTER_WRITE: ALERTCFG and TRIPCFG take their RW fields; writes of RO registers are ignored (R8, R126, R128). -/
def execRegisterWrite (addr : BitVec 24) (v : W64) (s : State) : Host.Outcome State Fault Refusal :=
  lift (fun f =>
    let b := addr.toNat / 2 ^ 16
    let o := addr.toNat % 2 ^ 16
    if o = 0x418 then f.modBlock b fun k => { k with alertcfg := v.setWidth 32 &&& 0x8000FFFF }
    else if o = 0x420 then f.modBlock b fun k => { k with tripcfg := v.setWidth 16 }
    else f) s

/-- INGCFG_WRITE: INGBASE and INGCFG are ignored while EN is 1, and EN stays 0 without feature 10 (R375). -/
def execIngcfgWrite (addr : BitVec 24) (v : W64) (s : State) : Host.Outcome State Fault Refusal :=
  lift (fun f =>
    let o := addr.toNat % 2 ^ 16 - 0x1000
    let p := o / 32
    if addr.toNat / 2 ^ 16 ≠ 8 || (f.ing p).en then f
    else if o % 32 = 0 then f.modIng p fun x => { x with base := v.setWidth 48 }
    else if o % 32 = 8 then f.modIng p fun x =>
      { x with nslot := bits v.toNat 0 16, ssize := bits v.toNat 16 16
               en := v.getLsbD 32 && (f.host.features.getD 0).getLsbD 10 }
    else f) s

/-- SAFEEV_WRITE: VALID clears where the value has it; FAULT_N stays (R374). -/
def execSafeevWrite (v : W64) (s : State) : Host.Outcome State Fault Refusal :=
  lift (fun f =>
    { f with host := { f.host with safeev := if v.getLsbD 63 then f.host.safeev &&& 0x7FFFFFFFFFFFFFFF else f.host.safeev } }) s

end Sys2Proof.Machine
end

