-- ==== Sys2Proof/Machine/TaskMem.lean ====
section
/-! DEFINITION. Pommel at level G: loads, stores, atomics, fences, transfers and mirrors, and page management (spec 08_global R193, R213,
R215-R217, 09_ordering R221, R228, R231-R233, 08_global R212, 15_package R378). -/

namespace Sys2Proof.Machine

/-! ### Accesses under the system root (R193, R231) -/

/-- Cycles after which the result of a G access is available: the transit of R185 both ways and the lookup; an atomic takes 4 t more. Walks
and arbiters add no time in the model (log 14). -/
def gCycles (atomic : Bool) : Nat := if atomic then 120 else 108

/-- The place of an address for Pommel, or its trap: MISALIGN, then a translation fault as BUSERR (R193). -/
def Fab.pomPlace (f : Fab) (k : GKind) (size : Nat) (va : W64) : Except Nat Nat × Fab :=
  if va.toNat % size ≠ 0 then (.error trapMisalign, f)
  else match f.sysTranslate k va.toNat with
    | (.ok a, f) => (.ok a, f.fixBit a)
    | (.error _, f) => (.error trapBuserr, f)

/-- An access of Pommel at its place; a fault traps with the address. -/
def pomAccess (k : GKind) (size : Nat) (va : Pommel → W64) (go : Nat → Fab → Fab) : State → Host.Outcome State Fault Refusal :=
  lift fun f =>
    let x := va f.pom
    match f.pomPlace k size x with
    | (.error c, f) => f.trapHere c x
    | (.ok a, f) => go a f

/-- The even register of a pair field (R193). -/
def pairReg (d : BitVec 4) : BitVec 5 := d ++ 0#1
/-- The odd register of a pair field. -/
def pairReg1 (d : BitVec 4) : BitVec 5 := d ++ 1#1

/-- Two results, of a pair of registers. -/
def Fab.taskRet2 (f : Fab) (d : BitVec 4) (v w : W64) (lat : Nat) : Fab :=
  f.modPom fun p => ((p.set (pairReg d) v lat).set (pairReg1 d) w lat).advance

/-- Bytes stored by Pommel and the page splice. -/
def Fab.pomPut (f : Fab) (a n v : Nat) : Fab := f.putBytes a (leBytes n v)

/-- GLD's access. -/
def Fab.pomLoad (f : Fab) (d : BitVec 5) (x : W64) (a : Nat) : Fab :=
  if f.poisoned a then f.trapHere trapEcc x
  else (f.spliced a).taskRet d (BitVec.ofNat 64 (f.load a 8)) (gCycles false)

/-- GLDS's access: it never waits. -/
def Fab.pomTake (f : Fab) (d : BitVec 4) (x : W64) (a : Nat) : Fab :=
  if !f.full a then (f.spliced a).taskRet2 d 0 0 (gCycles false)
  else if f.poisoned a then f.trapHere trapEcc x
  else (f.spliced a).taskRet2 d (BitVec.ofNat 64 (f.load a 8)) 1 (gCycles false)

/-- GSTF's access: it never waits. -/
def Fab.pomGive (f : Fab) (d : BitVec 4) (a : Nat) : Fab :=
  if f.full a then (f.spliced a).modPom fun p => (p.set (pairReg1 d) 0 (gCycles false)).advance
  else ((f.pomPut a 8 (f.pom.r (pairReg d)).toNat).putFull a true).modPom fun p => (p.set (pairReg1 d) 1 (gCycles false)).advance

/-- An atomic of Pommel: 64 bits signed, or the fp32 of AFADD (R231). -/
def pomAtomic (opc : Nat) (d a b : BitVec 5) : State → Host.Outcome State Fault Refusal :=
  let size := if opc = 0x92 then 4 else 8
  pomAccess .sync size (·.r a) fun at_ f =>
    if f.poisoned at_ then f.trapHere trapEcc (f.pom.r a)
    else
      let old := f.load at_ size
      let (new, _) := atomNew opc (8 * size) false old ((f.pom.r b).toNat % 2 ^ (8 * size)) (f.pom.r d).toNat
      (f.pomPut at_ size new).taskRet d (BitVec.ofNat 64 old) (gCycles true)

/-- The store at the head of the store buffer performed at the place that its address had as it issued (R189, R193). -/
def Fab.drainStore (f : Fab) : Fab :=
  match f.pom.sbuf with
  | [] => f
  | (_, a, v) :: q => (f.modPom fun p => { p with sbuf := q }).pomPut a 8 v.toNat

/-! ### XFER and MIRR of Pommel (R213) -/

/-- Word i of a descriptor, as a number. -/
def PJob.w (j : PJob) (i : Nat) : Nat := (j.words.getD i 0).toNat
/-- Fields of a descriptor (R213). -/
def PJob.len (j : PJob) : Nat := bits (j.w 2) 0 32
def PJob.ch' (j : PJob) : Nat := bits (j.w 2) 32 8
def PJob.cls (j : PJob) : Nat := bits (j.w 2) 40 8
def PJob.remote (j : PJob) : Bool := (j.w 1).testBit 62
def PJob.final (j : PJob) : Bool := !(j.w 3).testBit 0

/-- Is an end of a transfer well formed: task SRAM in the user region, or a system VA, of multiples of 8? -/
def endOk (x len : Nat) (rsv : Nat) : Bool :=
  bits x 48 rsv == 0 && x % 8 == 0 && (!x.testBit 63 || decide (bits x 0 48 + len ≤ 0x38000))

/-- Does the job send to the partner? -/
def PJob.toPartner (j : PJob) : Bool := j.mirr || j.remote

/-- Is a descriptor valid (R213, as R125 states for HASHB)? -/
def PJob.ok (j : PJob) : Bool :=
  decide (j.ch' < 64) && decide (j.cls < 30) &&
    (if j.mirr then endOk (j.w 0) 0 16 && decide (j.w 1 < 1024) && bits (j.w 3) 32 32 == 0
     else endOk (j.w 0) j.len 15 && endOk (j.w 1) j.len 14 && j.len % 8 == 0 && decide (8 ≤ j.len) && decide (j.w 3 < 2))

/-- Ticks of a job: transit, and 64 bytes a tick. -/
def PJob.ticks (j : PJob) : Nat := 32 + (j.len + 63) / 64

/-- Words of a G destination set empty at admission (R211). -/
def Fab.emptyVa (f : Fab) (va n : Nat) : Fab :=
  (List.range n).foldl (fun f i =>
    match f.sysTranslate .write (va + 8 * i) with
    | (.ok a, f) => if a < hostBase then f.putFull a false else f
    | (.error _, f) => f) f

/-- A word read by a Pommel job: value, poison; the faulting address otherwise. -/
def Fab.pjobRead (f : Fab) (src i : Nat) : Except Nat (Nat × Bool) × Fab :=
  if src.testBit 63 then
    (.ok (f.sram (bits src 0 48 + 8 * i) 8, f.uncorr (sramBase + bits src 0 48 + 8 * i)), f.fixSram (bits src 0 48 + 8 * i))
  else match f.sysTranslate .read (bits src 0 48 + 8 * i) with
    | (.ok a, f) => let f := f.fixBit a; (.ok (f.load a 8, f.poisoned a), f.spliced a)
    | (.error _, f) => (.error (bits src 0 48 + 8 * i), f)

/-- The name of Pommel's job k on Beryl: k above those of the elements' jobs. -/
def pomJobId : Nat := 2 ^ 14
/-- The rank of a job's flits (R214). -/
def PJob.rank (j : PJob) : Nat := berylRank j.cls j.arr 2048

/-- A word written by a Pommel transfer, or sent to the partner as one of job k. -/
def Fab.pjobWrite (f : Fab) (k : Nat) (j : PJob) (i v : Nat) (p : Bool) : Except Nat Unit × Fab :=
  let dst := j.w 1
  let va := bits dst 0 48 + 8 * i
  if j.remote then (.ok (), f.berylSend j.rank (.xfer (pomJobId + k) va (BitVec.ofNat 64 v) p j.final))
  else if dst.testBit 63 then (.ok (), f.setSram va (leBytes 8 v))
  else match f.sysTranslate .write va with
    | (.error _, f) => (.error va, f)
    | (.ok a, f) =>
      let f := f.pomPut a 8 v
      let f := if p then f.putPoison a true else f
      (.ok (), if a < hostBase then f.putFull a j.final else f)

/-- A transfer's words from i on: moved words, faulting address, poison met. -/
def Fab.pjobMove (f : Fab) (k : Nat) (j : PJob) (i : Nat) (pois : Bool) : Nat → Nat × Option Nat × Bool × Fab
  | 0 => (i, none, pois, f)
  | n + 1 =>
    match f.pjobRead (j.w 0) i with
    | (.error va, f) => (i, some va, pois, f)
    | (.ok (v, p), f) =>
      match f.pjobWrite k j i v p with
      | (.error va, f) => (i, some va, pois || p, f)
      | (.ok _, f) => f.pjobMove k j (i + 1) (pois || p) n

/-- Pommel's mirror carries the I/O die as its source: socket 8 and no coordinate (log 15). -/
def pomSocket : Nat := 8

/-- A mirror's words read and sent from i on, after those read: words read, faulting address, poison met. -/
def Fab.pjobMirror (f : Fab) (j : PJob) (ws : List Nat) (pois : Bool) : Nat → Nat × Option Nat × Bool × Fab
  | 0 => (ws.length, none, pois, f.berylSend j.rank (.mirrorEnd (j.w 1) (BitVec.ofNat 32 (j.w 3)) pomSocket 0 0 j.len
      (crc32c ((ws.flatMap (leBytes 8)).take j.len))))
  | n + 1 =>
    match f.pjobRead (j.w 0) ws.length with
    | (.error va, f) => (ws.length, some va, pois, f)
    | (.ok (v, p), f) =>
      (f.berylSend j.rank (.mirrorWord (j.w 1) (BitVec.ofNat 32 (j.w 3)) ws.length (leBytes (lastBytes j.len ws.length) v) p)).pjobMirror j
        (ws ++ [v]) (pois || p) n

/-- Job k carried out: status, words moved, faulting address (R213, R214). -/
def Fab.pjobRun (f : Fab) (k : Nat) (j : PJob) : (Nat × Nat × Nat) × Fab :=
  let status : Nat × Option Nat × Bool × Fab → (Nat × Nat × Nat) × Fab
    | (n, some va, _, f) => ((2, n, va), f)
    | (n, none, p, f) => ((if p then 4 else 0, n, 0), f)
  if j.toPartner && !f.beryl.up then ((3, 0, 0), f)
  else if !j.mirr then status (f.pjobMove k j 0 false (j.len / 8))
  else if f.beryl.ssize / 2 - 64 < j.len then ((1, 0, 0), f)
  else status ((f.berylSend j.rank (.mirrorBegin (j.w 1) (BitVec.ofNat 32 (j.w 3)))).pjobMirror j [] false ((j.len + 7) / 8))

/-- The first job begins: one to the partner reads and sends its words; its completion becomes due, at once where the link is down. -/
def Fab.startPJob (f : Fab) : Fab :=
  match f.pom.jobs with
  | (k, j) :: _ =>
    if j.toPartner ∧ j.res.isNone then
      let (x, f) := f.pjobRun k j
      (f.modPom fun p => { p with jobs := mput k { j with res := some x } p.jobs }).at (f.clock + (if x.1 = 3 then 1 else j.ticks)) 0
        (.pommelJobCompletion k)
    else f.at (f.clock + j.ticks) 0 (.pommelJobCompletion k)
  | [] => f

/-- A job to the partner that the link or the partner has cut out ends on the next tick, with the words moved (R211, R213, R214). -/
def Fab.cutPJob (f : Fab) (k : Nat) (j : PJob) (status n : Nat) : Fab :=
  (f.modPom fun p => { p with jobs := mput k { j with res := some (status, n, 0) } p.jobs }).at (f.clock + 1) 0 (.pommelJobCompletion k)

/-- XFER and MIRR of Pommel: 0 queued, 1 full, 2 invalid. One to the partner without feature 0 is invalid (R379; log 14). -/
def pomJob (mirr : Bool) (d a : BitVec 5) : State → Host.Outcome State Fault Refusal :=
  lift fun f =>
    let x := f.pom.r a
    match bufCheck x with
    | some c => f.trapHere c x
    | none =>
      let f := f.fixSrams x.toNat 4
      let j : PJob := { mirr := mirr, words := [f.sram64 x 0, f.sram64 x 1, f.sram64 x 2, f.sram64 x 3] }
      let j := { j with ch := j.ch', tag := BitVec.ofNat 16 (bits (j.w 2) 48 16), arr := f.clock }
      if !j.ok || (j.toPartner && !(f.host.features.getD 0).getLsbD 0) then f.taskRet d 2 4
      else if 4 ≤ f.pom.jobs.length then f.taskRet d 1 4
      else
        let (k, f) := f.fresh
        let idle := f.pom.jobs.isEmpty
        let f := if !j.toPartner && !(j.w 1).testBit 63 then f.emptyVa (bits (j.w 1) 0 48) (j.len / 8) else f
        let f := f.modPom fun p => { p with jobs := mput k j p.jobs }
        (if idle then f.startPJob else if j.toPartner && !f.beryl.up then f.cutPJob k j 3 0 else f).taskRet d 0 4

/-- POMMEL_JOB_COMPLETION: the job's message; behind the first job the next one starts. -/
def Fab.pjobDone (f : Fab) (k : Nat) : Fab :=
  match mget k f.pom.jobs with
  | none => f
  | some j =>
    let ((st, n, va), f) := match j.res with
      | some x => (x, f)
      | none => f.pjobRun k j
    let m : Msg :=
      { w0 := BitVec.ofNat 64 (6 * 2 ^ 56 + (if j.mirr then 2 else 1) * 2 ^ 48 + j.tag.toNat * 2 ^ 32 + st)
        w1 := BitVec.ofNat 64 n, w2 := BitVec.ofNat 64 va }
    let first := f.pom.jobs.head?.any fun x => x.1 == k
    let f := (f.modPom fun p => { p with jobs := mdel k p.jobs }).send j.ch m
    if first then f.startPJob else f

/-! ### Page management (R215-R217) -/

/-- Entries of the translation units that map a range under a root dropped: how many, and the fabric. -/
def Fab.dropTlb (f : Fab) (root : Option Nat) (va len : Nat) : Nat × Fab :=
  let hit (x : TlbEnt) : Bool := decide (x.root = root) && decide (x.va < va + len ∧ va < x.va + 2 ^ x.size)
  (((f.tlb.map fun (_, es) => (es.filter hit).length).foldl (· + ·) 0),
    { f with tlb := f.tlb.map fun (u, es) => (u, es.filter fun x => !hit x) })

/-- Is the old frame's range apart from the new one's? -/
def apart (a b n : Nat) : Bool := decide (a + n ≤ b ∨ b + n ≤ a)

/-- A migration that may start, or nothing where it is refused (R215). -/
def Fab.migration (f : Fab) (root : Option Nat) (va new : Nat) : Option Mig :=
  match f.walkRoot root va with
  | .error _ => none
  | .ok (leaf, size, at_) =>
    if va % 2 ^ size ≠ 0 || leaf.getLsbD 3 || leaf.getLsbD 4 || leaf.getLsbD 6 || !apart (leafPA leaf) new (2 ^ size) then none
    else some { root := root, va := va, size := size, old := leafPA leaf, new := new, pte := at_ }

/-- A descriptor of PAGEM (R215): what it asks for, nothing where it is invalid; a new frame outside LPDDR6 is invalid (log 16). -/
def Fab.pagemOk (f : Fab) (w : Nat → Nat) : Bool :=
  let part := bits (w 2) 0 8
  let op := bits (w 2) 8 8
  (f.host.features.getD 0).getLsbD 5 && bits (w 0) 48 16 == 0 && w 0 % 65536 == 0 && (part == 0xFF || decide (part < f.pmode)) &&
    decide (op < 2) && decide (bits (w 2) 16 8 < 30) && decide (bits (w 2) 24 8 < 64) && bits (w 2) 48 16 == 0 && w 3 == 0 &&
    (if op = 0 then w 1 % 65536 == 0 && decide (w 1 + 65536 ≤ f.cap) else w 1 % 65536 == 0 && decide (0 < w 1))

/-- The outcome of PAGEM: its result and the fabric (R215). -/
def Fab.pagem (f : Fab) (w : Nat → Nat) : Nat × Fab :=
  let part := bits (w 2) 0 8
  let root := if part = 0xFF then none else some part
  let ch := bits (w 2) 24 8
  let tag := BitVec.ofNat 16 (bits (w 2) 32 16)
  if !f.pagemOk w then (2, f)
  else if 8 ≤ f.migs.length then (1, f)
  else if bits (w 2) 8 8 = 1 then
    let (k, f) := f.fresh
    let (n, f) := f.dropTlb root (w 0) (w 1)
    (0, { f with migs := mput k { inval := true, root := root, va := w 0, new := w 1, ch := ch, tag := tag, dropped := n } f.migs }.at
      (f.clock + 4) 0 (.pagemCompletion k))
  else
    match f.migration root (w 0) (w 1) with
    | none => (3, f)
    | some m =>
      if w 1 % 2 ^ m.size ≠ 0 ∨ f.cap < w 1 + 2 ^ m.size then (2, f)
      else
        let (k, f) := f.fresh
        let f := f.store m.pte (leBytes 8 ((f.pte m.pte).toNat + 64))
        (0, { f with migs := mput k { m with ch := ch, tag := tag } f.migs }.at (f.clock + 1) 0 (.migrationSweep k))

/-- MIGRATION_SWEEP: the next line in ascending address is copied; after the last one the switch follows (R216). -/
def Fab.sweep (f : Fab) (k : Nat) : Fab :=
  match mget k f.migs with
  | none => f
  | some m =>
    let f := f.copyLine (m.old + 64 * m.next) (m.new + 64 * m.next)
    let f := { f with migs := mput k { m with next := m.next + 1 } f.migs }
    if 64 * (m.next + 1) < 2 ^ m.size then f.at (f.clock + 1) 0 (.migrationSweep k)
    else f.at (f.clock + 1) 0 (.migrationSwitch k)

/-- MIGRATION_SWITCH: the entry names the new frame and its translations are dropped; both frames are written until every access translated
with the old entry has been performed, and then the operation completes (R216). -/
def Fab.switchPage (f : Fab) (k : Nat) : Fab :=
  match mget k f.migs with
  | none => f
  | some m =>
    let x := (f.pte m.pte).toNat
    let f := f.store m.pte (leBytes 8 (x % 2 ^ 16 - (if x.testBit 6 then 64 else 0) + m.new))
    let (_, f) := f.dropTlb m.root m.va (2 ^ m.size)
    { f with migs := mput k { m with switched := true } f.migs }.at f.clock 0 (.pagemCompletion k)

/-- Is an access that was translated into a range of places, by an element or by Pommel's store buffer, still to be performed? -/
def Fab.pendingAt (f : Fab) (lo n : Nat) : Bool :=
  (f.elems.any fun (_, x) => x.hold.any fun h => h.isG && h.placed && decide (lo ≤ h.loc ∧ h.loc < lo + n)) ||
    f.pom.sbuf.any fun x => decide (lo ≤ x.2.1 ∧ x.2.1 < lo + n)

/-- Has an element, or for the system root Pommel, a translated access that is not yet performed in an invalidated range? -/
def Fab.pendingIn (f : Fab) (m : Mig) : Bool :=
  (f.elems.any fun (e, x) => x.hold.any fun h =>
    h.isG && h.placed && decide (m.root = some (f.partOfElem e)) && decide (m.va ≤ h.va ∧ h.va < m.va + m.new)) ||
    (m.root.isNone && f.pom.sbuf.any fun x => decide (m.va ≤ x.1.toNat ∧ x.1.toNat < m.va + m.new))

/-- PAGEM_COMPLETION (R215, R217). -/
def Fab.pagemDone (f : Fab) (k : Nat) : Fab :=
  match mget k f.migs with
  | none => f
  | some m =>
    if (if m.inval then f.pendingIn m else f.pendingAt m.old (2 ^ m.size)) then f.at (f.clock + 1) 0 (.pagemCompletion k)
    else
      { f with migs := mdel k f.migs }.send m.ch
        { w0 := BitVec.ofNat 64 (6 * 2 ^ 56 + 3 * 2 ^ 48 + m.tag.toNat * 2 ^ 32)
          w1 := BitVec.ofNat 64 (if m.inval then m.dropped else 2 ^ m.size) }

/-! ### Writes from outside (R212, R228, R379) -/

/-- Bytes written under the system root by the host or the partner; a byte that does not translate is dropped. -/
def Fab.sysPut (f : Fab) (va : Nat) : List Byte → Fab
  | [] => f
  | b :: bs =>
    match f.sysTranslate .write va with
    | (.ok a, f) => (f.putBytes a [b]).sysPut (va + 1) bs
    | (.error _, f) => f.sysPut (va + 1) bs

/-- The header of a half of a mirror slot (R212). -/
def mirrorHeader (cut : W32) (len : Nat) (crc : W32) (socket x y : Nat) : List Byte :=
  leBytes 4 cut.toNat ++ leBytes 4 len ++ leBytes 4 crc.toNat ++ [1, BitVec.ofNat 8 socket] ++
    leBytes 2 (x * 2 ^ 8 + y) ++ List.replicate 48 0

/-- The half of a mirror slot that a cut's copy goes to, if a byte range behind its header lies in it (R212). -/
def Beryl.half (b : Beryl) (slot : Nat) (cut : W32) (n : Nat) : Option Nat :=
  if b.nslot ≤ slot ∨ b.ssize / 2 < 64 + n then none else some (b.mva.toNat + slot * b.ssize + cut.toNat % 2 * (b.ssize / 2))

/-- Offset of the state byte in a half's header (R212). -/
def mirrorState : Nat := 12

/-- A word that the partner refused: its job, if it still runs, ends with BOUNDS at that word (R211, R213). -/
def Fab.refused (f : Fab) (job va : Nat) : Fab :=
  if pomJobId ≤ job then
    match mget (job - pomJobId) f.pom.jobs with
    | some j => f.cutPJob (job - pomJobId) j 1 ((va - bits (j.w 1) 0 48) / 8)
    | none => f
  else
    let e := job / 4
    let j : Fin 4 := Fin.ofNat 4 job
    let b := f.job e j
    let i := (va - xfVa b.pb) / 8
    if b.live && b.st == .running && b.opc == 0x96 && xfRemote b.pb && decide (i < b.idx) then
      (f.modJob e j fun b => { b with idx := i }).endJob e j .aborted jcBounds
    else f

/-- What comes over Beryl (R211, R212): a mirror copy sets its half's state to 0, writes the data, and then the header with state 1; a word of a
transfer outside the XFER window is refused. -/
def Fab.receive (f : Fab) : Flit → Fab
  | .mirrorBegin slot cut =>
    match f.beryl.half slot cut 0 with
    | some a => f.sysPut (a + mirrorState) [0]
    | none => f
  | .mirrorWord slot cut i bs p =>
    match f.beryl.half slot cut (8 * i + bs.length) with
    | some a =>
      let g := f.sysPut (a + 64 + 8 * i) bs
      if p then
        match g.sysTranslate .write (a + 64 + 8 * i) with
        | (.ok x, g) => g.putPoison x true
        | (.error _, g) => g
      else g
    | none => f
  | .mirrorEnd slot cut socket x y len crc =>
    match f.beryl.half slot cut len with
    | some a => f.sysPut a (mirrorHeader cut len crc socket x y)
    | none => f
  | .xfer job va w p full =>
    let b := f.beryl
    if va < b.xva.toNat ∨ b.xva.toNat + b.xlen < va + 8 then f.berylSend 1 (.refusal job va)
    else match f.sysTranslate .write va with
      | (.ok a, f) =>
        let f := f.putBytes a (leBytes 8 w.toNat)
        let f := if p then f.putPoison a true else f
        if a < hostBase then f.putFull a full else f
      | (.error _, f) => f
  | .refusal job va => f.refused job va
  | .heartbeat _ _ _ => f

/-! ### The instructions -/

/-- GLD_TASK (R193). -/
def execGldTask (d : BitVec 5) (a : BitVec 5) (i : BitVec 14) (s : State) : Host.Outcome State Fault Refusal :=
  pomAccess .read 8 (·.addr a i) (fun x f => f.pomLoad d (f.pom.addr a i) x) s

/-- GST_TASK (R193: posted into the store buffer). -/
def execGstTask (d : BitVec 5) (a : BitVec 5) (i : BitVec 14) (s : State) : Host.Outcome State Fault Refusal :=
  pomAccess .write 8 (·.addr a i) (fun x f =>
    let f := if f.pom.sbuf.isEmpty then f.at (f.clock + 1) 0 .pommelStoreDrain else f
    (f.modPom fun p => { p with sbuf := p.sbuf ++ [(p.addr a i, x, p.r d)] }).taskNext) s

/-- GLDS_TASK (R193). -/
def execGldsTask (d : BitVec 4) (a : BitVec 5) (i : BitVec 14) (s : State) : Host.Outcome State Fault Refusal :=
  pomAccess .acq 8 (·.addr a i) (fun x f => f.pomTake d (f.pom.addr a i) x) s

/-- GSTF_TASK (R193). -/
def execGstfTask (d : BitVec 4) (a : BitVec 5) (i : BitVec 14) (s : State) : Host.Outcome State Fault Refusal :=
  pomAccess .sync 8 (·.addr a i) (fun x f => f.pomGive d x) s

/-- AADD_TASK (R231). -/
def execAaddTask (d : BitVec 5) (a : BitVec 5) (b : BitVec 5) (s : State) : Host.Outcome State Fault Refusal :=
  pomAtomic 0x8B d a b s

/-- AMIN_TASK (R231). -/
def execAminTask (d : BitVec 5) (a : BitVec 5) (b : BitVec 5) (s : State) : Host.Outcome State Fault Refusal :=
  pomAtomic 0x8C d a b s

/-- AMAX_TASK (R231). -/
def execAmaxTask (d : BitVec 5) (a : BitVec 5) (b : BitVec 5) (s : State) : Host.Outcome State Fault Refusal :=
  pomAtomic 0x8D d a b s

/-- AAND_TASK (R231). -/
def execAandTask (d : BitVec 5) (a : BitVec 5) (b : BitVec 5) (s : State) : Host.Outcome State Fault Refusal :=
  pomAtomic 0x8E d a b s

/-- AOR_TASK (R231). -/
def execAorTask (d : BitVec 5) (a : BitVec 5) (b : BitVec 5) (s : State) : Host.Outcome State Fault Refusal :=
  pomAtomic 0x8F d a b s

/-- AXCH_TASK (R231). -/
def execAxchTask (d : BitVec 5) (a : BitVec 5) (b : BitVec 5) (s : State) : Host.Outcome State Fault Refusal :=
  pomAtomic 0x90 d a b s

/-- ACAS_TASK (R231). -/
def execAcasTask (d : BitVec 5) (a : BitVec 5) (b : BitVec 5) (s : State) : Host.Outcome State Fault Refusal :=
  pomAtomic 0x91 d a b s

/-- AFADD_TASK (R231). -/
def execAfaddTask (d : BitVec 5) (a : BitVec 5) (b : BitVec 5) (s : State) : Host.Outcome State Fault Refusal :=
  pomAtomic 0x92 d a b s

/-- FENCE_TASK (R232: the store buffer is empty when it issues; it takes 2 c). -/
def execFenceTask (_s : BitVec 3) (st : State) : Host.Outcome State Fault Refusal :=
  lift (fun f => f.modPom fun p => { p.advance with next := p.next + 2 }) st

/-- RELS_TASK (R233: the store buffer is empty when it issues, and host writes are performed as they are made). -/
def execRelsTask (s : State) : Host.Outcome State Fault Refusal :=
  lift Fab.taskNext s

/-- ACQS_TASK (R233: host writes that arrived are performed). -/
def execAcqsTask (s : State) : Host.Outcome State Fault Refusal :=
  lift Fab.taskNext s

/-- XFER_TASK (R213). -/
def execXferTask (d : BitVec 5) (a : BitVec 5) (s : State) : Host.Outcome State Fault Refusal :=
  pomJob false d a s

/-- MIRR_TASK (R213). -/
def execMirrTask (d : BitVec 5) (a : BitVec 5) (s : State) : Host.Outcome State Fault Refusal :=
  pomJob true d a s

/-- PAGEM (R215). -/
def execPagem (d : BitVec 5) (a : BitVec 5) (s : State) : Host.Outcome State Fault Refusal :=
  lift (fun f =>
    let x := f.pom.r a
    match bufCheck x with
    | some c => f.trapHere c x
    | none => let (v, f) := (f.fixSrams x.toNat 4).pagem fun i => (f.sram64 x i).toNat; f.taskRet d (BitVec.ofNat 64 v) 4) s

/-- POMMEL_STORE_DRAIN (R193, R221: the oldest store is performed). -/
def execPommelStoreDrain (s : State) : Host.Outcome State Fault Refusal :=
  lift (fun f =>
    let f := f.drainStore
    if f.pom.sbuf.isEmpty then f else f.at (f.clock + 1) 0 .pommelStoreDrain) s

/-- POMMEL_JOB_COMPLETION (R213). -/
def execPommelJobCompletion (k : Nat) (s : State) : Host.Outcome State Fault Refusal :=
  lift (fun f => f.pjobDone k) s

/-- MIGRATION_SWEEP (R216). -/
def execMigrationSweep (k : Nat) (s : State) : Host.Outcome State Fault Refusal :=
  lift (fun f => f.sweep k) s

/-- MIGRATION_SWITCH (R216). -/
def execMigrationSwitch (k : Nat) (s : State) : Host.Outcome State Fault Refusal :=
  lift (fun f => f.switchPage k) s

/-- PAGEM_COMPLETION (R215). -/
def execPagemCompletion (k : Nat) (s : State) : Host.Outcome State Fault Refusal :=
  lift (fun f => f.pagemDone k) s

/-- HOST_WRITE (R228). -/
def execHostWrite (addr : W64) (data : List Byte) (s : State) : Host.Outcome State Fault Refusal :=
  lift (fun f => f.sysPut addr.toNat data) s

/-- MIRROR_WRITE_RECEIVE (R211, R212). -/
def execMirrorWriteReceive (flit : Flit) (s : State) : Host.Outcome State Fault Refusal :=
  lift (fun f => f.receive flit) s

end Sys2Proof.Machine
end

