-- ==== Sys2Proof/Machine/Runs.lean ====
section
/-! DEFINITION. Instances and runs: how they start, meet their deadlines, are torn down, are compared and leave their records (spec
01_machine R22-R26, R30, 13_sequencing R328-R334, 14_containment R351, R365, R367-R369). -/

namespace Sys2Proof.Machine

/-! ### Tables and entries -/

/-- Key of a partition's table of a mode, and of the state of one of its entries. -/
def tableKey (p m : Nat) : Nat := 8 * p + m
def entKey (p m e : Nat) : Nat := 512 * tableKey p m + e

/-- A partition. -/
def Fab.part (f : Fab) (p : Nat) : Part := (mget p f.parts).getD {}
/-- The fabric with a partition changed. -/
def Fab.modPart (f : Fab) (p : Nat) (g : Part → Part) : Fab := { f with parts := mput p (g (f.part p)) f.parts }
/-- A partition's table of a mode. -/
def Fab.table (f : Fab) (p m : Nat) : Option Table := mget (tableKey p m) f.tables
/-- An entry of a table. -/
def Fab.entry (f : Fab) (p m e : Nat) : Option Entry := (f.table p m).bind fun t => t.entries[e]?
/-- What the sequencer keeps of an entry. -/
def Fab.ent (f : Fab) (p m e : Nat) : EntSt := (mget (entKey p m e) f.ents).getD {}
/-- The fabric with that changed. -/
def Fab.modEnt (f : Fab) (p m e : Nat) (g : EntSt → EntSt) : Fab := { f with ents := mput (entKey p m e) (g (f.ent p m e)) f.ents }

/-- Block, placement and logical slot of an entry's fallback; nothing where it has none (R323, R346). -/
def Fab.fallbackOf (f : Fab) (p m e : Nat) : Option (Nat × Nat × Fin 4) :=
  let fb := match (f.ent p m e).fb with
    | some x => x
    | none => let t := (f.entry p m e).getD {}; (t.fblock, t.fplace, t.fslot)
  if fb.1 = 255 then none else some fb

/-- Block, placement and slot of an instance. -/
def Fab.instPlace (f : Fab) (i : Inst) : Nat × Nat × Fin 4 :=
  match i.fb with
  | some x => x
  | none => let t := (f.entry i.part i.mode i.entry).getD {}; (t.block, t.place, t.slot)

/-- The tag that an instance runs under (R323): its own, or that of the first valid predecessor's last run. -/
def Fab.instTag (f : Fab) (i : Inst) : BitVec 16 :=
  let t := (f.entry i.part i.mode i.entry).getD {}
  if i.fb.isNone && t.tagSrc == 2 then (t.preds.head?.map fun q => (f.ent i.part i.mode q).lastTag).getD i.tag else i.tag

/-- Is an entry of the safety class, by its own flag or by its partition's (R29, R203, R322, R323; log 27)? -/
def Fab.safetyEntry (f : Fab) (p m e : Nat) : Bool := ((f.entry p m e).getD {}).safety || (f.part p).safety

/-- Regions of a placement of an image, each with the tick of its first row: a start tick and the copy's offset (R24). -/
def Fab.regions (f : Fab) (p m place img start : Nat) : List Copy :=
  let im := (mget img f.images).getD {}
  let os := ((f.table p m).bind fun t => t.places[place]?).getD []
  (os.zip (List.range os.length)).map fun ((x, y), k) =>
    { ox := x, oy := y, cols := im.cols, rows := im.rows, start := start + im.offs.getD k 0 }

/-! ### Events, suspects, safety (R334, R354, R365, R369) -/

/-- A sequencer event on a channel (R334). -/
def Fab.seqEvent (f : Fab) (ch kind p m e : Nat) (tag : BitVec 16) (w2 w3 : Nat) : Fab :=
  f.send ch
    { w0 := BitVec.ofNat 64 (7 * 2 ^ 56 + kind * 2 ^ 48 + p * 2 ^ 40 + m % 8 * 2 ^ 37 + e % 512 * 2 ^ 28 + tag.toNat)
      w1 := BitVec.ofNat 64 (f.ctr p), w2 := BitVec.ofNat 64 w2, w3 := BitVec.ofNat 64 w3 }

/-- A containment event without a row (R354). -/
def Fab.eventAt (f : Fab) (kind : Nat) (e : ElemId) (c p : Nat) (tag : BitVec 16) (cause : Nat) : Fab :=
  f.send 3
    { w0 := BitVec.ofNat 64 (8 * 2 ^ 56 + kind * 2 ^ 48 + xOf e * 2 ^ 42 + yOf e * 2 ^ 37 + c * 2 ^ 35 + p % 8 * 2 ^ 32 + tag.toNat * 2 ^ 16 +
        cause % 256 * 2 ^ 8)
      w3 := BitVec.ofNat 64 (f.ctr p) }

/-- A safety event (R369, R374): SAFEEV, MSI-X vector 1, the event, FAULT_N low. -/
def Fab.safety (f : Fab) (p entry : Nat) (tag : BitVec 16) : Fab :=
  let f := { f with host := { f.host with
    safeev := BitVec.ofNat 64 (2 ^ 63 + p % 8 * 2 ^ 32 + entry % 512 * 2 ^ 16 + tag.toNat), msix := f.host.msix ++ [1], fault := true } }
  f.eventAt 6 0 0 p tag 0

/-- Window exponent of an element's die: 34 with keepers stopped (R365). -/
def Fab.suspectWindow (f : Fab) (e : ElemId) : Nat :=
  match mget (16 * dieOf e) f.keepers with
  | some k => if k.k = 0 then 34 else k.w
  | none => 34

/-- An element marked suspect; the second marking within the window asks for its spare at the next mode-change point (R365). -/
def Fab.suspect (f : Fab) (e : ElemId) (c : Nat) (tag : BitVec 16) : Fab :=
  let p := f.partOfElem e
  let now := f.ctr p
  let again := ((f.elem e).suspectAt).any fun t => decide (now ≤ t + 2 ^ f.suspectWindow e)
  let f := f.eventAt 5 e c p tag (if again then 1 else 0)
  if again then (f.modElem e fun x => { x with suspectAt := none }).modPart p fun q => { q with toSpare := q.toSpare ++ [(e, true)] }
  else f.modElem e fun x => { x with suspectAt := some now }

/-! ### Records (R329, R333) -/

/-- Flags of a record (R333). -/
def faOverrun : BitVec 8 := 1
def faFallback : BitVec 8 := 2
def faHeld : BitVec 8 := 4
def faNotres : BitVec 8 := 8
def faClamp : BitVec 8 := 16
def faFailed : BitVec 8 := 32
def faInherit : BitVec 8 := 64
def faTorn : BitVec 8 := 128
def fbCountPoison : BitVec 8 := 4
def fbCountWait : BitVec 8 := 8

/-- A run with record flags set. -/
def Run.flag (r : Run) (a : BitVec 8) : Run := { r with flagsA := r.flagsA ||| a }

/-- A sum over the copies, saturating. -/
def Run.total (r : Run) (g : Copy → Nat) : Nat := min ((r.copies.map g).foldl (· + ·) 0) (2 ^ 32 - 1)

/-- The 64 bytes of a run's record (R333). -/
def Fab.recordBytes (f : Fab) (r : Run) : List Byte :=
  let first := ((r.copy 0).first).getD r.startTick
  leBytes 1 r.verdict ++ leBytes 1 r.flagsA.toNat ++ leBytes 2 (r.entry % 512 + r.mode % 8 * 2 ^ 9 + r.part % 8 * 2 ^ 12) ++
    leBytes 2 r.tag.toNat ++ leBytes 1 r.img ++ leBytes 1 r.flagsB.toNat ++ leBytes 8 first ++ leBytes 8 (f.ctr r.part) ++
    leBytes 4 (r.total (·.stall)) ++ leBytes 4 (r.total fun k => k.pre + k.thr) ++ leBytes 4 r.n ++ leBytes 4 (min r.discard (2 ^ 32 - 1)) ++
    leBytes 8 r.progress.toNat ++ leBytes 16 (((mget r.img f.images).getD {}).hash.toNat % 2 ^ 128)

/-- Words written full under the system root; a word that does not translate is lost. -/
def Fab.sysPutFull (f : Fab) (va : Nat) : List Byte → Nat → Fab
  | _, 0 => f
  | bs, n + 1 =>
    let f := match f.sysTranslate .write va with
      | (.ok a, f) => ((f.putBytes a (bs.take 8)).putPoison a false).putFull a true
      | (.error _, f) => f
    f.sysPutFull (va + 8) (bs.drop 8) n

/-- The fresh bits of an entry's successors after its result record: set by clean and corrected, and by tainted where the successor runs on
it (R329). -/
def Fab.freshen (f : Fab) (p m e v : Nat) : Fab :=
  match f.table p m with
  | none => f
  | some t =>
    ((t.entries.zip (List.range t.entries.length)).filter fun (x, _) => x.preds.contains e).foldl (fun (f : Fab) (x, k) =>
      if v ≤ 1 then f.modEnt p m k fun s => { s with fresh := mput e false s.fresh }
      else if v = 2 ∧ x.onTainted then f.modEnt p m k fun s => { s with fresh := mput e true s.fresh }
      else f) f

/-- A record written to the ring and followed by its message; its entry's last verdict and the fresh bits of its successors, unless a fallback
is to give the result (R226, R329, R333, R334, R349). -/
def Fab.writeRecord (f : Fab) (r : Run) : Fab :=
  match f.table r.part r.mode with
  | none => f
  | some t =>
    let i := (f.part r.part).records
    let va := t.recva + 64 * (i % 2 ^ t.recn)
    let f := (f.sysPutFull va (f.recordBytes r) 8).modPart r.part fun q => { q with records := i + 1 }
    let late := r.flagsA.getLsbD 0
    let f := f.modEnt r.part r.mode r.entry fun s =>
      { s with last := r.verdict, lastTag := r.tag, lastOver := late, overs := min 65535 (s.overs + if late then 1 else 0) }
    let f := if r.fbStarted then f else f.freshen r.part r.mode r.entry r.verdict
    f.seqEvent 4 1 r.part r.mode r.entry r.tag (r.verdict + r.flagsA.toNat * 2 ^ 8 + r.flagsB.toNat * 2 ^ 16) va

/-! ### Instances (R328-R331) -/

/-- Whether a placement may start a block in a slot: it covers a failed, drain-only or offline element; a slot holds another block; a run is
active there; or it may, in a physical slot (R329). -/
inductive Elig where
  | failed | other | busy | ok (c : Ctx)
  deriving DecidableEq, Repr

/-- Does a slot hold a block of the store? -/
def Fab.holdsBlock (f : Fab) (e : ElemId) (c : Ctx) (img : Nat) : Bool :=
  let s := f.slot e c
  match s.share, mget img f.images with
  | some sh, some im => (s.st == .resident || s.st == .running) && sh.img == img && sh.hash == im.hash
  | _, _ => false

/-- May work be placed on an element? -/
def Fab.usable (f : Fab) (e : ElemId) : Bool := !(f.elem e).failed && (mget (dieOf e) f.dies).isNone

/-- Whether an instance's placement may start now. -/
def Fab.eligible (f : Fab) (i : Inst) : Elig :=
  let (img, place, slot) := f.instPlace i
  let es := (f.regions i.part i.mode place img 0).flatMap Copy.elems
  if es.any fun e => !f.usable e then .failed
  else
    let c := ((f.elem (es.headD 0)).smap).get slot
    if es.isEmpty || es.any (fun e => (f.elem e).smap.get slot != c || !f.holdsBlock e c img) then .other
    else if es.any fun e => (f.slot e c).run.isSome then .busy
    else .ok c

/-- The record of an instance that ends without a start. -/
def Fab.instRun (f : Fab) (i : Inst) : Run :=
  { part := i.part, mode := i.mode, entry := i.entry, img := (f.instPlace i).1, tag := f.instTag i, n := i.n, startTick := i.start, dl := i.dl
    fallback := i.fb.isSome, flagsA := if i.fb.isSome then faFallback else 0 }

/-- An entry's fallback asked for: it starts on this tick without regard to predecessors, its deadline a dline later (R331). -/
def Fab.startFallback (f : Fab) (p m e : Nat) (tag : BitVec 16) : Bool × Fab :=
  match f.fallbackOf p m e, f.entry p m e with
  | some fb, some t =>
    let (k, f) := f.fresh
    let now := f.ctr p
    let i : Inst := { part := p, mode := m, entry := e, start := now, dl := now + t.dline, tag := tag, n := t.fframes, fb := some fb }
    (true, { f with insts := mput k i f.insts }.at f.clock 0 (.runStart p k))
  | _, _ => (false, f)

/-- An instance ended without a start: its record at once with flags and a verdict, and its fallback where asked (R329-R331, R352). -/
def Fab.endInst (f : Fab) (k : Nat) (i : Inst) (a b : BitVec 8) (v : Nat) (fall : Bool) : Fab :=
  let r := { f.instRun i with verdict := v, flagsB := b }
  let r := r.flag a
  let f := { f with insts := mdel k f.insts }
  let (started, f) := if fall && i.fb.isNone then f.startFallback i.part i.mode i.entry r.tag else (false, f)
  f.writeRecord { r with fbStarted := started }

/-- Parameter block of the CMPV rows of an image; nothing where it holds none. -/
def Image.voteBlock (im : Image) : Option (BitVec 256) :=
  im.shares.findSome? fun sh =>
    let ops := sh.op ++ sh.arms.map fun x => x.extractLsb' 32 24
    (ops.find? fun w => fld w 16 8 == 0xDC).map fun w => (mget (fld w 10 6).toNat sh.params).getD 0

/-- An instance that starts: its run holds its regions, and the entry's fresh bits are cleared (R24, R329, R359, R367). -/
def Fab.beginRun (f : Fab) (k : Nat) (i : Inst) (c : Ctx) : Fab :=
  let (img, place, _) := f.instPlace i
  let im := (mget img f.images).getD {}
  let t := (f.entry i.part i.mode i.entry).getD {}
  let st := f.ent i.part i.mode i.entry
  let inherit := i.fb.isNone && t.preds.any fun q => (mget q st.fresh).getD false
  let clamped := i.cnt = .known true
  let r := { f.instRun i with ctx := c, cls := t.cls, safety := f.safetyEntry i.part i.mode i.entry, copies := f.regions i.part i.mode place img i.start, voteBlock := im.voteBlock }
  let r := if inherit then (r.flag faInherit).raise 2 else r
  let r := if clamped then r.flag faClamp else r
  let f := { f with insts := mdel k f.insts, runs := mput k r f.runs }
  let f := if i.fb.isNone then f.modEnt i.part i.mode i.entry fun s => { s with fresh := [] } else f
  (List.range r.copies.length).foldl (fun f n => (r.copy n).elems.foldl (fun (f : Fab) e => f.modSlot e c fun s =>
    { s with st := .running, run := some (k, n), tag := r.tag, sig := 0xFFFFFFFF, sigN := 0, sigP := false
             snap := if im.flags.getLsbD 2 then [{}, {}] else [] }) f) f

/-- Are all fresh bits of an entry set (R329)? -/
def Fab.allFresh (f : Fab) (i : Inst) : Bool :=
  i.fb.isSome || (((f.entry i.part i.mode i.entry).getD {}).preds.all fun q => (mget q (f.ent i.part i.mode i.entry).fresh).isSome)

/-- Does an earlier instance of the entry still wait? -/
def Fab.behind (f : Fab) (k : Nat) (i : Inst) : Bool :=
  i.fb.isNone && f.insts.any fun (j, x) => decide (j < k) && x.fb.isNone && x.part == i.part && x.mode == i.mode && x.entry == i.entry

/-- RUN_START: an instance at or after its start tick starts, goes on waiting, or ends without a start (R329-R331). -/
def Fab.runStart (f : Fab) (k : Nat) : Fab :=
  match mget k f.insts with
  | none => f
  | some i =>
    if f.ctr i.part < i.start then f
    else match f.eligible i with
      | .failed => f.endInst k i faFailed 0 2 true
      | .other => if i.fb.isSome then f.endInst k i faNotres 0 2 false else f
      | .busy => f
      | .ok c =>
        if f.behind k i || !f.allFresh i then f
        else match i.cnt with
          | .known _ => f.beginRun k i c
          | _ => f

/-- The count of an instance once taken: none starts nothing, more than the entry's frames is clamped (R330). -/
def Fab.counted (f : Fab) (k : Nat) (i : Inst) (n : Nat) : Fab :=
  let most := ((f.entry i.part i.mode i.entry).getD {}).frames
  if n = 0 then f.endInst k { i with n := 0 } 0 0 0 false
  else { f with insts := mput k { i with n := min n most, cnt := .known (decide (most < n)) } f.insts }

/-- COUNT_TAKE: the synchronising take of the frame count; it parks while the word is empty, and starts nothing where the word is poisoned or its
address does not translate (R330). -/
def Fab.countTake (f : Fab) (k : Nat) : Fab :=
  match mget k f.insts with
  | none => f
  | some i =>
    let take (va : Nat) : Fab :=
      let p := f.part i.part
      match f.translate (some i.part) p.safety .sync va with
      | (.error xc, f) =>
        let safe := f.safetyEntry i.part i.mode i.entry || !(f.host.features.getD 0).getLsbD 4
        let f := f.send 3
          { w0 := BitVec.ofNat 64 (5 * 2 ^ 56 + 2 * 2 ^ 48 + xc * 2 ^ 29 + (f.instTag i).toNat * 2 ^ 12 + i.part * 2 ^ 9 + (if safe then 2 ^ 8 else 0) + 0x77)
            w1 := BitVec.ofNat 64 (va % 2 ^ 48), w3 := BitVec.ofNat 64 p.ctr }
        f.endInst k i 0 fbCountPoison 2 true
      | (.ok a, f) =>
        let f := f.fixBit a
        if !f.full a then { f with insts := mput k { i with cnt := .parked va } f.insts }
        else
          let bad := f.poisoned a
          let n := f.load a 4
          let f := f.putFull a false
          if bad then f.endInst k i 0 fbCountPoison 2 true else f.counted k i n
    match i.cnt with
    | .take va => take va
    | .parked va => take va
    | .known _ => f

/-- An instance still waiting at its deadline tick (R329-R331): a slot that holds another block gives NOTRES; else it overruns, HELD where fresh
bits kept it back, COUNTWAIT where its take is parked. -/
def Fab.instDeadline (f : Fab) (k : Nat) (i : Inst) : Fab :=
  let wait := match i.cnt with
    | .known _ => 0
    | _ => fbCountWait
  let a := if f.eligible i = .other then faNotres else faOverrun ||| (if f.allFresh i then 0 else faHeld)
  f.endInst k i a wait 2 true

/-! ### Teardown (R204, R263, R331, R332) -/

/-- The teardown token of a region sent back from its last row: stage s is reached S − s ticks later (R332). -/
def Fab.sendTeardown (f : Fab) (rn k lend : Nat) : Fab :=
  let r := f.run rn
  let cp := r.copy k
  let f := f.modRun rn fun r => r.modCopy k fun x => { x with passed := true }
  cp.elems.foldl (fun f e =>
    let sh := (f.slot e r.ctx).share.getD {}
    f.at (max f.clock (lend + sh.stages - sh.stage)) 2 (.teardownToken e r.ctx)) f

/-- The run's jobs at an element end as SABT ends them, without pushes (R204). -/
def Fab.tearJobs (f : Fab) (e : ElemId) (rn : Nat) : Fab :=
  let f := ([0, 1, 2, 3] : List (Fin 4)).foldl (fun f j =>
    let b := f.job e j
    if !b.live || b.run ≠ rn then f
    else
      let f := f.modJob e j fun b => { b with nopush := true }
      if b.st = .stopped ∨ (b.st = .running ∧ b.opc = 0x98) then
        { f with colls := f.colls.filter fun (_, x) => !(x.e == e && x.slot == j) }.endJob e j .aborted jcAborted
      else if b.st = .running then f.abortJob e j
      else f) f
  if (f.elem e).mq.any (·.run == rn) then f.mAbortAll e false else f

/-- Does the element wait for its access before it takes the token? Where the run was torn down, an access that waits for a word's state, a
cinch wait and a fence are cancelled; an access held by its chain alone is still performed (R332). -/
def Fab.tearWaits (f : Fab) (e : ElemId) (c : Ctx) (r : Run) : Bool :=
  match (f.elem e).hold with
  | none => false
  | some h =>
    let waiting := (h.parked && !f.wordReady (fld h.op 16 8).toNat h.loc) || h.kind == HoldKind.fence || (h.kind == HoldKind.cinch && (f.cinch h.h).waits.contains e)
    h.c == c && !(waiting && r.torn != .no)

/-- What an element discards as the token passes: data, port and control tokens held. -/
def Slot.heldTokens (s : Slot) : Nat := (s.lanes.toList.map fun l => l.buf.length).foldl (· + ·) 0

/-- A slot after its run's teardown token; keys that are captured are still written (R319). -/
def Slot.freed (s : Slot) : Slot :=
  { s with lanes := s.lanes.map fun l => { l with buf := [], discard := false, log := none }
           st := .resident, run := none, h := false, fifos := Vector.replicate 6 {}, recq := [], keyq := s.keyq.filter (·.saved.isSome) }

/-- TEARDOWN_TOKEN: the element takes the token, at the end of the tick on which its outstanding access completes (R26, R332). -/
def Fab.teardown (f : Fab) (e : ElemId) (c : Ctx) : Fab :=
  let s := f.slot e c
  match s.run with
  | none => f
  | some (rn, k) =>
    let r := f.run rn
    if !(r.copy k).passed then f
    else if f.tearWaits e c r then f.at (f.clock + 1) 2 (.teardownToken e c)
    else
      let f := match (f.elem e).hold with
        | some h => if h.c = c then
            (if h.kind = HoldKind.cinch then f.setCinch h.h { f.cinch h.h with waits := (f.cinch h.h).waits.filter (· != e) } else f).unhold e
          else f
        | none => f
      let f := f.tearJobs e rn
      let f := f.modRun rn fun r =>
        { r with discard := r.discard + s.heldTokens
                 sigs := if r.voteBlock.isSome then mput (k * 4096 + (r.copy k).index e) (s.sig, s.sigN, s.sigP) r.sigs else r.sigs }
      (f.captureKeys e c).modSlot e c Slot.freed

/-- A run torn down now (R331, R346, R352): the tick before is every copy's last row; its record's flags and verdict; its fallback where it is due.
A vote under way counts as disagreement with neither where the deadline ends it. -/
def Fab.tear (f : Fab) (rn : Nat) (why : Torn) (fall : Bool) : Fab :=
  let r := f.run rn
  let f := f.modRun rn fun r =>
    let r := { r with torn := why }
    match why with
    | .purge => (r.flag faTorn).raise 3
    | .teard => (r.flag faTorn).raise 2
    | _ => (r.flag faOverrun).raise 2
  let f := (List.range r.copies.length).foldl (fun f k => f.sendTeardown rn k (f.clock - 1)) f
  let f := ((List.range r.copies.length).foldl (fun f k => f.abandon rn k) f).endSegments rn
  if fall && !r.fallback && !r.fbStarted then
    let (b, f) := f.startFallback r.part r.mode r.entry r.tag
    f.modRun rn fun r => { r with fbStarted := b }
  else f

/-- Is the run a regeneration? It has no deadline (R306). -/
def Run.ghost (r : Run) : Bool := r.regen.isSome

/-! ### Redundant runs (R367, R368) -/

/-- Shape indices at which two copies of a run disagree. -/
def Run.differ (r : Run) (a b : Nat) : List Nat :=
  (List.range ((r.copy 0).cols * (r.copy 0).rows)).filter fun i =>
    match mget (a * 4096 + i) r.sigs, mget (b * 4096 + i) r.sigs with
    | some (s, n, p), some (t, m, q) => !(s == t && n == m && !p && !q)
    | _, _ => true

/-- The element of a copy at a shape index. -/
def Copy.at (k : Copy) (i : Nat) : ElemId := fieldNo (k.ox + i % max k.cols 1) (k.oy + i / max k.cols 1)

/-- The vote word written full under the partition's root; a fault taints the run with cause XLATE (R368). -/
def Fab.voteWord (f : Fab) (rn : Nat) (w : Nat) : Fab :=
  let r := f.run rn
  match r.voteBlock with
  | none => f
  | some b =>
    let va := pword b 0 + bits (pword b 1) 0 16 * 2 ^ 32
    match f.translate (some r.part) (f.part r.part).safety .write va with
    | (.ok a, f) => ((f.putBytes a (leBytes 8 w)).putPoison a false).putFull a true
    | (.error _, f) => f.modRun rn fun r => (r.raise 2).note spaceJob jcXlate 0 ((r.copy 0).at 0) 0

/-- The outcome of a vote: the word, the verdict, the suspects; without a majority also the fallback and a safety event (R367, R369). -/
def Fab.voteEnd (f : Fab) (rn out : Nat) (ran : Bool) : Fab :=
  let r := f.run rn
  let d := r.differ 0 1
  let f := f.voteWord rn (out + (if ran then 4 else 0) + (if out = 3 then 8 else 0) + d.length % 2 ^ 16 * 2 ^ 16 + d.headD 0 * 2 ^ 32)
  let f := f.modRun rn fun r => { r with vote := 4 }
  if d.isEmpty && out = 0 then f
  else
    let f := f.modRun rn fun r => (r.raise (if out = 3 then 2 else 1)).note spaceRecord 0x0A out ((r.copy 0).at (d.headD 0)) 0
    let all := (r.differ 0 1 ++ r.differ 0 2 ++ r.differ 1 2).eraseDups
    let es := if out = 0 then d.map (r.copy 1).at
      else if out = 1 then d.map (r.copy 0).at
      else [0, 1, 2].flatMap fun k => all.map (r.copy k).at
    let f := es.foldl (fun f e => f.suspect e r.ctx.val r.tag) f
    if out = 3 then
      let f := if r.torn = .no && !r.fallback && !r.fbStarted then
          let (b, f) := f.startFallback r.part r.mode r.entry r.tag
          f.modRun rn fun r => { r with fbStarted := b }
        else f
      f.safety r.part r.entry r.tag
    else f

/-- A region's slots given back without a row: the vote copy that is not needed. -/
def Fab.release (f : Fab) (rn k : Nat) : Fab :=
  let f := f.modRun rn fun r => r.modCopy k fun x => { x with passed := true }
  f.modRegion rn k fun _ s => if s.run = some (rn, k) then { s with st := .resident, run := none } else s

/-- VOTE_COMPARE: copies 0 and 1, or copy 2 with both (R367). -/
def Fab.voteCompare (f : Fab) (rn : Nat) : Fab :=
  let r := f.run rn
  if r.vote = 1 then
    if (r.differ 0 1).isEmpty then (f.voteEnd rn 0 false).release rn 2
    else (f.modRun rn fun r => { r with vote := 2 }).at (f.clock + 4) 0 (.voteCopyStart rn)
  else if r.vote = 3 then
    f.voteEnd rn (if (r.differ 0 2).isEmpty then 0 else if (r.differ 1 2).isEmpty then 1 else 3) true
  else f

/-- VOTE_COPY_START. -/
def Fab.voteCopyStart (f : Fab) (rn : Nat) : Fab :=
  if (f.run rn).vote = 2 then f.modRun rn fun r => r.modCopy 2 fun k => { k with start := f.ctr r.part } else f

/-- May a copy issue rows: it is not a vote copy that has not been called? -/
def Run.live (r : Run) (k : Nat) : Bool := k ≠ 2 || r.voteBlock.isNone || r.vote == 2

/-- Have a copy's elements all taken the token, with no job or command of the run left there? -/
def Fab.copyRetired (f : Fab) (rn k : Nat) : Bool :=
  let r := f.run rn
  (r.copy k).passed && (r.copy k).elems.all fun e =>
    (f.slot e r.ctx).run != some (rn, k) && !(f.elem e).mq.any (·.run == rn) && !(f.elem e).sq.toList.any (fun b => b.live && b.run == rn)

/-- Is the recording of a copy over? -/
def Copy.recOver (k : Copy) : Bool := k.rec_.all (·.over_)

/-- Is a run ready for its record (R333)? -/
def Fab.recordReady (f : Fab) (rn : Nat) : Bool :=
  let r := f.run rn
  !r.ghost && ((List.range r.copies.length).all fun k => f.copyRetired rn k) && (r.copies.all (·.recOver)) &&
    (r.voteBlock.isNone || r.vote == 4 || r.torn != .no)

/-- COMPLETION_RECORD_WRITE: the run's tapes end, its record is written and it is over (R226, R315, R333). -/
def Fab.completeRun (f : Fab) (rn : Nat) : Fab :=
  match mget rn f.runs with
  | none => f
  | some _ =>
    if !f.recordReady rn then f
    else
      let f := f.tapesEnd rn
      let f := f.writeRecord (f.run rn)
      { f with runs := mdel rn f.runs, colls := f.colls.filter fun (_, x) => x.run != rn }

/-- Has a run retired: all its copies have, and its vote is over (R24, R367)? -/
def Fab.retired (f : Fab) (rn : Nat) : Bool :=
  let r := f.run rn
  ((List.range r.copies.length).all fun k => f.copyRetired rn k) && (r.voteBlock.isNone || r.vote == 4)

/-- DEADLINE: a run that has not retired, or an instance still waiting, at its deadline tick, or a teardown asked for on this tick (R331, R346, R352). -/
def Fab.deadline (f : Fab) (k : Nat) : Fab :=
  match mget k f.insts, mget k f.runs with
  | some i, _ => if f.ctr i.part < i.dl then f else f.instDeadline k i
  | none, some r =>
    if r.torn ≠ .no || r.ghost || (r.want == .no && (decide (f.ctr r.part < r.dl) || f.retired k)) then f
    else
      let why := if r.want = .no then .deadline else r.want
      let f := f.tear k why (why != .purge && (why != .teard || r.wantFb))
      if (why = .deadline || why = .tape) && (r.vote = 2 || r.vote = 3) then f.voteEnd k 3 (r.vote == 3 || ((r.copy 2).first).isSome)
      else f
  | none, none => f

/-- What the sequencer owes a run on the tick that begins: its deadline, comparisons of its copies, its record. -/
def Fab.runDue (f : Fab) (rn : Nat) (r : Run) : Fab :=
  let t := f.clock
  if r.ghost then f
  else
    let f := if r.torn = .no && decide (r.dl ≤ f.ctr r.part) && !f.retired rn then f.at t 0 (.deadline rn) else f
    let both := f.copyRetired rn 0 && f.copyRetired rn 1 && (r.copy 0).recOver && (r.copy 1).recOver
    if r.voteBlock.isSome && r.torn = .no && r.vote = 0 && both then
      (f.modRun rn fun r => { r with vote := 1 }).at (f.clock + 15) 0 (.voteCompare rn)
    else if r.torn = .no && r.vote = 2 && f.copyRetired rn 2 && (r.copy 2).recOver then
      (f.modRun rn fun r => { r with vote := 3 }).at (f.clock + 15) 0 (.voteCompare rn)
    else if f.recordReady rn then f.at t 0 (.completionRecordWrite rn)
    else f

/-- What the sequencer owes an instance on the tick that begins. -/
def Fab.instDue (f : Fab) (k : Nat) (i : Inst) : Fab :=
  let t := f.clock
  if i.dl ≤ f.ctr i.part then f.at t 0 (.deadline k)
  else if f.ctr i.part < i.start then f
  else
    let f := match i.cnt with
      | .known _ => f
      | _ => f.at t 0 (.countTake i.part k)
    f.at t 0 (.runStart i.part k)

/-! ### The instructions -/

/-- RUN_START (R329). -/
def execRunStart (p : Nat) (k : Nat) (s : State) : Host.Outcome State Fault Refusal :=
  lift (fun f => if (mget k f.insts).any (·.part == p) then f.runStart k else f) s

/-- COUNT_TAKE (R330). -/
def execCountTake (p : Nat) (k : Nat) (s : State) : Host.Outcome State Fault Refusal :=
  lift (fun f => if (mget k f.insts).any (·.part == p) then f.countTake k else f) s

/-- DEADLINE (R331). -/
def execDeadline (run : Nat) (s : State) : Host.Outcome State Fault Refusal :=
  lift (fun f => f.deadline run) s

/-- TEARDOWN_TOKEN (R26, R332). -/
def execTeardownToken (e : ElemId) (c : Ctx) (s : State) : Host.Outcome State Fault Refusal :=
  lift (fun f => f.teardown e c) s

/-- COMPLETION_RECORD_WRITE (R333). -/
def execCompletionRecordWrite (run : Nat) (s : State) : Host.Outcome State Fault Refusal :=
  lift (fun f => f.completeRun run) s

/-- VOTE_COMPARE (R367). -/
def execVoteCompare (run : Nat) (s : State) : Host.Outcome State Fault Refusal :=
  lift (fun f => f.voteCompare run) s

/-- VOTE_COPY_START (R367). -/
def execVoteCopyStart (run : Nat) (s : State) : Host.Outcome State Fault Refusal :=
  lift (fun f => f.voteCopyStart run) s

end Sys2Proof.Machine
end

