-- ==== Sys2Proof/Machine/Tables.lean ====
section
/-! DEFINITION. What LOADTBL checks of a schedule table against the image store and the field, and the units that loaded tables reserve in
the die buffers (spec 01_machine R17, R24, 02_encoding R52, R53, 08_global R205, R208, R209, 11_transform R280, 13_sequencing R322-R325,
14_containment R350, R359). -/

namespace Sys2Proof.Machine

/-! ### The rejection record (R52) -/

/-- A rejection: cause, ring, column and row in the shape, index, offset (R52, R324). -/
structure Reject where
  cause : Nat
  ring : Nat := 6
  col : Nat := 255
  row : Nat := 255
  index : Nat := 0
  offset : Nat := 0
  deriving DecidableEq, Repr

/-- The record's 16 bytes. -/
def Reject.bytes (r : Reject) : List Byte :=
  leBytes 1 r.cause ++ leBytes 1 r.ring ++ leBytes 1 r.col ++ leBytes 1 r.row ++ leBytes 2 r.index ++ leBytes 2 0 ++ leBytes 4 r.offset ++
    leBytes 4 0

/-- What stands in the record of an accepted image or table (R52). -/
def accepted : Reject := { cause := 0, ring := 0 }

/-- The first failing check. -/
def firstFail (cs : List (Option Reject)) : Option Reject := cs.findSome? id

/-- A failing check. -/
def failIf (b : Bool) (r : Reject) : Option Reject := if b then some r else none

/-! ### Shares as the checks see them -/

/-- Does the share use track 1 of an edge: a source code, a destination bit or a bit of STEER's false mask that is redirected, or a bypass
(R43)? -/
def Share.usesTrack1 (sh : Share) (d : Dir) : Bool :=
  let k := dirIdx d
  let reads (w : BitVec 16) : Bool := (fld w 12 4).toNat == k + 1 || (fld w 8 4).toNat == k + 1
  let steers (w : BitVec 24) : Bool := fld w 16 8 == 0x58 && maskBit (fld w 0 4) d
  let bypass (j : Nat) : Nat := (fld sh.inmap (4 * j) 3).toNat
  (sh.inTrack d == 1 && sh.routeWords.any reads) || (sh.outTrack d == 1 && ((sh.routeWords.any fun w => w.getLsbD (7 - k)) || sh.opWords.any steers)) ||
    bypass k != 0 || ([0, 1, 2, 3] : List Nat).any fun j => bypass j == k + 1

/-- Contents of a LUT bank that the share loads (R103). -/
def Share.bank (sh : Share) (b : Nat) : Option (List W64) :=
  if sh.luts.any fun x => x.1 == b then some ((List.range 256).map fun i => (sh.lutEntry b i).getD 0) else none

/-- A LUT bank or codebook that two shares of one element load with different contents (R103, R280). -/
def Share.clash (x y : Share) : Bool :=
  (([0, 1, 2, 3] : List Nat).any fun b => match x.bank b, y.bank b with
    | some u, some v => u != v
    | _, _ => false) ||
  x.cbs.any fun (n, t, bs) => y.cbs.any fun (m, u, cs) => n == m && (t != u || bs != cs)

/-- Floors of the stream, gather and scatter rows of a share (R209). -/
def Share.floors (sh : Share) : List Nat :=
  sh.opWords.filterMap fun w => let o := (fld w 16 8).toNat; if 0x84 ≤ o ∧ o ≤ 0x87 then some (fld w 0 4).toNat else none

/-- The sum of the four largest numbers. -/
def fourLargest (xs : List Nat) : Nat := ((xs.mergeSort fun a b => decide (b ≤ a)).take 4).foldl (· + ·) 0

/-- Sockets of the cinches that a share's rows name, and the tape numbers of its TAPEB rows (R235, R297). -/
def Share.cinchSockets (sh : Share) : List Nat :=
  sh.opWords.filterMap fun w => let o := (fld w 16 8).toNat
    if 0xC4 ≤ o ∧ o ≤ 0xC8 then some (bits (pword (sh.block w) 0) 8 3) else none
def Share.tapeNos (sh : Share) : List Nat :=
  sh.opWords.filterMap fun w => if fld w 16 8 = 0xCC then some (pword (sh.block w) 0 % 16) else none

/-! ### Placings (R323) -/

/-- A block that an entry places: its image, placement, logical slot, and the offsets in the entry of the block, placement and slot. -/
structure Use where
  img : Nat
  place : Nat
  slot : Fin 4
  imgAt : Nat := 0
  placeAt : Nat := 2
  slotAt : Nat := 4
  deriving DecidableEq, Repr

/-- The blocks that an entry places. -/
def Entry.uses (x : Entry) : List Use :=
  { img := x.block, place := x.place, slot := x.slot } ::
    (if x.fblock = 255 then [] else [{ img := x.fblock, place := x.fplace, slot := x.fslot, imgAt := 1, placeAt := 3, slotAt := 5 }])

/-- The origins of a placing. -/
def Table.origins (t : Table) (u : Use) : List (Nat × Nat) := t.places.getD u.place []

/-- An element of a placing: its coordinates, its place in the shape and its share. -/
structure Cell where
  x : Nat
  y : Nat
  col : Nat
  row : Nat
  sh : Share

/-- The elements of a placing in order of copies and shape index. -/
def Fab.cells (f : Fab) (t : Table) (u : Use) : List Cell :=
  match mget u.img f.images with
  | none => []
  | some im =>
    (t.origins u).flatMap fun (ox, oy) =>
      (im.shares.zip (List.range im.shares.length)).map fun (sh, k) =>
        let c := k % max im.cols 1
        let r := k / max im.cols 1
        ⟨ox + c, oy + r, c, r, sh⟩

/-- The element of a cell. -/
def Cell.elem (c : Cell) : ElemId := fieldNo c.x c.y

/-- Does a cell lie in the field, in a partition, on an element that may hold work (R17, R324)? -/
def Fab.cellOk (f : Fab) (p : Nat) (c : Cell) : Bool :=
  decide (c.x < 60) && decide (c.y < 32) && f.partOfElem c.elem == p && f.usable c.elem

/-- Does an activation of the table load a block into a slot of an element (R327)? -/
def Table.loads (t : Table) (f : Fab) (e : ElemId) (q : Fin 4) : Bool :=
  t.entries.any fun x => x.slot == q && (f.cells t { img := x.block, place := x.place, slot := x.slot }).any (·.elem == e)

/-- Does a slot that the table loads nothing into hold an image that owns a LUT bank or codebook of a share with different contents (R103,
R280; log 22)? -/
def Table.residentClash (t : Table) (f : Fab) (e : ElemId) (l : Fin 4) (sh : Share) : Bool :=
  ([0, 1, 2, 3] : List (Fin 4)).any fun q => q != l && ((f.slot e q).share.any fun y => sh.clash y && !t.loads f e q)

/-- Does a cell use track 1 on an edge of a die boundary (R53)? -/
def Cell.track1 (c : Cell) : Bool := dirs.any fun d => crosses c.elem d && c.sh.usesTrack1 d

/-! ### Die-buffer units (R325, R359) -/

/-- Bytes of all shares of an image. -/
def Image.total (im : Image) : Nat := (im.shares.map (·.bytes)).foldl (· + ·) 0

/-- Units at the top of a die's buffer that tables reserve: the shares of each image whose placement covers the die, packed, and 32 units of
snapshot area for each element and logical slot that hold a snapshot image (R325, R359; log 21). -/
def Fab.unitsFor (f : Fab) (ts : List Table) (d : Nat) : Nat :=
  let us := ts.flatMap fun t => t.entries.flatMap fun x => x.uses.map fun u => (t, u)
  let on := us.filter fun (t, u) => (f.cells t u).any fun c => dieOf c.elem == d
  let imgs := (on.map fun (_, u) => u.img).eraseDups
  let snaps := (on.flatMap fun (t, u) =>
    if ((mget u.img f.images).getD {}).flags.getLsbD 2 then
      ((f.cells t u).filter fun c => dieOf c.elem == d).map fun c => (c.elem, u.slot)
    else []).eraseDups
  ((imgs.map fun k => ((mget k f.images).getD {}).total).foldl (· + ·) 0 + 4095) / 4096 + 32 * snaps.length

/-- The reserved units of every die after the loaded tables change. -/
def Fab.reserve (f : Fab) : Fab :=
  let ts := f.tables.map (·.2)
  { f with dieRes := (List.range 6).filterMap fun d => let n := f.unitsFor ts d; if n = 0 then none else some (d, n) }

/-! ### The checks of an entry (R324) -/

/-- Entries that an entry depends on, near and far; the fuel bounds the walk. -/
def Table.reach (t : Table) : Nat → List Nat → List Nat → List Nat
  | 0, _, seen => seen
  | n + 1, front, seen =>
    let next := (front.flatMap fun q => (t.entries.getD q {}).preds).eraseDups.filter fun q => !seen.contains q
    if next.isEmpty then seen else t.reach n next (seen ++ next)

/-- Regions that the placements named by the first entries define (R24; log 22). -/
def Table.regionCount (t : Table) (n : Nat) : Nat :=
  let ps := ((t.entries.take n).flatMap fun x => x.uses.map (·.place)).eraseDups
  (ps.map fun k => (t.places.getD k []).length).foldl (· + ·) 0

/-- The first cell of a placing that fails a test. -/
def Fab.badCell (f : Fab) (t : Table) (u : Use) (bad : Cell → Bool) (r : Reject) : Option Reject :=
  ((f.cells t u).find? bad).map fun c => { r with col := c.col, row := c.row }

/-- The checks of entry i, in the order of the causes (R324). -/
def Fab.entryCheck (f : Fab) (p : Nat) (t : Table) (i : Nat) (x : Entry) : Option Reject :=
  let rej (cause off : Nat) : Reject := { cause := cause, index := i, offset := 0x100 + 32 * i + off }
  let each (g : Use → Option Reject) : Option Reject := x.uses.findSome? g
  let before := t.entries.take (i + 1)
  let others (c : Cell) (u : Use) : List (Use × Cell) := before.flatMap fun y => y.uses.flatMap fun v =>
    if v.img = u.img ∧ v.slot = u.slot then [] else ((f.cells t v).filter fun b => b.elem == c.elem).map fun b => (v, b)
  firstFail [
    each fun u => match mget u.img f.images with
      | none => some (rej 0x22 u.imgAt)
      | some im => failIf ((t.origins u).length != im.copies) (rej 0x22 u.placeAt),
    each fun u => failIf (((mget u.img f.images).getD {}).home != 255 && ((mget u.img f.images).getD {}).home != u.slot.val) (rej 0x23 u.slotAt),
    each fun u => f.badCell t u (fun c => !f.cellOk p c) (rej 0x23 u.placeAt),
    each fun u => if ((mget u.img f.images).getD {}).flags.getLsbD 2 then
        failIf ((List.range 6).any fun d => decide (16384 < f.unitsFor [{ t with entries := before }] d)) (rej 0x23 u.placeAt)
      else none,
    failIf (decide (64 < t.regionCount (i + 1))) (rej 0x24 2),
    each fun u => f.badCell t u Cell.track1 (rej 0x25 u.placeAt),
    failIf (x.preds.any fun q => decide (t.entries.length ≤ q) || q == i || (!x.trig && (t.entries.getD q {}).trig)) (rej 0x26 24),
    failIf ((t.reach t.entries.length x.preds.eraseDups x.preds.eraseDups).contains i) (rej 0x26 24),
    failIf (!x.trig && (decide (t.major < x.start + x.dline) ||
      t.mcps.any fun m => decide (x.start < m ∧ m < x.start + x.dline))) (rej 0x27 8),
    each fun u => f.badCell t u (fun c => ((others c u).any fun (v, b) => v.slot != u.slot && c.sh.clash b.sh) ||
      t.residentClash f c.elem u.slot c.sh) (rej 0x29 u.placeAt),
    each fun u => f.badCell t u (fun c =>
      let here := before.flatMap fun y => y.uses.flatMap fun v => ((f.cells t v).filter fun b => b.elem == c.elem).map fun b => (v.img, b.col, b.row, b.sh.floors)
      decide (16 < fourLargest (here.eraseDups.flatMap fun (_, _, _, fl) => fl))) (rej 0x2A u.placeAt),
    each fun u => f.badCell t u (fun c => c.sh.cinchSockets.any (fun d => d ≥ 6 || partOf f.pmode d != p) ||
      c.sh.tapeNos.any fun k => decide (16 < k + (t.origins u).length)) (rej 0x2B u.placeAt)]

/-! ### The checks of the other sections (R322, R324) -/

/-- The first window that is empty, leaves the major frame, or overlaps or precedes the one before. -/
def badWindow (major : Nat) : Nat → Nat → List Window → Option Nat
  | _, _, [] => none
  | k, lo, w :: ws => if w.lo < lo ∨ w.hi ≤ w.lo ∨ major < w.hi then some k else badWindow major (k + 1) w.hi ws

/-- The first number of a list that does not rise. -/
def badRise : Nat → List Nat → Option Nat
  | k, a :: b :: xs => if a < b then badRise (k + 1) (b :: xs) else some (k + 1)
  | _, _ => none

/-- Positions of an owner in a channel's slot table. -/
def slotsOf (owner : Nat) (tab : List Byte) : List Nat :=
  ((tab.zip (List.range tab.length)).filter fun (b, _) => b.toNat == owner).map (·.2)

/-- Are there enough slots of an owner, with no gap above a bound, counted cyclically (R208)? -/
def slotsOk (owner least gap : Nat) (tab : List Byte) : Bool :=
  let ps := slotsOf owner tab
  decide (least ≤ ps.length) && (ps.zip (ps.tail ++ (ps.head?.map (· + 2048)).toList)).all fun (a, b) => decide (b ≤ a + gap)

/-- Channels that a partition owns (R205, R339). -/
def channelsOf (mode : Nat) : Nat := 24 / max mode 1

/-- The slot table of the k-th channel. -/
def Table.slotTab (t : Table) (k : Nat) : List Byte := (t.slots.drop (2048 * k)).take 2048

/-- Offsets of the windows, mode-change points, count locations and slot tables. -/
def Table.winAt (t : Table) : Nat := 0x100 + 32 * t.entries.length + 68 * t.places.length
def Table.mcpAt (t : Table) : Nat := t.winAt + 12 * t.wins.length
def Table.cntAt (t : Table) : Nat := t.mcpAt + 4 * t.mcps.length
def Table.slotAt (t : Table) : Nat := t.cntAt + 8 * t.cnts.length

/-- The checks of the windows, mode-change points and slot tables. -/
def Table.tailCheck (t : Table) (mode : Nat) : Option Reject :=
  let slot (k : Nat) : Option Reject :=
    let tab := t.slotTab k
    let rej (o : Nat) : Reject := { cause := 0x28, index := k, offset := t.slotAt + 2048 * k + o }
    firstFail [
      ((tab.zip (List.range 2048)).find? fun (b, _) => decide (0x20 < b.toNat)).map fun (_, o) => rej o,
      failIf (!(slotsOk 0x20 32 64 tab && slotsOk 0x1F 32 64 tab && slotsOk 0x1E 16 128 tab)) (rej 0)]
  firstFail [
    (badWindow t.major 0 0 t.wins).map fun k => { cause := 0x27, index := k, offset := t.winAt + 12 * k },
    (badRise 0 t.mcps).map fun k => { cause := 0x27, index := k, offset := t.mcpAt + 4 * k },
    (List.range (channelsOf mode)).findSome? slot]

/-- The checks of a table whose header and bytes stand: its entries in order, then the other sections. `raw` gives the offset of the first
field of entry i that R323 or R350 does not allow, and `tail` that of a placement, window, mode-change point or count location. -/
def Fab.tableCheck (f : Fab) (p : Nat) (t : Table) (raw : Nat → Option Nat) (tail : Option (Nat × Nat)) : Option Reject :=
  firstFail [
    (t.entries.zip (List.range t.entries.length)).findSome? fun (x, i) =>
      match raw i with
      | some off => some { cause := 0x20, index := i, offset := 0x100 + 32 * i + off }
      | none => f.entryCheck p t i x,
    tail.map fun (k, off) => { cause := 0x20, index := k, offset := off },
    t.tailCheck f.pmode]

end Sys2Proof.Machine
end

