-- ==== Sys2Proof/Machine/Sequencer.lean ====
section
/-! DEFINITION. The sequencer: loads of slots, activation and mode changes, launches, contexts, partitions, dies and spares, and the
instructions 0xE0-0xEB (spec 13_sequencing R326-R349, 14_containment R350-R353, R363; log 23). -/

namespace Sys2Proof.Machine

/-! ### Loading a slot (R82, R159, R162, R164, R337, R345) -/

/-- Depth of the delay queue that a share's DLY rows give; 0 where it has none (R162). -/
def Share.dlyDepth (sh : Share) : Nat :=
  ((sh.opWords.find? fun w => fld w 16 8 == 0x6C).map fun w => (fld w 0 4).toNat + 1).getD 0

/-- Ticks in which a share is loaded (R345). -/
def Share.loadTicks (sh : Share) : Nat := 40 + (sh.bytes + 31) / 32

/-- A share's codebooks put into the codebook SRAM (R50, R280). -/
def Fab.putCodebooks (f : Fab) (e : ElemId) (sh : Share) : Fab :=
  sh.cbs.foldl (fun f (n, ty, bs) =>
    (List.range 256).foldl (fun (f : Fab) i => f.setPoison (cbkTag e ty n i) false) (f.store (cbkPlace e ty n 0 0) bs)) f

/-- A slot whose share is loaded: its state as R82, R159 and R162 give it, its tiles freed, its tokens discarded. -/
def Fab.loadSlot (f : Fab) (e : ElemId) (c : Ctx) (sh : Share) : Fab :=
  let f := f.modElem e fun x => { x with tiles := x.tiles.filter fun (_, t) => t.ctx != c }
  (f.modSlot e c fun s =>
    { dly := List.replicate sh.dlyDepth {}, st := .resident, share := some sh, tag := s.tag }).putCodebooks e sh

/-- Loads begun: each slot LOADING with the share it will hold, the end of each load due. -/
def Fab.beginLoad (f : Fab) (p m e : Nat) (l : Fin 4) (xs : List (ElemId × Ctx × Share)) (ch : Option Nat) : Fab :=
  let (k, f) := f.fresh
  let f := xs.foldl (fun (f : Fab) (x, c, sh) => f.modSlot x c fun s => { s with st := .loading, share := some sh }) f
  let f : Fab := { f with ops := mput k (.load p m e l f.clock (xs.map fun (x, c, _) => (x, c)) ch) f.ops }
  ((xs.map fun (_, _, sh) => sh.loadTicks).eraseDups).foldl (fun (f : Fab) t => f.at (f.clock + t) 0 (.ctxldDone k)) f

/-- The activation tick set once no load of an activation is left: the next multiple of 4096 (R327). -/
def Fab.riseWhenLoaded (f : Fab) (p : Nat) : Fab :=
  let loading := f.ops.any fun (_, o) => match o with
    | .load q _ _ _ _ _ none => q == p
    | _ => false
  match (f.part p).rising with
  | some (m, none) => if loading then f else f.modPart p fun q => { q with rising := some (m, some ((q.ctr / 4096 + 1) * 4096)) }
  | _ => f

/-- CTXLD_DONE: the slots whose share is loaded become RESIDENT; with the last one the event or the activation follows (R345). -/
def Fab.loadDone (f : Fab) (k : Nat) : Fab :=
  match mget k f.ops with
  | some (.load p m e l t0 xs ch) =>
    let share (x : ElemId × Ctx) : Share := (f.slot x.1 x.2).share.getD {}
    let done := xs.filter fun x => decide (t0 + (share x).loadTicks ≤ f.clock)
    let rest := xs.filter fun x => !done.contains x
    let f := done.foldl (fun (f : Fab) x => if (f.slot x.1 x.2).st = .loading then f.loadSlot x.1 x.2 (share x) else f) f
    if rest.isEmpty then
      let f : Fab := { f with ops := mdel k f.ops }
      match ch with
      | some ch => f.seqEvent ch 3 p m e ((f.entry p m e).getD {}).tag (l.val + (xs.head?.map fun x => x.2.val).getD 0 * 2 ^ 8) 0
      | none => f.riseWhenLoaded p
    else { f with ops := mput k (.load p m e l t0 rest ch) f.ops }
  | _ => f

/-! ### Activation and mode changes (R326-R328, R335, R336) -/

/-- A table made active on this tick: its entries as at activation, launched ones armed; the old table's are disarmed and its waiting
periodic instances dropped (R327, R329, R335). -/
def Fab.setActive (f : Fab) (p m : Nat) : Fab :=
  let old := (f.part p).active
  let t := (f.table p m).getD {}
  let gone (i : Inst) : Bool := i.part == p && i.fb.isNone && some i.mode == old && !((f.entry p i.mode i.entry).getD {}).trig
  let f : Fab := { f with
    insts := f.insts.filter fun (_, i) => !gone i
    ents := f.ents.map fun (k, s) =>
      if some (k / 512) = old.map (tableKey p) then (k, { s with armed := none }) else (k, s) }
  let f := (t.entries.zip (List.range t.entries.length)).foldl (fun (f : Fab) (x, i) =>
    f.modEnt p m i fun s => { s with fresh := [], next := 0, overs := 0, armed := if x.trig then some (0, 0, false) else none }) f
  { f with tables := mmod (tableKey p m) (fun t => { t with begun := true }) f.tables }.modPart p fun q =>
    { q with active := some m, base := q.ctr, pend := none }

/-- Instances of the active table's periodic entries whose start tick has come, made to wait (R328, R329); the fuel bounds those of one
entry on one tick. -/
def Fab.periodic (f : Fab) (p m e : Nat) (x : Entry) (major : Nat) : Nat → Fab
  | 0 => f
  | n + 1 =>
    let s := f.ent p m e
    let t := (f.part p).base + s.next * major + x.start
    if f.ctr p < t then f
    else
      let (k, f) := f.fresh
      let va := (((f.table p m).getD {}).cnts).getD x.cnt 0
      let i : Inst := { part := p, mode := m, entry := e, start := t, dl := t + x.dline, tag := x.tag, n := x.frames
                        cnt := if x.indirect then .take va else .known false }
      let f := { f with insts := mput k i f.insts }.modEnt p m e fun s => { s with next := s.next + 1 }
      f.periodic p m e x major n

/-- The periodic instances of a partition that begin to wait on this tick. -/
def Fab.startPeriodic (f : Fab) (p : Nat) : Fab :=
  match (f.part p).active with
  | none => f
  | some m =>
    let t := (f.table p m).getD {}
    (t.entries.zip (List.range t.entries.length)).foldl (fun (f : Fab) (x, e) => if x.trig then f else f.periodic p m e x t.major 4) f

/-- What is due of instances that were not there before. -/
def Fab.newDue (f : Fab) (before : FMap Inst) : Fab :=
  (f.insts.filter fun (k, _) => (mget k before).isNone).foldl (fun (f : Fab) (k, i) => f.instDue k i) f

/-- The first mode-change point of the active table after a counter value. -/
def Fab.pointAfter (f : Fab) (p t : Nat) : Option Nat :=
  let q := f.part p
  (q.active.bind fun m => f.table p m).bind fun x =>
    let j := (t - q.base) / max x.major 1
    ((x.mcps.flatMap fun o => [q.base + j * x.major + o, q.base + (j + 1) * x.major + o]).filter fun y => decide (t < y)).min?

/-- A request for a switch of a partition's mode: 0 requested, 1 no such table, 2 invalid (R335, R345). -/
def Fab.requestSwitch (f : Fab) (p m : Nat) : Nat × Fab :=
  if f.pmode ≤ p ∨ (f.part p).active = none then (2, f)
  else if (f.table p m).isNone then (1, f)
  else (0, f.modPart p fun q => { q with pend := if q.active = some m then none else some m })

/-- TABLE_ACTIVATION (R327). -/
def Fab.riseTable (f : Fab) (p : Nat) : Fab :=
  match (f.part p).rising with
  | some (m, some t) =>
    if f.ctr p < t then f
    else
      let f := (f.setActive p m).modPart p fun q => { q with rising := none, records := 0 }
      let f := f.seqEvent 4 4 p m 0 0 0 0
      (f.startPeriodic p).newDue f.insts
  | _ => f

/-- A table's entries in order, each with the cells of its block that no earlier entry loads in the same slot (R327). -/
def Fab.activationLoads (f : Fab) (t : Table) : List (Nat × Fin 4 × List (ElemId × Share)) :=
  ((t.entries.zip (List.range t.entries.length)).foldl (fun (acc : List (ElemId × Fin 4) × List (Nat × Fin 4 × List (ElemId × Share))) (x, i) =>
    let cs := ((f.cells t { img := x.block, place := x.place, slot := x.slot }).filter fun c => !acc.1.contains (c.elem, x.slot)).map
      fun c => (c.elem, c.sh)
    (acc.1 ++ cs.map fun c => (c.1, x.slot), acc.2 ++ [(i, x.slot, cs)])) ([], [])).2

/-- The activation of a mode's table in an idle partition, or nothing where it is refused (R327); before a table's first activation the slot maps
of the partition's elements go back to the identity (R326; log 23). A block that CTXLD would refuse, for a failed or drain-only element or for
the owner of a LUT bank or codebook, is not loaded (R103, R343; log 22). -/
def Fab.activate (f : Fab) (p m : Nat) : Option Fab :=
  match f.table p m with
  | none => none
  | some t =>
    if (f.part p).rising.isSome || f.runs.any (fun (_, r) => r.part == p && !r.ghost) then none
    else
      let f : Fab := { f with elems := f.elems.map fun (e, x) =>
        (e, if f.partOfElem e = p ∧ !t.begun then { x with smap := #v[0, 1, 2, 3] } else x) }
      let f := f.modPart p fun q => { q with rising := some (m, none) }
      some (((f.activationLoads t).foldl (fun (f : Fab) (i, l, cs) =>
        if cs.isEmpty || cs.any fun (e, sh) => !f.usable e || t.residentClash f e l sh then f
        else f.beginLoad p m i l (cs.map fun (e, sh) => (e, (f.elem e).smap.get l, sh)) none) f).riseWhenLoaded p)

/-- A phase step: the counter moves, and every pending start tick, deadline and boundary with it (R321). -/
def Fab.phaseStep (f : Fab) (p : Nat) : Fab :=
  let s := (f.part p).step
  if s = 0 then f
  else
    let by_ (t : Nat) : Nat := ((t : Int) + s).toNat
    let f := f.modPart p fun q =>
      { q with ctr := by_ q.ctr, base := by_ q.base, step := 0, rising := q.rising.map fun (m, t) => (m, t.map by_) }
    { f with
      insts := f.insts.map fun (k, i) => (k, if i.part = p then { i with start := by_ i.start, dl := by_ i.dl } else i)
      runs := f.runs.map fun (k, r) => (k, if r.part = p ∧ !r.ghost then
        { r with dl := by_ r.dl, startTick := by_ r.startTick, copies := r.copies.map fun x => { x with start := by_ x.start } } else r) }

/-! ### Launches (R344) -/

/-- The count that a launch starts with: its own number, its own location, or its entry's (R330, R343). -/
def Fab.launchCount (f : Fab) (p m e : Nat) (kb : Nat) (byVa : Bool) : Nat × CountSt :=
  let x := (f.entry p m e).getD {}
  let own := (((f.table p m).getD {}).cnts).getD x.cnt 0
  if byVa then (x.frames, .take (if kb = 0 then own else kb))
  else if x.indirect then (x.frames, .take own)
  else (if kb = 0 then x.frames else kb, .known false)

/-- A launch performed now: it starts 12 t and the entry's offset later (R328, R344). -/
def Fab.launch (f : Fab) (p m e : Nat) (kb : Nat) (tag : BitVec 16) (byVa : Bool) : Fab :=
  let x := (f.entry p m e).getD {}
  let (n, cnt) := f.launchCount p m e kb byVa
  let start := f.ctr p + 12 + x.start
  let (k, f) := f.fresh
  { f with insts := mput k { part := p, mode := m, entry := e, start := start, dl := start + x.dline
                             tag := if x.tagSrc = 1 then tag else x.tag, n := n, cnt := cnt } f.insts }

/-- Is a run of an entry active, or a launch of it waiting? -/
def Fab.entryBusy (f : Fab) (p m e : Nat) : Bool :=
  (f.runs.any fun (_, r) => !r.ghost && r.part == p && r.mode == m && r.entry == e) ||
    f.insts.any fun (_, i) => i.part == p && i.mode == m && i.entry == e

/-- The tag that a launch of an entry would have (R323, R350). -/
def Fab.launchTag (f : Fab) (p m e : Nat) (tag : BitVec 16) : BitVec 16 :=
  let x := (f.entry p m e).getD {}
  f.instTag { part := p, mode := m, entry := e, tag := if x.tagSrc = 1 then tag else x.tag }

/-- Partition, mode and entry of an entry reference (R342). -/
def refPart (ka : Nat) : Nat := bits ka 12 3
def refMode (ka : Nat) : Nat := bits ka 9 3
def refEntry (ka : Nat) : Nat := bits ka 0 9

/-- The entry that a reference names. -/
def Fab.entryRef (f : Fab) (ka : Nat) : Option Entry := f.entry (refPart ka) (refMode ka) (refEntry ka)

/-- LNCH and LNCHI at the sequencer (R343, R344, R350). -/
def Fab.lnch (byVa : Bool) (f : Fab) (ka kb : Nat) : Nat × Fab :=
  let (p, m, e) := (refPart ka, refMode ka, refEntry ka)
  let tag := BitVec.ofNat 16 (bits ka 16 16)
  match f.entryRef ka with
  | none => (2, f)
  | some x =>
    let noLoc := byVa && kb == 0 && decide ((((f.table p m).getD {}).cnts).length ≤ x.cnt)
    let badKb := if byVa then kb % 8 != 0 || decide (2 ^ 48 ≤ kb) || noLoc else decide (2 ^ 32 ≤ kb)
    if 2 ^ 32 ≤ ka || badKb || f.launchTag p m e tag == 0 then (2, f)
    else if f.entryBusy p m e then (1, f)
    else if (f.part p).active ≠ some m || !x.trig then (3, f)
    else if ka.testBit 15 then (0, f.modEnt p m e fun s => { s with armed := some (BitVec.ofNat 64 kb, tag, byVa) })
    else (0, f.launch p m e kb tag byVa)

/-- TBLSW (R343, R345). -/
def Fab.tblsw (f : Fab) (ka kb : Nat) : Nat × Fab :=
  if kb ≠ 0 ∨ bits ka 3 5 ≠ 0 ∨ 2 ^ 11 ≤ ka then (2, f) else f.requestSwitch (bits ka 0 3) (bits ka 8 3)

/-! ### Contexts (R337, R338, R343, R345-R349) -/

/-- Does another slot's image of the element hold a LUT bank or codebook of the share with different contents (R103, R280, R324)? -/
def Fab.ownerClash (f : Fab) (e : ElemId) (c : Ctx) (sh : Share) : Bool :=
  ([0, 1, 2, 3] : List Ctx).any fun q => q != c && ((f.slot e q).share.any fun y => sh.clash y)

/-- Does an element have a job that runs or a command for a slot: is the slot not quiescent (R201)? -/
def Fab.engaged (f : Fab) (e : ElemId) (c : Ctx) : Bool :=
  (f.elem e).sq.toList.any (fun b => b.live && b.st == .running && b.c == c) || (f.elem e).mq.any fun k => k.c == c

/-- CTXLD; a slot that an ended run's jobs still use is not replaced before they end (R201, R343, R345; log 23). -/
def Fab.ctxld (f : Fab) (ka kb : Nat) : Nat × Fab :=
  let (p, m, e) := (refPart ka, refMode ka, refEntry ka)
  match f.entryRef ka, f.table p m with
  | some x, some t =>
    if 2 ^ 15 ≤ ka ∨ bits kb 3 5 ≠ 0 ∨ 2 ^ 14 ≤ kb then (2, f)
    else if (mget x.block f.images).isNone then (3, f)
    else
      let l : Fin 4 := if kb.testBit 2 then Fin.ofNat 4 kb else x.slot
      let xs := (f.cells t { img := x.block, place := x.place, slot := l }).map fun c => (c.elem, (f.elem c.elem).smap.get l, c.sh)
      if xs.any fun (y, c, _) => let s := (f.slot y c).st; s == .running || s == .loading || f.engaged y c then (1, f)
      else if xs.any fun (y, c, sh) => !f.usable y || f.ownerClash y c sh then (3, f)
      else (0, f.beginLoad p m e l xs (some (bits kb 8 6)))
  | _, _ => (2, f)

/-- The elements of an entry's placement, each with the physical slot that a logical one maps to, in order of regions and shape. -/
def Fab.slotCells (f : Fab) (ka : Nat) (l : Fin 4) : List (ElemId × Ctx) :=
  let x := (f.entryRef ka).getD {}
  ((f.regions (refPart ka) (refMode ka) x.place x.block 0).flatMap Copy.elems).map fun e => (e, (f.elem e).smap.get l)

/-- The tokens of a slot by lane, in lane order (R338). -/
def Slot.laneCounts (s : Slot) : List (Nat × Nat) := (List.range 16).filterMap fun l =>
  let n := (s.lanes.toList.getD l {}).count
  if n = 0 then none else some (l, n)

/-- What R338 asks of the slots of a placement: retired, queues empty, a replay under way, the slots that hold tokens with the first lane and
the count. -/
structure Drain where
  retired : Bool := true
  queues : Bool := true
  replay : Bool := false
  held : List (ElemId × Ctx × Nat × Nat) := []

/-- The drain state of slots; an EMPTY one reads as drained (R338, R347). -/
def Fab.drainOf (f : Fab) (xs : List (ElemId × Ctx)) : Drain :=
  let xs := xs.filter fun (e, c) => (f.slot e c).st != .empty
  { retired := xs.all fun (e, c) => (f.slot e c).run.isNone
    queues := xs.all fun (e, c) => !(f.elem e).sq.toList.any (fun b => b.live && b.c == c) && !(f.elem e).mq.any fun k => k.c == c
    replay := xs.any fun (e, c) => match (f.slot e c).run with
      | some (r, k) => ((f.run r).copy k).replay.isSome
      | none => false
    held := xs.filterMap fun (e, c) => match (f.slot e c).laneCounts with
      | [] => none
      | ls => some (e, c, (ls.headD (0, 0)).1, (ls.map (·.2)).foldl (· + ·) 0) }

/-- Tokens found, saturating, and the locator of the first lane that holds one (R338). -/
def Drain.tokens (d : Drain) : Nat := min ((d.held.map fun (_, _, _, n) => n).foldl (· + ·) 0) 65535
def Drain.locator (d : Drain) : Nat :=
  match d.held with
  | [] => 0
  | (e, c, l, _) :: _ => xOf e + yOf e * 2 ^ 8 + l * 2 ^ 16 + c.val * 2 ^ 24

/-- The result of DRNQ (R347). -/
def Drain.word (d : Drain) : Nat :=
  let lanes := d.held.isEmpty
  (if d.retired && lanes && d.queues && !d.replay then 1 else 0) + (if d.retired then 2 else 0) + (if lanes then 4 else 0) +
    (if d.queues then 8 else 0) + d.tokens * 2 ^ 16 + d.locator * 2 ^ 32

/-- DRNQ (R347). -/
def Fab.drnq (f : Fab) (ka kb : Nat) : Nat × Fab :=
  if (f.entryRef ka).isNone ∨ 2 ^ 15 ≤ ka ∨ 4 ≤ kb then (2, f) else ((f.drainOf (f.slotCells ka (Fin.ofNat 4 kb))).word, f)

/-- A slot without its tokens. -/
def Slot.flushed (s : Slot) : Slot := { s with lanes := s.lanes.map fun l => { l with pipe := [], buf := [] } }

/-- CTXSW (R348). -/
def Fab.ctxsw (f : Fab) (ka kb : Nat) : Nat × Fab :=
  if (f.entryRef ka).isNone ∨ 2 ^ 15 ≤ ka ∨ bits kb 2 6 ≠ 0 ∨ bits kb 10 6 ≠ 0 ∨ 2 ^ 17 ≤ kb then (2, f)
  else
    let o : Fin 4 := Fin.ofNat 4 (bits kb 0 2)
    let n : Fin 4 := Fin.ofNat 4 (bits kb 8 2)
    let d := f.drainOf (f.slotCells ka o)
    let kd (st : Nat) : Nat := st + d.tokens * 2 ^ 16 + d.locator * 2 ^ 32
    if o == n || (f.slotCells ka n).any fun (e, c) => (f.slot e c).st != .resident then (kd 4, f)
    else if !d.retired || !d.queues then (kd 1, f)
    else if !d.held.isEmpty && !kb.testBit 16 then
      (kd 2, d.held.foldl (fun (f : Fab) (e, c, _, _) => f.modSlot e c fun s => { s with esr := s.esr ||| 0x200 }) f)
    else
      let f := d.held.foldl (fun (f : Fab) (e, c, _, _) => f.modSlot e c Slot.flushed) f
      (kd 0, (f.slotCells ka o).foldl (fun (f : Fab) (e, _) => f.modElem e fun x =>
        { x with smap := (x.smap.set o (x.smap.get n)).set n (x.smap.get o) }) f)

/-- The run of an entry that is not torn down yet. -/
def Fab.activeRun (f : Fab) (ka : Nat) : Option (Nat × Run) :=
  f.runs.find? fun (_, r) => !r.ghost && r.torn == .no && r.part == refPart ka && r.mode == refMode ka && r.entry == refEntry ka

/-- OVRQ, of the entry's most recent run: the one that started last (R349). -/
def Fab.ovrq (f : Fab) (ka kb : Nat) : Nat × Fab :=
  if (f.entryRef ka).isNone ∨ 2 ^ 15 ≤ ka ∨ kb ≠ 0 then (2, f)
  else
    let (p, m, e) := (refPart ka, refMode ka, refEntry ka)
    let s := f.ent p m e
    let run := (f.runs.filter fun (_, r) => !r.ghost && r.part == p && r.mode == m && r.entry == e).getLast?
    let left := match run with
      | some (_, r) => (BitVec.ofInt 32 (clampInt (-(2 ^ 31)) (2 ^ 31 - 1) ((r.dl : Int) - f.ctr p))).toNat + 2 ^ 40
      | none => 0
    let waits := f.insts.any fun (_, i) => i.part == p && i.mode == m && i.entry == e
    (left + s.last % 256 * 2 ^ 32 + (if s.lastOver then 2 ^ 41 else 0) + (if waits then 2 ^ 42 else 0) + min s.overs 65535 * 2 ^ 48, f)

/-- A table with the fallbacks that FBSEL gave its entries, and one more. -/
def Fab.tableWithFallbacks (f : Fab) (p m : Nat) (t : Table) (e : Nat) (fb : Nat × Nat × Fin 4) : Table :=
  { t with entries := (t.entries.zip (List.range t.entries.length)).map fun (x, i) =>
      match (if i = e then some fb else (f.ent p m i).fb) with
      | some (b, q, s) => { x with fblock := b, fplace := q, fslot := s }
      | none => x }

/-- The field of an entry's fallback that R323 does not allow. -/
def Table.badFallback (t : Table) (i : Nat) : Option Nat :=
  let x := t.entries.getD i {}
  if x.fblock = 255 then (if x.fplace = 255 then none else some 3)
  else if t.places.length ≤ x.fplace then some 3
  else if x.fframes = 0 then some 20
  else none

/-- FBSEL: refused as a LOADTBL of the changed table would be (R343, R346). -/
def Fab.fbsel (f : Fab) (ka kb : Nat) : Nat × Fab :=
  let (p, m, e) := (refPart ka, refMode ka, refEntry ka)
  match f.entryRef ka, f.table p m with
  | some _, some t =>
    if 2 ^ 15 ≤ ka ∨ 2 ^ 18 ≤ kb then (2, f)
    else
      let fb := (bits kb 0 8, bits kb 8 8, Fin.ofNat 4 (bits kb 16 2))
      let t := f.tableWithFallbacks p m t e fb
      if (f.tableCheck p t t.badFallback none).isSome then (1, f) else (0, f.modEnt p m e fun s => { s with fb := some fb })
  | _, _ => (2, f)

/-- TEARD: the entry's active run is torn down now (R343, R346). -/
def Fab.teard (f : Fab) (ka kb : Nat) : Nat × Fab :=
  if (f.entryRef ka).isNone ∨ 2 ^ 15 ≤ ka ∨ 2 ≤ kb then (2, f)
  else match f.activeRun ka with
    | none => (1, f)
    | some (k, _) => (0, (f.modRun k fun r => { r with want := .teard, wantFb := kb.testBit 0 }).deadline k)

/-! ### Purge (R352) -/

/-- A run purged now: torn down without a fallback; one already torn down says purged in its record. -/
def Fab.purgeRun (f : Fab) (k : Nat) : Fab :=
  if (f.run k).torn = .no then (f.modRun k fun r => { r with want := .purge }).deadline k
  else f.modRun k fun r => (r.flag faTorn).raise 3

/-- Everything of a tag purged: the number of runs and instances (R352). -/
def Fab.purgeTag (f : Fab) (t : BitVec 16) : Nat × Fab :=
  let is := f.insts.filter fun (_, i) => f.instTag i == t
  let rs := f.runs.filter fun (_, r) => !r.ghost && r.tag == t
  let f := is.foldl (fun (f : Fab) (k, i) => f.endInst k { i with n := 0 } 0 0 3 false) f
  (is.length + rs.length, rs.foldl (fun (f : Fab) (k, _) => f.purgeRun k) f)

/-! ### Partition modes (R17, R339) -/

/-- Ticks of the zeroing of LPDDR6: 120 ms and 230 ms (R339; log 24). -/
def Fab.zeroTicks (f : Fab) : Nat := if f.big then 92000000 else 48000000

/-- The range of a partition in a mode (R339). -/
def Fab.partRange (f : Fab) (mode p : Nat) : Nat × Nat :=
  (p * f.cap / mode, if p + 1 = mode then f.cap - 2 ^ 30 else (p + 1) * f.cap / mode)

/-- Is nothing running, queued, pending or under way (R339)? -/
def Fab.fieldIdle (f : Fab) : Bool :=
  f.insts.isEmpty && f.ops.isEmpty && f.elems.all fun (_, x) =>
    x.mq.isEmpty && !x.sq.toList.any (·.live) && x.slots.toList.all fun s => s.st == .empty || s.st == .resident

/-- A partition-mode change: 0 started, 1 busy, 2 invalid or feature 7 missing; everything but the memory is discarded at once (R339). -/
def Fab.partMode (f : Fab) (mode : Nat) (ch : Option Nat) (tag : Option (BitVec 16)) : Nat × Fab :=
  if !([1, 2, 3, 6].contains mode) || (mode ≠ 1 && !(f.host.features.getD 0).getLsbD 7) then (2, f)
  else if !f.fieldIdle then (1, f)
  else
    let (k, f) := f.fresh
    let f : Fab := { f with
      tables := [], ents := [], images := [], tapes := [], tlb := [], cinches := [], dieRes := []
      ops := mput k (.partm mode ch tag) f.ops
      elems := f.elems.map fun (e, x) => (e, { x with slots := Vector.replicate 4 {}, smap := #v[0, 1, 2, 3] })
      pom := { f.pom with timers := Vector.replicate 16 none } }
    (0, f.at (f.clock + f.zeroTicks) 0 (.partmDone k))

/-- The answer of a command that waited for its end, where one did; a halted Pommel gives none (R119, R131). -/
def Fab.answer (f : Fab) (tag : Option (BitVec 16)) (status : Nat) (result : List Byte) : Fab :=
  match tag with
  | some t => if f.pom.halted then f else f.respond t status result
  | none => f

/-- PARTM_DONE: memory zeroed, the new mode's partitions, the event (R339, R346). -/
def Fab.partModeDone (f : Fab) (k : Nat) : Fab :=
  match mget k f.ops with
  | some (.partm mode ch tag) =>
    let low := f.cap - 2 ^ 30
    let p0 := f.part 0
    let f : Fab := { f with
      ops := mdel k f.ops, pmode := mode, dies := []
      pom := { f.pom with timers := f.pom.timers.map fun t => t.filter fun x => decide (x.part < mode) }
      mem := f.mem.filter fun (a, _) => decide (low ≤ a)
      tags := f.tags.filter fun (a, _) => decide (low / 8 ≤ a)
      parts := (List.range mode).map fun p =>
        let (lo, hi) := f.partRange mode p
        (p, { ctr := p0.ctr, frac := p0.frac, rate := p0.rate, sync := p0.sync, disciplined := p0.disciplined, alim := p0.alim, lo := lo, hi := hi }) }
    let f := match ch with
      | some ch => f.seqEvent ch 5 0 0 0 0 0 0
      | none => f
    f.answer tag 0 []
  | _ => f

/-- PARTM (R343). -/
def Fab.partm (f : Fab) (ka kb : Nat) : Nat × Fab :=
  if 8 ≤ ka ∨ 64 ≤ kb then (2, f) else f.partMode ka (some kb) none

/-! ### A die goes offline (R340) -/

/-- Data homed on a die: kind, element, slot and handle as listed, its tag, length in bytes, place, whether its slot holds a safety-class image. -/
structure Homed where
  kind : Nat
  e : ElemId := 0
  slot : Nat := 0
  handle : Nat := 0
  tag : BitVec 16 := 0
  len : Nat := 0
  at_ : Nat := 0
  safe : Bool := false

/-- Order of evacuation: tiles of safety-class slots, tapes, the rest; then element and handle. -/
def Homed.rank (h : Homed) : Nat := if h.kind = 2 then 1 else if h.safe then 0 else 2
def Homed.before (a b : Homed) : Bool :=
  decide (a.rank < b.rank ∨ (a.rank = b.rank ∧ (a.e < b.e ∨ (a.e = b.e ∧ a.handle ≤ b.handle))))

/-- The data homed on a die, in order of evacuation. -/
def Fab.homedOn (f : Fab) (d : Nat) : List Homed :=
  let tiles := (f.dieElems d).flatMap fun (e, x) => x.tiles.filterMap fun (h, t) =>
    if t.lvl = 3 then none
    else
      let s := x.slot t.ctx
      let im := (mget ((s.share.getD {}).img) f.images).getD {}
      some { kind := t.lvl - 1, e := e, slot := t.ctx.val, handle := h, tag := s.tag, len := t.byteLen, at_ := t.base e
             safe := s.share.isSome && im.flags.getLsbD 0 }
  let tapes := f.tapes.filterMap fun (k, t) =>
    if k / 16 = d ∧ t.lvl = 2 then
      some { kind := 2, e := tapeElem k, handle := k % 16, tag := t.tag, len := f.tpKey k (f.tpKcap k), at_ := dieBase d + 4096 * t.loc }
    else none
  (tiles ++ tapes).mergeSort Homed.before

/-- Offsets in the window of the data that stands behind the list, 64 bytes aligned, and where it ends (log 25). -/
def homedPlaces : Nat → List Homed → List (Homed × Nat) × Nat
  | o, [] => ([], o)
  | o, h :: hs => let (xs, n) := homedPlaces (o + padTo 64 h.len) hs; ((h, o) :: xs, n)

/-- The 32 bytes of a list entry. -/
def Homed.entry (h : Homed) (d va : Nat) : List Byte :=
  leBytes 1 d ++ leBytes 1 (xOf h.e) ++ leBytes 1 (yOf h.e) ++ leBytes 1 h.slot ++ leBytes 2 h.handle ++ leBytes 1 h.kind ++ leBytes 1 0 ++
    leBytes 8 h.len ++ leBytes 8 va ++ leBytes 2 h.tag.toNat ++ leBytes 6 0

/-- The level-3 entry of an address under a root, where the tables above it are there. -/
def Fab.leafPlace (f : Fab) (root : Option Nat) (va : Nat) : Nat → Nat → Option Nat
  | 0, _ => none
  | fuel + 1, table =>
    let level := 3 - fuel
    let (pos, width, _) := levelOf level
    let at_ := table + 8 * (va / 2 ^ pos % 2 ^ width)
    let x := f.pte at_
    if level = 3 then some at_
    else if !x.getLsbD 0 || x.getLsbD 1 then none
    else f.leafPlace root va fuel (x.toNat / 2 ^ 8 * 2 ^ 8)

/-- Pages of the window mapped from the pool, pinned and writable; one that no frame of the pool backs is invalid, STRANDED (R340). -/
def Fab.mapWindow (f : Fab) (p : Nat) (t : Table) (lo hi : Nat) : Fab :=
  (List.range ((hi + 65535) / 65536 - lo / 65536)).foldl (fun (f : Fab) i =>
    let off := (lo / 65536 + i) * 65536
    match (f.rootTable (some p)).bind (f.leafPlace (some p) (t.evva + off) 4) with
    | some a => f.store a (leBytes 8 (if off + 65536 ≤ t.evlen then t.evpa + off + 0xF else 0x102))
    | none => f) f

/-- One word evacuated with its F and poison bits; a word that cannot be read becomes poison, cause STRANDED. -/
def Fab.evacWord (f : Fab) (e : ElemId) (src dst : Nat) : Fab :=
  if f.uncorr src then ((f.store dst (leBytes 8 (poisonOf causeStranded e).toNat)).setTag dst 0).setPoison dst true
  else (f.store dst (f.bytes src 8)).setTag dst (f.tag src % 4)

/-- The evacuation of a die once its runs have retired: its status, the words that do not fit, and the tags of the data they belong to. -/
def Fab.evacuate (f : Fab) (d : Nat) (forced : Bool) : Nat × Nat × List (BitVec 16) × Fab :=
  let p := partOf f.pmode d
  let t := ((f.tables.find? fun (k, _) => k / 8 == p).map (·.2)).getD {}
  let hs := f.homedOn d
  let used := (f.part p).evUsed
  let (xs, stop) := homedPlaces (used + padTo 64 (32 * hs.length)) hs
  if hs.isEmpty then (0, 0, [], f)
  else if t.evlen < stop ∧ !forced then (1, (stop - t.evlen + 7) / 8, [], f)
  else
    let f := f.mapWindow p t used stop
    let f := (xs.zip (List.range xs.length)).foldl (fun (f : Fab) ((h, o), i) =>
      let f := if used + 32 * (i + 1) ≤ t.evlen then f.store (t.evpa + used + 32 * i) (h.entry d (t.evva + o)) else f
      (List.range ((h.len + 7) / 8)).foldl (fun (f : Fab) w =>
        if o + 8 * w + 8 ≤ t.evlen then f.evacWord h.e (h.at_ + 8 * w) (t.evpa + o + 8 * w) else f) f) f
    let lost (h : Homed) (o : Nat) : Nat := (h.len + 7) / 8 - min ((h.len + 7) / 8) ((t.evlen - o) / 8)
    let f := f.modPart p fun q => { q with evUsed := padTo 65536 (min stop t.evlen) }
    (0, (xs.map fun (h, o) => lost h o).foldl (· + ·) 0, ((xs.filter fun (h, o) => lost h o ≠ 0).map fun (h, _) => h.tag).eraseDups, f)

/-- Runs that cover a die. -/
def Fab.runsOnDie (f : Fab) (d : Nat) : List Nat :=
  (f.runs.filter fun (_, r) => r.copies.any fun k => k.elems.any fun e => dieOf e == d).map (·.1)

/-- Is a DOFF, SPARE or PARTM in progress? -/
def Fab.opBusy (f : Fab) : Bool :=
  f.ops.any fun (_, o) => match o with
    | .load .. => false
    | _ => true

/-- A die on its way offline: 0 started, 1 busy, 2 invalid, already offline or feature 9 missing (R340, R343). -/
def Fab.dieOff (f : Fab) (d : Nat) (forced : Bool) (ch : Option Nat) (tag : Option (BitVec 16)) : Nat × Fab :=
  if 6 ≤ d ∨ mget d f.dies = some 2 || !(f.host.features.getD 0).getLsbD 9 then (2, f)
  else if f.opBusy then (1, f)
  else
    let (k, f) := f.fresh
    let f : Fab := { f with dies := mput d 1 f.dies, ops := mput k (.doff d forced ch tag 0 0) f.ops }
    let f := if forced then (f.runsOnDie d).foldl (fun (f : Fab) r => (f.modRun r fun x => { x with want := .teard, wantFb := true }).deadline r) f
      else f
    (0, f.at (f.clock + 1) 0 (.doffDone k))

/-- DOFF_DONE: it waits until every run covering the die has retired; then the evacuation, and the event (R340). -/
def Fab.dieOffDone (f : Fab) (k : Nat) : Fab :=
  match mget k f.ops with
  | some (.doff d forced ch tag _ _) =>
    if !(f.runsOnDie d).isEmpty then f.at (f.clock + 1) 0 (.doffDone k)
    else
      let (st, n, tags, f) := f.evacuate d forced
      let f : Fab := { f with ops := mdel k f.ops, dies := if st = 0 then mput d 2 f.dies else f.dies }
      let f := tags.foldl (fun (f : Fab) t => if t = 0 then f else (f.purgeTag t).2) f
      let f := match ch with
        | some ch => f.seqEvent ch 5 (partOf f.pmode d) 0 0 0 st n
        | none => f
      f.answer tag 0 (leBytes 8 n)
  | _ => f

/-- DOFF (R343). -/
def Fab.doff (f : Fab) (ka kb : Nat) : Nat × Fab :=
  if bits ka 3 5 ≠ 0 ∨ 2 ^ 9 ≤ ka ∨ 64 ≤ kb then (2, f) else f.dieOff (bits ka 0 3) (ka.testBit 8) (some kb) none

/-! ### Hot spares (R341, R363) -/

/-- Runs whose placements cover an element. -/
def Fab.runsAt (f : Fab) (e : ElemId) : List Nat :=
  (f.runs.filter fun (_, r) => !r.ghost && r.copies.any fun k => k.elems.contains e).map (·.1)

/-- An element marked failed: every run that covers it is torn down with its fallback (R341). -/
def Fab.failElem (f : Fab) (e : ElemId) : Fab :=
  let rs := f.runsAt e
  let f := f.modElem e fun x => { x with failed := true }
  rs.foldl (fun (f : Fab) r => (f.modRun r fun x => { x with want := .teard, wantFb := true }).deadline r) f

/-- Ticks of a move to a hot spare (R341; log 24). -/
def spareTicks : Nat := 3400

/-- An element's place taken by its die's hot spare: 0 started, 1 the spare is in use and the element is failed, 3 another such operation is in
progress; without its state where it is not copied (R341, R363). -/
def Fab.toSpare (f : Fab) (e : ElemId) (ch : Option Nat) (copied : Bool) : Nat × Fab :=
  if f.opBusy then (3, f)
  else if (mget (dieOf e) f.spares).isSome then (1, if copied then f.failElem e else f)
  else
    let (k, f) := f.fresh
    (0, { f with ops := mput k (.spare e ch copied) f.ops, spares := mput (dieOf e) e f.spares }.at (f.clock + spareTicks) 0 (.spareDone k))

/-- SPARE_DONE: the spare has taken the coordinate, and a command that the move stopped goes on; the move waits for a command that has not
yet come to its group boundary (R262, R341, R346, R363). -/
def Fab.spareDone (f : Fab) (k : Nat) : Fab :=
  match mget k f.ops with
  | some (.spare e ch copied) =>
    if (f.elem e).node.prg.st = .feeding then f.at (f.clock + 1) 0 (.spareDone k) else
    let f : Fab := { f with ops := mdel k f.ops }
    let f := if copied then f.mUnmove e else f.setElem e {}
    match ch with
    | some ch => f.seqEvent ch 5 (f.partOfElem e) 0 0 0 0 0
    | none => f
  | _ => f

/-- SPARE (R343). -/
def Fab.spare (f : Fab) (ka kb : Nat) : Nat × Fab :=
  let x := bits ka 0 6
  let y := bits ka 8 5
  if bits ka 6 2 ≠ 0 ∨ 2 ^ 13 ≤ ka ∨ 64 ≤ kb ∨ 60 ≤ x then (2, f) else f.toSpare (fieldNo x y) (some kb) true

/-- The spares asked for at a mode-change point; those that another operation holds back wait for the next point (R363, R365). -/
def Fab.sparesDue (f : Fab) (p : Nat) : Fab :=
  let q := f.part p
  q.toSpare.foldl (fun (f : Fab) (e, c) =>
    let (st, f) := f.toSpare e none c
    if st = 3 then f.modPart p fun q => { q with toSpare := q.toSpare ++ [(e, c)] } else f) (f.modPart p fun q => { q with toSpare := [] })

/-- MODE_CHANGE_POINT: the pending switch, the phase step and the spares asked for (R321, R335, R363, R365). -/
def Fab.modePoint (f : Fab) (p : Nat) : Fab :=
  let q := f.part p
  let f := match q.pend with
    | none => f
    | some m =>
      if (f.table p m).isSome then (f.setActive p m).seqEvent 4 2 p m 0 0 (q.active.getD 0 + m * 2 ^ 8) 0
      else f.modPart p fun q => { q with pend := none }
  let f := (f.phaseStep p).sparesDue p
  (f.startPeriodic p).newDue f.insts

/-! ### The instructions -/

/-- A word of form TR (R40). -/
def taskWord (opc : Nat) (d a b : BitVec 5) : BitVec 32 := BitVec.ofNat 8 opc ++ d ++ a ++ b ++ 0#9

/-- TABLE_ACTIVATION (R327). -/
def execTableActivation (p : Nat) (s : State) : Host.Outcome State Fault Refusal :=
  lift (fun f => f.riseTable p) s

/-- MODE_CHANGE_POINT (R321, R335). -/
def execModeChangePoint (p : Nat) (s : State) : Host.Outcome State Fault Refusal :=
  lift (fun f => f.modePoint p) s

/-- CTXLD_DONE (R345). -/
def execCtxldDone (op : Nat) (s : State) : Host.Outcome State Fault Refusal :=
  lift (fun f => f.loadDone op) s

/-- PARTM_DONE (R339). -/
def execPartmDone (op : Nat) (s : State) : Host.Outcome State Fault Refusal :=
  lift (fun f => f.partModeDone op) s

/-- DOFF_DONE (R340). -/
def execDoffDone (op : Nat) (s : State) : Host.Outcome State Fault Refusal :=
  lift (fun f => f.dieOffDone op) s

/-- SPARE_DONE (R341). -/
def execSpareDone (op : Nat) (s : State) : Host.Outcome State Fault Refusal :=
  lift (fun f => f.spareDone op) s

end Sys2Proof.Machine
end

