-- ==== Sys2Proof/Machine/Cuts.lean ====
section
/-! DEFINITION. Containment: marker cuts and rollbacks, configuration reloads, machine checks, keepers, purges, and instructions 0xD4-0xDC
(spec 14_containment R350-R371, 12_tape R309; log 26). -/

namespace Sys2Proof.Machine

/-! ### Lanes of a cut (R358) -/

/-- Does an element lie in the region? -/
def Copy.has (k : Copy) (e : ElemId) : Bool :=
  decide (k.ox ≤ xOf e ∧ xOf e < k.ox + k.cols ∧ k.oy ≤ yOf e ∧ yOf e < k.oy + k.rows)

/-- The used data output tracks of an element that lead into its region: direction, track, link type, receiving element. -/
def Fab.usedOut (f : Fab) (cp : Copy) (e : ElemId) (c : Ctx) : List (Dir × Nat × Ty × ElemId) :=
  let sh := (f.slot e c).share.getD {}
  dirs.flatMap fun d => ([0, 1] : List Nat).filterMap fun t =>
    let ty := sh.outTy.getD (2 * dirIdx d + t) .untyped
    match neighbour e d with
    | some x => if ty ≠ .untyped ∧ cp.has x then some (d, t, ty, x) else none
    | none => none

/-- The tokens of a lane, its pipeline included. -/
def Lane.all (l : Lane) : List Token := l.buf ++ l.pipe.map (·.tok)

/-- The contents of some lanes of a slot. -/
def Slot.contents (s : Slot) (ls : List LaneNo) : FMap (List Token) := ls.map fun l => (l.val, (s.lane l).all)

/-- Control lanes and port lanes. -/
def ctlLanes : List LaneNo := [8, 9, 10, 11]
def portLanes : List LaneNo := [12, 13, 14, 15]

/-! ### Taking a cut (R358, R359, R309) -/

/-- An element's state saved into the half of cut n; its node where the context owns it (R244, R359). -/
def Fab.snapElem (f : Fab) (cp : Copy) (n : W32) (c : Ctx) (e : ElemId) : Fab :=
  let fr := (f.rowOf e c).2
  let tiles := (f.elem e).tiles.filter fun (_, t) => t.ctx == c
  f.modSlot e c fun s =>
    let h : Snap := { cut := n, st := 1, row := cp.g, frame := fr, body := s.toBody, disc := s.lanes.toList.map (·.discard), tiles := tiles
                      logs := s.contents portLanes, ctl := s.contents ctlLanes
                      node := if (f.elem e).mq.any fun m => m.c == c then some (f.elem e).node else none
                      hold := (f.elem e).hold.filter fun h => h.c == c && h.kind == .tapev }
    { s with snap := lset s.snap (n.toNat % 2) h }

/-- A marker sent on a used output track; the lane it enters logs from now on. -/
def Fab.sendMarker (f : Fab) (e : ElemId) (c : Ctx) (n : W32) (d : Dir) (t : Nat) (ty : Ty) (x : ElemId) : Fab :=
  (f.pushLink e c d t { kind := .marker, v := n, ty := ty }).modLane x c (dataLane (oppDir d) t) fun l => { l with log := some [] }

/-- What the cut keeps of the region's tapes (R309). -/
def Fab.cutSave (f : Fab) (cp : Copy) (n : W32) : CutSave :=
  let key := cp.rec_.map (·.key)
  { cut := n, rec_ := cp.rec_, replay := cp.replay, keys := (key.map f.tpKeys).getD 0, flags := (key.map f.tpFlags).getD 0, perf := cp.perf }

/-- The open cut complete once no lane of the region awaits its marker and no half is lost (R358, R359). -/
def Fab.cutCheck (f : Fab) (rn k : Nat) : Fab :=
  let r := f.run rn
  let cp := r.copy k
  match cp.cutOpen with
  | none => f
  | some (n, g) =>
    let half := n.toNat % 2
    let waits := cp.elems.any fun e => (f.slot e r.ctx).lanes.toList.any fun l => l.log.isSome
    let lost := cp.elems.any fun e => ((f.slot e r.ctx).snap.getD half {}).st == 3
    if waits || lost || cp.rollAt.isSome then f
    else
      let f := f.modRegion rn k fun _ s => { s with snap := lset s.snap half { s.snap.getD half {} with st := 2 } }
      f.modRun rn fun r => r.modCopy k fun x =>
        { x with cutOpen := none, cutDone := some (n, g), saves := x.saves.filter fun q => q.cut == n }

/-- A cut taken at the end of the tick on which a row with an issued MARK issued; nothing while one is open. -/
def Fab.takeCut (f : Fab) (rn k : Nat) : Fab :=
  let r := f.run rn
  let cp := r.copy k
  let f := f.modRun rn fun r => r.modCopy k fun x => { x with mark := false }
  if cp.cutOpen.isSome then f
  else
    let n := cp.cutNext
    let save := f.cutSave cp n
    let f := cp.elems.foldl (fun f e => f.snapElem cp n r.ctx e) f
    let f := cp.elems.foldl (fun f e => (f.usedOut cp e r.ctx).foldl (fun f (d, t, ty, x) => f.sendMarker e r.ctx n d t ty x) f) f
    let f := f.modRun rn fun r => r.modCopy k fun x =>
      { x with cutOpen := some (n, cp.g), cutNext := n + 1, saves := x.saves ++ [save] }
    f.cutCheck rn k

/-- MARKER_TAKEN: the marker at the head ends its lane's log and its discard (R141, R142, R358). -/
def Fab.takeMarker (f : Fab) (e : ElemId) (c : Ctx) (l : LaneNo) : Fab :=
  let lane := f.lane e c l
  match lane.buf with
  | t :: ts =>
    if t.kind ≠ .marker then f
    else
      let f := f.modLane e c l fun x => { x with buf := ts, headAt := f.clock + 1, discard := false, log := none }
      match (f.slot e c).run with
      | none => f
      | some (rn, k) =>
        if ((f.run rn).copy k).cutOpen.any fun o => o.1 == t.v then
          let half := t.v.toNat % 2
          let f := f.modSlot e c fun s =>
            let h := s.snap.getD half {}
            { s with snap := lset s.snap half { h with logs := mput l.val (lane.log.getD []) h.logs } }
          f.cutCheck rn k
        else f
  | [] => f

/-! ### Rollback (R357, R360) -/

/-- A containment event of a region, which names no element (R354). -/
def Fab.regionEvent (f : Fab) (kind rn k cause : Nat) : Fab :=
  let r := f.run rn
  f.send 3
    { w0 := BitVec.ofNat 64 (8 * 2 ^ 56 + kind * 2 ^ 48 + r.ctx.val * 2 ^ 35 + r.part % 8 * 2 ^ 32 + r.tag.toNat * 2 ^ 16 + cause * 2 ^ 8)
      w1 := BitVec.ofNat 64 (r.copy k).g, w3 := BitVec.ofNat 64 (f.ctr r.part) }

/-- The halves that a rollback to cut n undoes at an element, the newer first. -/
def Slot.undone (s : Slot) (n : W32) : List Snap :=
  let newer := s.snap.getD ((n.toNat + 1) % 2) {}
  (if newer.st ≠ 0 ∧ newer.cut = n + 1 then [newer] else []) ++ [s.snap.getD (n.toNat % 2) {}]

/-- Entries that an element's logs hold for a rollback. -/
def Slot.logSize (s : Slot) (n : W32) : Nat := ((s.undone n).map fun h => h.elog.length).foldl (· + ·) 0

/-- A rollback begins: jobs and commands end as at teardown, the region is frozen for 64 t and a tick for each log entry (R360). -/
def Fab.beginRollback (f : Fab) (rn k : Nat) (n : W32) : Fab :=
  let f := f.regionEvent 7 rn k 0
  let r := f.run rn
  let cp := r.copy k
  let most := ((cp.elems.map fun e => (f.slot e r.ctx).logSize n).max?).getD 0
  let done := f.clock + 65 + most
  let f := cp.elems.foldl (fun f e =>
    let f := f.tearJobs e rn
    match (f.elem e).hold with
    | some h => if h.c = r.ctx ∧ h.kind = .tapev then f.unhold e else f
    | none => f) f
  let f := f.modRun rn fun r => { r with rollbacks := r.rollbacks + 1 }.modCopy k fun x =>
    { x with rolled := some n, replayTo := some cp.evRow, frozen := max x.frozen done, rollAt := some done, mark := false }
  f.at done 0 (.rollback rn k)

/-- Does a restore wait: for an access of the context, a job or command of the run, a reload? -/
def Fab.rollWaits (f : Fab) (rn : Nat) (r : Run) (e : ElemId) : Bool :=
  ((f.elem e).hold.any fun h => h.c == r.ctx) || (f.elem e).mq.any (·.run == rn) ||
    (f.elem e).sq.toList.any (fun b => b.live && b.run == rn) || (f.slot e r.ctx).reload.isSome

/-- The old words of a log put back, with F and poison. -/
def Fab.applyLog (f : Fab) (e : ElemId) (h : Snap) : Fab :=
  h.elog.foldl (fun f (w, v, full, p) =>
    let a := elemBase e + 8 * w
    ((f.putBytes a (leBytes 8 v.toNat)).setPoison a p).setFull a full) f

/-- A lane refilled. -/
def refilled (now : Nat) (ts : List Token) (discard : Bool) : Lane := { buf := ts, headAt := now, discard := discard }

/-- A slot restored to the half of cut n. -/
def Slot.restored (s : Slot) (now : Nat) (n : W32) : Slot :=
  let half := n.toNat % 2
  let h := s.snap.getD half {}
  let lanes := Vector.ofFn fun l : Fin 16 =>
    refilled now ((mget l.val (if 8 ≤ l.val ∧ l.val < 12 then h.ctl else h.logs)).getD []) (h.disc.getD l.val false)
  { s with toBody := h.body, lanes := lanes, tapeIdx := (h.hold.bind fun x => x.aux.head?).getD 0
           snap := lset (lset s.snap half { h with elog := [] }) ((n.toNat + 1) % 2) {} }

/-- The entry of a saved tile-table entry: a tile that was moved since stays where its storage is (R172, R360; log 26). -/
def Tile.restored (t : Tile) : Option Tile → Tile
  | some now => { t with lvl := now.lvl, loc := now.loc, len := now.len, lastUse := now.lastUse }
  | none => t

/-- An element's part of a restore; a TAPEV.v1 that was under way goes on (R309, R360). -/
def Fab.restoreElem (f : Fab) (n : W32) (c : Ctx) (e : ElemId) : Fab :=
  let s := f.slot e c
  let f := (s.undone n).foldl (fun f h => f.applyLog e h) f
  let h := s.snap.getD (n.toNat % 2) {}
  let f := f.modElem e fun x =>
    { x with tiles := h.tiles.foldl (fun m (k, t) => mput k (t.restored (mget k x.tiles)) m) (x.tiles.filter fun (_, t) => t.ctx != c), node := h.node.getD x.node }
  let f := f.modSlot e c fun s => s.restored f.clock n
  let f := match h.hold with
    | some q => (f.hold e q (f.clock + 1)).at (f.clock + 1) 0 (.scalarAccessCompletion e)
    | none => f
  (f.slot e c).keyq.foldl (fun f q => if q.saved.isSome then f.at (max q.due f.clock) 0 (.tapeKeyWrite e c) else f) f

/-- The recorded tape cut back at a shape element to its restored stream tails (R309). -/
def Fab.cutTape (f : Fab) (key : Nat) (i : Nat) (now old : TPos) : Fab :=
  let f := f.cutStream key now.v.ch old.v.ch old.v.pos
  let f := f.cutStream key now.b.ch old.b.ch old.b.pos
  let f := if old.b.ch = 65535 then f else f.tapePut key (f.tpChunk key old.b.ch + 7 + old.b.pos) (leBytes 1 old.b.run)
  f.modTape key fun t =>
    { t with marks := mput i (((mget i t.marks).getD []).filter fun (_, v, b) => decide (v.n ≤ old.v.n ∧ b ≤ old.b.n)) t.marks }

/-- The tape of a recording region as at the cut; a tape opened since is gone (R309). -/
def Fab.restoreRec (f : Fab) (cp : Copy) (q : CutSave) (c : Ctx) (was : ElemId → TPos) : Fab :=
  let f := match cp.rec_ with
    | some w => if q.rec_.any (fun x => x.key == w.key && x.since == w.since) then f else { f with tapes := mdel w.key f.tapes }
    | none => f
  match q.rec_ with
  | none => f
  | some w =>
    if w.over_ then f
    else
      let f := cp.elems.foldl (fun f e => f.cutTape w.key (cp.index e) (was e) (f.slot e c).tp) f
      let f := (f.tapePut w.key 4 [0]).tapePut w.key 6 (leBytes 1 q.flags)
      let f := (f.tapePut w.key 0x10 (leBytes 4 (w.ovf.getD 0xFFFFFFFF))).tapePut w.key 0x1E (leBytes 2 q.keys)
      f.modTape w.key fun t => { t with openRec := true }

/-- The replay of a region as at the cut; a segment that has made room for another is generated anew when it is next needed (R309). -/
def Fab.restoreReplay (f : Fab) (rn k : Nat) (cp : Copy) (q : CutSave) (c : Ctx) : Fab :=
  let f := match cp.replay.bind (·.seg) with
    | some (_, _, some pr) => f.endSegment pr
    | _ => f
  match q.replay, cp.replay with
  | none, some p =>
    match p.key with
    | some key => f.modTape key fun t => { t with replayed := false }
    | none => f
  | some p, now =>
    let kept := now.any fun x => x.regens == p.regens && (match x.seg with
      | some (_, _, some _) => false
      | _ => true)
    let left := cp.elems.map fun e => (cp.index e, (f.slot e c).tp.r.n)
    match p.key with
    | some key =>
      if kept || left.all fun x => x.2 == 0 then f.modReplay rn k fun x => { x with seg := none }
      else
        let hi := ((f.segmentOf key cp (f.tapeSlot cp p.slot) p.next).map (·.2)).getD p.next
        let f := f.modRegion rn k fun _ s => { s with tp := { s.tp with r := {} } }
        f.modReplay rn k fun x => { x with seg := none, next := hi + 1, drop := left }
    | none => f
  | none, none => f

/-- The region restored to cut n (R360). -/
def Fab.restoreCut (f : Fab) (rn k : Nat) (n : W32) (g : Nat) : Fab :=
  let r := f.run rn
  let cp := r.copy k
  let before := f
  let q := (cp.saves.find? fun q => q.cut == n).getD { cut := n }
  let f := cp.elems.foldl (fun f e => f.restoreElem n r.ctx e) f
  let f := f.modRun rn fun r => r.modCopy k fun x =>
    { x with g := g + 1, issued := false, cutOpen := none, cutNext := n + 1, rollAt := none, saves := [q], rec_ := q.rec_
             replay := q.replay, perf := q.perf, held := x.held.filter fun h => decide (h.1 ≤ g) }
  let f := f.restoreRec cp q r.ctx fun e => (before.slot e r.ctx).tp
  f.restoreReplay rn k cp q r.ctx

/-- ROLLBACK of a region: the decision of R357 on the event's tick, and the restore when it is due (R360). -/
def Fab.rollback (f : Fab) (rn k : Nat) : Fab :=
  match mget rn f.runs with
  | none => f
  | some r =>
    let cp := r.copy k
    if r.torn ≠ .no then f
    else match cp.rollAt, cp.cutDone with
      | some t, some (n, g) =>
        if f.clock < t then f
        else if cp.elems.any fun e => f.rollWaits rn r e then
          (f.modRun rn fun r => r.modCopy k fun x => { x with frozen := max x.frozen (f.clock + 1) }).at (f.clock + 1) 0 (.rollback rn k)
        else f.restoreCut rn k n g
      | some _, none => f
      | none, done =>
        match done.filter fun d => cp.rolled ≠ some d.1 with
        | some (n, _) => f.beginRollback rn k n
        | none =>
          if cp.replayTo.isSome then ((f.regionEvent 7 rn k 2).purgeTag r.tag).2
          else f.modRun rn fun r => r.raise 2

/-- The end of a tick on which a region issued its row: the cut asked for, and the replay window's last row passed (R358, R360). -/
def Fab.rowEnds (f : Fab) (rn k : Nat) : Fab :=
  let cp := (f.run rn).copy k
  let f := if cp.mark then f.takeCut rn k else f
  match cp.replayTo with
  | some g =>
    if g ≤ cp.g ∧ cp.rollAt.isNone then
      let f := f.modRun rn fun r => ((r.raise 1).note spaceRecord 0x0E 0 0 0).modCopy k fun x => { x with replayTo := none }
      f.regionEvent 7 rn k 1
    else f
  | none => f

/-! ### Configuration stores, machine checks (R362, R363) -/

/-- CONFIG_RELOAD: an uncorrectable word of a slot's share. The regions that run the slot are frozen while the share is loaded again
from the die-buffer copy; the second time the share stands and the verdict is at least corrected (R362). -/
def Fab.configReload (f : Fab) (e : ElemId) (c : Ctx) : Fab :=
  let s := f.slot e c
  match s.share with
  | none => f
  | some sh =>
    match s.reload with
    | none =>
      let t := f.clock + sh.loadTicks
      let f := f.modSlot e c fun s => { s with reload := some t }
      let f := match s.run with
        | some (rn, k) => f.modRun rn fun r => r.modCopy k fun x => { x with frozen := max x.frozen t }
        | none => f
      f.at t 0 (.configReload e c)
    | some t =>
      if f.clock < t then f
      else
        let f := (f.putCodebooks e sh).modSlot e c fun s => { s with reload := none }
        match s.run with
        | some (rn, _) => (f.event 3 e c (f.run rn) 0 0).modRun rn fun r => (r.raise 1).note spaceRecord 0x0D 0 e 0
        | none => f.eventAt 3 e c.val (f.partOfElem e) s.tag 0

/-- MACHINE_CHECK: runs that cover the element are purged, it is failed, its die's spare takes the place at the next mode-change point. What
failed and where is the part's to report: free values (R363, R371). -/
def Fab.machineCheck (f : Fab) (e : ElemId) : Fab :=
  let p := f.partOfElem e
  let (a, f) := f.draw
  let (b, f) := f.draw
  let f := f.send 3
    { w0 := BitVec.ofNat 64 (8 * 2 ^ 56 + 4 * 2 ^ 48 + xOf e * 2 ^ 42 + yOf e * 2 ^ 37 + p % 8 * 2 ^ 32)
      w1 := BitVec.ofNat 64 (a.toNat % 2 ^ 32 + (1 + bits a.toNat 32 8 % 9) * 2 ^ 32 + bits a.toNat 40 8 * 2 ^ 40)
      w2 := BitVec.ofNat 64 (b.toNat % 2 ^ 17), w3 := BitVec.ofNat 64 (f.ctr p) }
  let rs := f.runsAt e
  let f := f.modElem e fun x => { x with failed := true }
  let f := rs.foldl (fun f rn => (f.modRun rn fun r => r.note spaceRecord 0x0C 0 e 0).purgeRun rn) f
  if (mget (dieOf e) f.spares).isSome then f else f.modPart p fun q => { q with toSpare := q.toSpare ++ [(e, false)] }

/-! ### Keepers (R364-R366) -/

/-- KEEPER_ADVANCE of a local row of a die. -/
def Fab.keeperAdvance (f : Fab) (die r : Nat) : Fab :=
  { f with keepers := mmod (16 * die + r) (fun k => if k.k = 0 then k else { k with col := (k.col + 1) % 20 }) f.keepers }

/-- KEEPER_COMPARE: results and flags compared; a mismatch taints the run and marks the element suspect (R364, R365). -/
def Fab.keeperCompare (f : Fab) (n : Nat) : Fab :=
  match mget n f.keepq with
  | none => f
  | some x =>
    let f : Fab := { f with keepq := mdel n f.keepq }
    if x.row = x.own then f
    else
      let tag := match mget x.run f.runs with
        | some r => r.tag
        | none => (f.slot x.e x.c).tag
      (f.modRun x.run fun r => (r.raise 2).note spaceRecord 0x0B 0 x.e 0).suspect x.e x.c.val tag

/-- KEEPC at the sequencer (R366). -/
def Fab.keepc (f : Fab) (ka _kb : Nat) : Nat × Fab :=
  let die := bits ka 0 3
  let k := bits ka 8 5
  let w := bits ka 16 6
  if 2 ^ 22 ≤ ka ∨ bits ka 3 5 ≠ 0 ∨ bits ka 13 3 ≠ 0 ∨ 6 ≤ die ∨ (k ≠ 0 ∧ (k < 10 ∨ 30 < k)) ∨ w < k + 5 ∨ 40 < w then (2, f)
  else if !(f.host.features.getD 0).getLsbD 3 then (3, f)
  else
    (0, { f with keepers := (List.range 16).foldl (fun m r =>
      if k = 0 then mdel (16 * die + r) m else mput (16 * die + r) { k := k, w := w } m) f.keepers })

/-! ### Purge and verdicts on Pommel (R353, R370) -/

/-- PURGE at the sequencer: the runs and instances purged, all ones of bit 63 where the tag is no tag. -/
def Fab.purgeTask (f : Fab) (ka _kb : Nat) : Nat × Fab :=
  if ka = 0 ∨ 2 ^ 16 ≤ ka then (2 ^ 63, f)
  else let (n, f) := f.purgeTag (BitVec.ofNat 16 ka); (min n (2 ^ 32 - 1), f)

/-- VERD at the sequencer: the verdict of the entry's active run, the one that started last, raised where asked, or that of its last record. -/
def Fab.verdTask (f : Fab) (ka kb : Nat) : Nat × Fab :=
  if (f.entryRef ka).isNone ∨ 2 ^ 15 ≤ ka ∨ 3 ≤ kb then (0x200, f)
  else match (f.runs.filter fun (_, r) => !r.ghost && r.part == refPart ka && r.mode == refMode ka && r.entry == refEntry ka).getLast? with
    | some (k, r) => (r.verdict, f.modRun k fun r => r.raise kb)
    | none => ((f.ent (refPart ka) (refMode ka) (refEntry ka)).last + 256, f)

/-! ### Rows of the chapter (R356, R361, R368, R370) -/

/-- The value that SNAPQ selects. -/
def Row.snapq (r : Row) : W32 :=
  let cp := r.cp
  if !r.sh.flags.getLsbD 2 then 0
  else match r.sub with
    | 0 => (cp.cutDone.map (·.1)).getD 0
    | 1 => BitVec.ofNat 32 ((cp.cutDone.map (·.2)).getD 0)
    | 2 =>
      let lost := r.sl.snap.any fun h => h.st == 3
      let pend := (r.sl.lanes.toList.filter fun l => l.log.isSome).length
      BitVec.ofNat 32 ((if cp.cutOpen.isSome then 1 else 0) + (if lost then 2 else 0) + (if cp.replayTo.isSome then 4 else 0) + pend % 16 * 2 ^ 8)
    | _ => sat32 r.run.rollbacks

/-- MARK that executes: it asks for a cut at the end of the tick; not in a regeneration (R358). -/
def Row.mark (r : Row) : Fab :=
  if r.regen then r.taken else r.taken.modRun r.runId fun x => x.modCopy r.copyNo fun k => { k with mark := true }

/-- POISQ's value (R356). -/
def Row.poisq (r : Row) : Fab := r.giveN (if r.a.p then r.a.v else 0)

/-- VERD on an element that executes (R370). -/
def Row.verd (r : Row) : Fab :=
  (r.giveN (BitVec.ofNat 32 r.run.verdict)).modRun r.runId fun x => x.raise r.sub

/-- CMPV that executes: A folded into the element's signature and delivered (R367, R368). -/
def Row.cmpv (r : Row) : Fab :=
  let a := r.a
  (r.give a r.taken).modSlot r.e r.c fun s =>
    { s with sig := crcUpdate s.sig (leBytes 4 a.v.toNat), sigN := s.sigN + 1, sigP := s.sigP || a.p }

/-! ### The instructions -/

/-- MARK: a cut at the end of the tick (R358, R361); that no job or command of the region stands is the region's to wait for. -/
def execMark (wr : Wires) (s : State) : Host.Outcome State Fault Refusal :=
  planRow (opWord (.mark wr)) wr Row.mark s

/-- SNAPQ (R361). -/
def execSnapq (u : BitVec 4) (wr : Wires) (s : State) : Host.Outcome State Fault Refusal :=
  planRow (opWord (.snapq u wr)) wr (fun r => r.giveN r.snapq) s

/-- RTAG (R370). -/
def execRtag (wr : Wires) (s : State) : Host.Outcome State Fault Refusal :=
  planRow (opWord (.rtag wr)) wr (fun r => r.giveN (r.run.tag.zeroExtend 32)) s

/-- POISN (R356). -/
def execPoisn (u : BitVec 4) (wr : Wires) (s : State) : Host.Outcome State Fault Refusal :=
  planRow (opWord (.poisn u wr)) wr (fun r => r.give ⟨poisonOf r.sub r.e, true, r.resTy .n32⟩ r.taken) s

/-- POISQ (R356). -/
def execPoisq (wr : Wires) (s : State) : Host.Outcome State Fault Refusal :=
  planRow (opWord (.poisq wr)) wr Row.poisq s

/-- VERD on an element (R370). -/
def execVerd (u : BitVec 4) (wr : Wires) (s : State) : Host.Outcome State Fault Refusal :=
  planRow (opWord (.verd u wr)) wr Row.verd s

/-- CMPV (R367, R368). -/
def execCmpv (b : BitVec 6) (wr : Wires) (s : State) : Host.Outcome State Fault Refusal :=
  planRow (opWord (.cmpv b wr)) wr Row.cmpv s

/-- MARKER_TAKEN (R141, R358). -/
def execMarkerTaken (e : ElemId) (c : Ctx) (l : LaneNo) (s : State) : Host.Outcome State Fault Refusal :=
  lift (fun f => f.takeMarker e c l) s

/-- KEEPER_ADVANCE (R364). -/
def execKeeperAdvance (die : Nat) (r : Nat) (s : State) : Host.Outcome State Fault Refusal :=
  lift (fun f => f.keeperAdvance die r) s

/-- KEEPER_COMPARE (R364). -/
def execKeeperCompare (k : Nat) (s : State) : Host.Outcome State Fault Refusal :=
  lift (fun f => f.keeperCompare k) s

/-- ROLLBACK (R357, R360). -/
def execRollback (run : Nat) (copy : Nat) (s : State) : Host.Outcome State Fault Refusal :=
  lift (fun f => f.rollback run copy) s

/-- CONFIG_RELOAD (R362). -/
def execConfigReload (e : ElemId) (c : Ctx) (s : State) : Host.Outcome State Fault Refusal :=
  lift (fun f => f.configReload e c) s

/-- MACHINE_CHECK (R363). -/
def execMachineCheck (e : ElemId) (s : State) : Host.Outcome State Fault Refusal :=
  lift (fun f => f.machineCheck e) s

end Sys2Proof.Machine
end

