-- ==== Sys2Proof/Machine/Package.lean ====
section
/-! DEFINITION. Power-up, throttle levels, sensor frames, lost dies, Beryl heartbeats and the takeover (spec 05_taskcore R129, R133,
08_global R190, 13_sequencing R336, 15_package R372-R381; log 28). -/

namespace Sys2Proof.Machine

/-! ### Power-up (R14, R133, R190) -/

/-- The outcome of each fabric die; one not given is without failures. -/
def sixOutcomes (xs : List SelfTest) : List SelfTest := (xs ++ List.replicate 6 SelfTest.good).take 6

/-- POWER_UP: with good helper data the spares are assigned and the part is READY over an empty system table; else it has FAILED (R133,
R190). -/
def Fab.powerUp (f : Fab) (helper : Bool) (outcomes : List SelfTest) : Fab :=
  if f.host.partState ≠ 0 then f
  else if !helper then { f with host := { f.host with partState := 2 } }
  else
    let os := sixOutcomes outcomes
    { f with
      host := { f.host with partState := 1, selfTest := os }
      spares := (os.zip (List.range 6)).foldl (fun m (o, d) => match o with
        | .replaced e => mput d e m
        | _ => m) f.spares
      sysRoot := some (f.cap - 2 ^ 30) }

/-! ### Throttle (R129, R336) -/

/-- THROTTLE_LEVEL_APPLY: level 7 asks for the partition's safe mode. -/
def Fab.applyThrottle (f : Fab) (d : Nat) : Fab :=
  let l := (f.block d).want
  let f := f.modBlock d fun b => { b with eff := l }
  let p := partOf f.pmode d
  if l ≠ 7 then f
  else match (f.part p).active.bind (f.table p) with
    | some t => if t.safe = 255 then f else (f.requestSwitch p t.safe).2
    | none => f

/-! ### Sensor ingress (R375-R377) -/

/-- The 10 bytes of a stamp: 48-bit seconds, nanoseconds. -/
def stampBytes (t : Nat × Nat) : List Byte := leBytes 6 t.1 ++ leBytes 4 t.2

/-- A stamp's bytes; what stands in one that is not valid is a free value (log 4). -/
def Fab.stamp (f : Fab) : Option (Nat × Nat) → List Byte × Fab
  | some t => (stampBytes t, f)
  | none =>
    let (a, f) := f.draw
    let (b, f) := f.draw
    (leBytes 8 a.toNat ++ leBytes 2 b.toNat, f)

/-- A frame dropped. -/
def Fab.dropFrame (f : Fab) (p : Nat) : Fab := f.modIng p fun x => { x with drop := min (2 ^ 32 - 1) (x.drop + 1) }

/-- A frame written into a slot: payload, then the rest of the header, then its first word (R376, R377). -/
def Fab.putFrame (f : Fab) (p va size : Nat) (r : Frame) : Fab :=
  let x := f.ing p
  let room := size - 32
  let data := r.payload.take room
  let flag (b : Bool) (k : Nat) : Nat := if b then 2 ^ k else 0
  let flags := flag r.first.isSome 0 + flag r.last.isSome 1 + flag (decide (room < r.payload.length)) 2 + flag r.rxErr 3
  let (s1, f) := f.stamp r.first
  let (s2, f) := f.stamp r.last
  let head := leBytes 1 p ++ leBytes 1 flags ++ leBytes 2 x.seq ++ leBytes 4 r.payload.length ++ s1 ++ s2 ++
    leBytes 4 (Config.ingressLatency p).toNat
  let f := f.sysPutFull (va + 32) data ((data.length + 7) / 8)
  let f := f.sysPutFull (va + 8) (head.drop 8) 3
  f.sysPutFull va (head.take 8) 1

/-- SENSOR_FRAME: it enters slot NEXT where the slot's first word is empty, else it is dropped (R376). -/
def Fab.sensorFrame (f : Fab) (p : Nat) (r : Frame) : Fab :=
  let x := f.ing p
  if 20 ≤ p || !x.en then f
  else
    let drop (f : Fab) : Fab := (f.dropFrame p).modIng p fun y => { y with seq := (x.seq + 1) % 2 ^ 16 }
    let size := 64 * x.ssize
    let va := x.base.toNat + x.next * size
    if x.nslot = 0 ∨ size = 0 then drop f
    else match f.sysTranslate .write va with
      | (.error _, f) => drop f
      | (.ok a, f) =>
        if f.full a then drop f
        else (f.putFrame p va size r).modIng p fun y => { y with next := (x.next + 1) % x.nslot, seq := (x.seq + 1) % 2 ^ 16 }

/-! ### A die lost (R372) -/

/-- DIE_LINK_RETRAIN_FAILURE: a fabric die goes offline, forced; another die is a safety event. -/
def Fab.dieLost (f : Fab) (d : Nat) : Fab :=
  if d < 6 then (f.dieOff d true none none).2
  else if d < 9 then f.safety 0 0x1FF 0
  else f

/-! ### Beryl (R378-R381) -/

/-- Ticks of 500 µs and 1.5 ms. -/
def hbPeriod : Nat := 200000
def hbTimeout : Nat := 600000

/-- HEARTBEAT_SEND: by Bridle, while the link is up (R380). -/
def Fab.sendHeartbeat (f : Fab) : Fab :=
  let b := f.beryl
  if !b.hbSend then f
  else
    let f := if f.pom.halted || !b.up then f else f.berylSend 0 (.heartbeat b.hbSeq f.host.partState (BitVec.ofNat 64 (f.ctr 0)))
    { f with beryl := { f.beryl with hbSeq := b.hbSeq + 1, hbNext := f.clock + hbPeriod } }

/-- HEARTBEAT_RECEIVE: the timer starts again; after the declaration a heartbeat is logged (R380, R381). -/
def Fab.gotHeartbeat (f : Fab) (seq : W64) : Fab :=
  let b := f.beryl
  if !b.hbWatch then f
  else if b.declared then f.bridleLog { w0 := BitVec.ofNat 64 (15 * 2 ^ 56 + 2 * 2 ^ 48), w1 := seq }
  else { f with beryl := { b with hbDue := f.clock + hbTimeout } }

/-- The takeover of a partition: a switch to SOLO, or a safety event where the request lapses. Its entry and tag are not stated: free values
(R381, log 4). -/
def Fab.goSolo (f : Fab) (p : Nat) : Fab :=
  let (st, g) := if f.beryl.solo.testBit 7 then (1, f) else f.requestSwitch p (f.beryl.solo % 8)
  if st = 0 then g
  else
    let (v, f) := f.draw
    f.safety p (bits v.toNat 0 9) (BitVec.ofNat 16 (bits v.toNat 16 16))

/-- The partner declared failed, once: the switches and the message (R380, R381). -/
def Fab.declareFailed (f : Fab) (cause : Nat) : Fab :=
  if f.beryl.declared then f
  else
    let f : Fab := { f with beryl := { f.beryl with declared := true } }
    let f := (List.range f.pmode).foldl (fun (f : Fab) p => if f.beryl.parts.testBit p then f.goSolo p else f) f
    f.send 2 { w0 := BitVec.ofNat 64 (15 * 2 ^ 56 + 2 ^ 48 + cause) }

/-! ### The instructions -/

/-- POWER_UP (R14, R133). -/
def execPowerUp (helper : Bool) (outcomes : List SelfTest) (s : State) : Host.Outcome State Fault Refusal :=
  lift (fun f => f.powerUp helper outcomes) s

/-- THROTTLE_LEVEL_APPLY (R129, R336). -/
def execThrottleLevelApply (die : Nat) (s : State) : Host.Outcome State Fault Refusal :=
  lift (fun f => f.applyThrottle die) s

/-- SENSOR_FRAME (R376, R377). -/
def execSensorFrame (port : BitVec 5) (frame : Frame) (s : State) : Host.Outcome State Fault Refusal :=
  lift (fun f => f.sensorFrame port.toNat frame) s

/-- DIE_LINK_RETRAIN_FAILURE (R372). -/
def execDieLinkRetrainFailure (die : Nat) (s : State) : Host.Outcome State Fault Refusal :=
  lift (fun f => f.dieLost die) s

/-- HEARTBEAT_SEND (R380). -/
def execHeartbeatSend (s : State) : Host.Outcome State Fault Refusal :=
  lift Fab.sendHeartbeat s

/-- HEARTBEAT_RECEIVE (R380, R381). -/
def execHeartbeatReceive (seq : W64) (s : State) : Host.Outcome State Fault Refusal :=
  lift (fun f => f.gotHeartbeat seq) s

/-- HEARTBEAT_TIMEOUT: cause HBLOST (R380). -/
def execHeartbeatTimeout (s : State) : Host.Outcome State Fault Refusal :=
  lift (fun f => if f.beryl.hbWatch && decide (f.beryl.hbDue ≤ f.clock) then f.declareFailed 1 else f) s

/-- PFAULT_ASSERT: cause PFAULT (R378, R380). -/
def execPfaultAssert (s : State) : Host.Outcome State Fault Refusal :=
  lift (fun f => f.declareFailed 2) s

/-- The link fails: Pommel's jobs to the partner are cut out; an element's job finds the link down at its next word (R214, R378). -/
def Fab.linkDown (f : Fab) : Fab :=
  f.pom.jobs.foldl (fun (f : Fab) (k, j) => if j.toPartner then f.cutPJob k j 3 (j.res.elim 0 (·.2.1)) else f)
    { f with beryl := { f.beryl with up := false } }

/-- BERYL_LINK_DOWN (R214, R378). -/
def execBerylLinkDown (s : State) : Host.Outcome State Fault Refusal :=
  lift Fab.linkDown s

end Sys2Proof.Machine
end

