-- ==== Sys2Proof/Machine/Accept.lean ====
section
/-! DEFINITION. What the loader checks of the rows of an image: op words, parameter blocks, pairings of op, route and register-address
words, types (spec 02_encoding R35-R47, R52, 04_arithmetic R84-R105, 06_routing R138-R163, 07_tiles R165-R179, 08_global R184, R195, R209,
R211, R212, 09_ordering R224, R229-R240, 11_transform R269-R294, 12_tape R303, R311-R319, 14_containment R356-R370; log 30). -/

namespace Sys2Proof.Machine

/-- Cause codes of R52 and its extensions. -/
def ldNoparam : Nat := 0x12
def ldQueue : Nat := 0x14
def ldArmnest : Nat := 0x15
def ldMergea : Nat := 0x16
def ldTmode : Nat := 0x10
def ldWediff : Nat := 0x11
def ldLinktype : Nat := 0x0E
def ldRouteout : Nat := 0x0F
def ldTrack : Nat := 0x17

/-- The cause code of a word that is no instruction. -/
def decCause : DecErr → Nat
  | .opRes => 0x09
  | .taskOnly => 0x0A
  | .elementOnly => 0x09
  | .resBit => ldResbit
  | .rMode => ldRmode
  | .subOp => ldSubop
  | .opType => ldOptype
  | .queue => ldQueue
  | .tMode => ldTmode
  | .weDiff => ldWediff
  | .truncated => 0x09

/-- The cause of the first failing check; 0 where none fails. -/
def firstCause (cs : List (Bool × Nat)) : Nat := ((cs.find? fun c => c.1).map (·.2)).getD 0

/-! ### Parameter blocks (R36) -/

/-- Is a class one that the layouts allow? -/
def badClass (n : Nat) : Bool := decide (30 ≤ n)
/-- Does a wave field name an entry of kind 00 (R41)? -/
def badWave (sh : Share) (q : Nat) : Bool := q != 0 && waveKind (sh.wave.getD q 0) == 0

/-- TALLOC's block (R165, R173). -/
def tallocBlock (b : BitVec 256) : Nat :=
  let t := allocTile b 0 0
  let init := bits (pword b 1) 2 2
  firstCause [
    (!onlyBits b [0xFFFFFFFF, 0xF, 0xFFFFFFFF, 0xFFFFFFFF, 0xFFFF, 0, 0, 0], ldResbit),
    (t.lvl == 0 || init == 3 || (init == 2 && t.lvl != 3) || !t.legal || (t.fmt != .fb4 && t.tscale != 0), ldOptype),
    (if t.lvl = 3 then t.spl || t.loc % 64 != 0 else t.loc != 0, ldOptype),
    ((t.lvl == 1 && decide (384 < t.need 1)) || (t.lvl == 2 && decide (16384 < t.need 2)), ldOptype)]

/-- The blocks of TCOPY and TFILL (R179). -/
def copyBlock (sh : Share) (fill : Bool) (b : BitVec 256) : Nat :=
  firstCause [
    (!onlyBits b [if fill then 0 else 0xFFFFFF, 0xFFFFFF, 0xFFFFFF, if fill then 0x1F0 else 0xFF, 0, 0, 0, 0], ldResbit),
    (badWave sh (bits (pword b 3) 0 4) || badWave sh (bits (pword b 3) 4 4), ldWave)]

/-- The blocks of streams, gathers and scatters (R184, R195). -/
def streamBlock (sh : Share) (o : Nat) (b : BitVec 256) : Nat :=
  let w1 := pword b 1
  let lin := o == 0x84 || o == 0x85
  let out := o == 0x85 || o == 0x87
  let esz := 2 ^ bits w1 16 3 * (if bits w1 16 3 = 4 then 4 else 1)
  let counts := (bits (pword b 2) 0 16 + 1) * (bits (pword b 2) 16 16 + 1) * (bits (pword b 3) 0 16 + 1) * (bits (pword b 3) 16 16 + 1)
  let va := pword b 0 + bits w1 0 16 * 2 ^ 32
  firstCause [
    (!onlyBits b (if lin then [0xFFFFFFFF, 0xFFFFFFFF, 0xFFFFFFFF, 0xFFFFFFFF, 0xFFFFFFFF, 0xFFFFFFFF, 0xFFFFFFFF, 0x7FFFFFFF]
      else [0xFFFFFFFF, 0xFFFFFFFF, 0xFFFF, 1, 0xFFFFFFFF, 0xFFFFFFFF, 0x3FFFFFF, 0x7FFFFFFF]) || (w1.testBit 30 && !out), ldResbit),
    (decide (5 ≤ bits w1 16 3) || (lin && decide (2 ^ 32 ≤ counts)), ldOptype),
    (bits (pword b 7) 0 26 % esz != 0 || va % esz != 0 || pword b 4 % esz != 0 ||
      (lin && (pword b 5 % esz != 0 || pword b 6 % esz != 0)), ldOptype),
    (bits w1 20 2 == 3 || badClass (bits (pword b 7) 26 5), ldSubop),
    (!waveIs sh.wave (bits w1 22 4) (if out then 2 else 1) || !waveIs sh.wave (bits w1 26 4) (if out then 1 else 2), ldWave)]

/-- XFER's block (R195, R211). -/
def xferBlock (sh : Share) (b : BitVec 256) : Nat :=
  firstCause [
    (!onlyBits b [0x3FFFFFF, 0x3FFFFFF, 0xFFFFFFFF, 0x7FFF, 0xFFFFFFFF, 0xFFFF, 0, 0], ldResbit),
    (pword b 0 % 8 != 0 || pword b 1 % 8 != 0 || pword b 2 % 8 != 0 || pword b 2 == 0 || pword b 4 % 8 != 0, ldOptype),
    (badClass (bits (pword b 3) 8 5), ldSubop),
    (!waveIs sh.wave (bits (pword b 3) 0 4) 1 || !waveIs sh.wave (bits (pword b 3) 4 4) 2, ldWave)]

/-- The blocks of MIRR and COLL (R212, R240). -/
def mirrBlock (b : BitVec 256) : Nat :=
  firstCause [(!onlyBits b [0x3FF, 0xFFFFFFFF, 0x1F, 0, 0, 0, 0, 0], ldResbit), (badClass (bits (pword b 2) 0 5), ldSubop)]
def collBlock (sh : Share) (b : BitVec 256) : Nat :=
  firstCause [
    (!onlyBits b [0x1FFF, 0x7FF, 0xFFFFFFFF, 0x1FFFFFF, 0, 0, 0, 0], ldResbit),
    (decide (6 ≤ collOpc b) || badClass (bits (pword b 3) 20 5) || collVa b % 8 != 0, ldSubop),
    (badWave sh (bits (pword b 3) 16 4), ldWave)]

/-- A block with a wave entry and a class in one word, and named bits (R275, R276, R281, R294). -/
def moveBlock (sh : Share) (masks : List Nat) (k : Nat) (waves : List Nat) (cls : Nat) (b : BitVec 256) : Nat :=
  firstCause [
    (!onlyBits b masks, ldResbit),
    (badClass (bits (pword b k) cls 5), ldSubop),
    (waves.any fun w => badWave sh (bits (pword b k) w 4), ldWave)]

/-- A pattern block (R270). -/
def patternBlock (sh : Share) (read : Bool) (b : BitVec 256) : Nat :=
  let w := pword b 7
  firstCause [
    (!onlyBits b [0xFFFFFF, 0xFFFFFFFF, 0xFFFFFFFF, 0xFFFFFFFF, 0xFFFFFFFF, 0xFFFFFFFF, 0xFFFFFFFF, if read then 0xFFFFFF else 0x7FC03F],
      ldResbit),
    (if read then bits w 0 2 == 3 || decide (6 ≤ bits w 10 3) else decide (2 ≤ bits w 4 2), ldSubop),
    (badClass (bits w 18 5), ldSubop),
    (!read && bits w 0 3 == 7, ldRmode),
    (!waveIs sh.wave (bits w 14 4) (if read then 1 else 2), ldWave)]

/-- DCMPJ's job card (R184, R288). -/
def dcmpjBlock (sh : Share) (b : BitVec 256) : Nat :=
  let w := pword b 4
  firstCause [
    (!onlyBits b [0x3FFFFFF, 0x3FFFFFF, 0xFFFFFFFF, 0xFFFFFFFF, 0x3FFFFF, 0xFFFFFFFF, 0, 0], ldResbit),
    (bits w 0 2 == 3 || bits w 7 2 == 3 || badClass (bits w 9 5), ldSubop),
    (decide (bits w 2 5 < 8) || decide ((if bits w 0 2 = 1 then 15 else 16) < bits w 2 5), ldSubop),
    (dcSlen b == 0 || decide (2 ^ 26 < dcSlen b) || dcCap b == 0 || decide (2 ^ 26 < dcCap b), ldSubop),
    (badWave sh (bits w 14 4) || badWave sh (bits w 18 4), ldWave)]

/-- The blocks of the cinch instructions (R235). -/
def cinchBlock (init : Bool) (b : BitVec 256) : Nat :=
  firstCause [
    (!onlyBits b [0x7FF, if init then 0xFFF else 0, 0, 0, 0, 0, 0, 0], ldResbit),
    (decide (6 ≤ bits (pword b 0) 8 3) || (init && (pword b 1 == 0 || decide (2048 < pword b 1))), ldOptype)]

/-- The blocks of TAPEB, TAPEV, TAPER, TAPEP and TAPEK (R312, R314-R316, R319). -/
def tapebBlock (b : BitVec 256) : Nat :=
  let v := bits (pword b 1) 0 16
  let br := bits (pword b 1) 16 16
  let rc := bits (pword b 2) 0 16
  firstCause [
    (!onlyBits b [0x1F, 0xFFFFFFFF, 0xFFFFFF, 0, 0, 0, 0, 0] || v == 0 || br == 0 || ((pword b 0).testBit 4 == (rc == 0)) ||
      decide (65535 < v + br + rc), ldOptype)]
def tapepBlock (b : BitVec 256) : Nat :=
  firstCause [
    (!onlyBits b [0x1F, 0, 0, 0, 0, 0, 0, 0], ldResbit),
    (!([Ty.i32, .n32, .fp32, .fp19, .hdl, .ctl, .fib].contains (tyOf (pword b 0))), ldSubop)]
def tapekBlock (b : BitVec 256) : Nat :=
  firstCause [(!onlyBits b [0xFFFFFFFF, 0x1FFFF, 0, 0, 0, 0, 0, 0], ldResbit), (bits (pword b 1) 0 16 == 0, ldOptype)]
/-- CMPV's block (R368). -/
def cmpvBlock (b : BitVec 256) : Nat :=
  firstCause [
    (!onlyBits b [0xFFFFFFFF, 0x1FFFFF, 0, 0, 0, 0, 0, 0], ldResbit),
    (pword b 0 % 8 != 0 || badClass (bits (pword b 1) 16 5), ldSubop)]

/-- Does an op word of form OX use its parameter block? -/
def usesBlock (op : BitVec 24) : Bool :=
  let o := (fld op 16 8).toNat
  [0x70, 0x7A, 0x7B, 0x84, 0x85, 0x86, 0x87, 0x96, 0x97, 0x98, 0xA0, 0xA1, 0xA2, 0xA3, 0xA4, 0xA5, 0xB1, 0xB2, 0xB4, 0xB5, 0xB6, 0xB7,
    0xB8, 0xB9, 0xBB, 0xBC, 0xBD, 0xBE, 0xBF, 0xC4, 0xC5, 0xC6, 0xC7, 0xC8, 0xCC, 0xCF, 0xD0, 0xD3, 0xDC].contains o ||
    (o == 0xB0 && (fld op 0 4).toNat == 1) || (o == 0xCE && op.getLsbD 4)

/-- The check of the block that an op word names; `za` and `zb` say whether its sources are Z. -/
def blockCheck (sh : Share) (op : BitVec 24) (za zb : Bool) (b : BitVec 256) : Nat :=
  let o := (fld op 16 8).toNat
  let sub := (fld op 0 4).toNat
  let xy : Nat := 0xFFFFFF
  if o = 0x70 then tallocBlock b
  else if o = 0x7A ∨ o = 0x7B then copyBlock sh (o == 0x7B) b
  else if 0x84 ≤ o ∧ o ≤ 0x87 then streamBlock sh o b
  else if o = 0x96 then xferBlock sh b
  else if o = 0x97 then mirrBlock b
  else if o = 0x98 then collBlock sh b
  else if 0xA0 ≤ o ∧ o ≤ 0xA5 then matrixErr o (fld op 4 2).toNat sub b za zb sh.wave sh.ownsCb
  else if o = 0xB0 ∨ o = 0xB1 ∨ o = 0xB2 then moveBlock sh [xy, 0x1FF, 0, 0, 0, 0, 0, 0] 1 [0] 4 b
  else if o = 0xBF then
    (if bits (pword b 2) 0 2 = 3 then ldSubop else moveBlock sh [xy, 0x1FF, 0x3FFF, 0, 0, 0, 0, 0] 1 [0] 4 b)
  else if o = 0xB4 ∨ o = 0xB5 then moveBlock sh [xy, xy, 0x3FF, xy, 0x1FFFFFF, 0, 0, 0] 4 [12, 16] 20 b
  else if o = 0xB6 ∨ o = 0xB7 then moveBlock sh [xy, 0xFFF, xy, 0x1FFF, 0, 0, 0, 0] 3 [0, 4] 8 b
  else if o = 0xB8 then moveBlock sh [0xFFF, 0xFFF, 0x3FF, 0xFFF, 0x1FFF, 0, 0, 0] 4 [0, 4] 8 b
  else if o = 0xB9 then dcmpjBlock sh b
  else if o = 0xBB then moveBlock sh [0x3FF03FF, 0x1FF, 0, 0, 0, 0, 0, 0] 1 [0] 4 b
  else if o = 0xBC ∨ o = 0xBD then patternBlock sh (o == 0xBD) b
  else if o = 0xBE then moveBlock sh [xy, xy, xy, 0x1FFF, 0, 0, 0, 0] 3 [0, 4] 8 b
  else if 0xC4 ≤ o ∧ o ≤ 0xC8 then cinchBlock (o == 0xC4) b
  else if o = 0xCC then tapebBlock b
  else if o = 0xCE then firstCause [(!onlyBits b [xy, 0xFFFF, 0, 0, 0, 0, 0, 0], ldResbit)]
  else if o = 0xCF then firstCause [(!onlyBits b [0x7F, 0xFFFFFFFF, 0x3F, 0, 0, 0, 0, 0], ldResbit)]
  else if o = 0xD0 then tapepBlock b
  else if o = 0xD3 then tapekBlock b
  else cmpvBlock b

/-! ### Op words (R35-R47) -/

/-- Does an OX word hold a var or sub that its instruction does not define (R36)? -/
def badVarSub (op : BitVec 24) : Bool :=
  let o := (fld op 16 8).toNat
  let var := (fld op 4 2).toNat
  let sub := (fld op 0 4).toNat
  let lim (v s : Nat) : Bool := decide (v ≤ var) || decide (s ≤ sub)
  if o = 0x72 then !(if sub = 11 then decide (2 ≤ var) else decide (sub < 11) && var == 0)
  else if o = 0x7C then !(if sub = 0 then var != 0 else decide (sub < 3) && var == 0)
  else if 0x84 ≤ o ∧ o ≤ 0x87 then lim 1 16
  else if o = 0x88 then lim 4 2
  else if o = 0x89 ∨ o = 0x8A then lim 4 1
  else if o = 0x93 then var != 0 || decide (6 ≤ sub % 8)
  else if o = 0xA4 then lim 1 2
  else if o = 0xA5 ∨ o = 0xBD ∨ o = 0xCE then lim 2 1
  else if o = 0xA6 then lim 1 3
  else if o = 0xB0 then lim 2 2
  else if o = 0xB2 then lim 1 8
  else if o = 0xB3 then lim 4 8
  else if o = 0xB8 ∨ o = 0xBB then lim 1 2
  else if o = 0xBA then lim 4 4
  else if o = 0xC5 then lim 3 1
  else if o = 0xC7 ∨ o = 0xD5 then lim 1 4
  else if o = 0xD2 then lim 1 6
  else if o = 0xD7 then var != 0 || sub == 0 || decide (10 ≤ sub)
  else if o = 0xD9 then lim 1 3
  else lim 1 1

/-- Does an OC word hold a cin, cout or imm8 that its instruction does not accept (R149, R150, R156, R157, R161)? -/
def badControl (flags : BitVec 16) (op : BitVec 24) : Bool :=
  let o := (fld op 16 8).toNat
  let cin := (fld op 12 4).toNat
  let cout := (fld op 8 4).toNat
  let i := (fld op 0 8).toNat
  let required := [0x58, 0x59, 0x5B, 0x5F, 0x60, 0x61, 0x6D].contains o
  let optional := [0x5C, 0x5D, 0x62, 0x65, 0x67, 0x68].contains o
  let sends := decide (o ≤ 0x61) || [0x63, 0x65, 0x6D].contains o
  let lim : Nat := match o with
    | 0x58 => 15 | 0x59 => 0 | 0x5A => 0 | 0x5B => 1 | 0x5C => 1 | 0x5D => 1 | 0x5E => 255 | 0x5F => 7 | 0x60 => 7 | 0x61 => 0 | 0x62 => 1
    | 0x63 => 1 | 0x64 => 3 | 0x65 => 7 | 0x66 => 7 | 0x67 => 7 | 0x68 => 3 | 0x69 => 3 | 0x6A => 3 | 0x6B => 5 | 0x6C => 15 | _ => 7
  decide (6 ≤ cin) || (required && cin == 0) || (!required && !optional && cin != 0) || (cout != 0 && !sends) ||
    (o == 0x5C && cin == 0 && cout != 0) || decide (lim < i) ||
    (o == 0x65 && i / 4 == 1 && i % 4 == 0) || (o == 0x5E && decide (i / 32 < 6) && i % 32 != 0) ||
    ((o == 0x5F || o == 0x60) && (i == 0 || decide (6 ≤ i) || i == cin)) || (o == 0x5D && cin != 0 && i != 0) ||
    (flags.getLsbD 1 && cin != 0 && [0x5C, 0x62, 0x65, 0x67, 0x68].contains o)

/-- The d of the element's first DLY row (R162). -/
def Share.dlyOf (sh : Share) : Option (BitVec 24) := sh.opWords.find? fun w => fld w 16 8 = 0x6C

/-- The check of one op word on an element (R47); `arm` is true in the arm store. -/
def Share.wordCheck (sh : Share) (arm : Bool) (op : BitVec 24) : Nat :=
  let o := (fld op 16 8).toNat
  let pb := (fld op 10 6).toNat
  let wave := (fld op 12 4).toNat
  let pair := fld op 10 2 = 3
  let atomic := decide (0x8B ≤ o ∧ o ≤ 0x92)
  if arm ∧ o = 0x6D then ldArmnest
  else if 0x58 ≤ o ∧ o ≤ 0x6D ∧ badControl sh.flags op then ldSubop
  else match decodeOp op {} with
  | .error e => decCause e
  | .ok i =>
    match i.err with
    | some e => decCause e
    | none =>
      match formOf o with
      | .oi => 0
      | .oa =>
        let mode := (fld op 8 2).toNat
        let emax := (fld op 0 4).toNat
        firstCause [
          (o == 0x47 && mode == 3, ldSubop),
          (o == 0x47 && mode == 1 && !([0, 2, 4, 8, 15].contains emax), ldSubop),
          (o == 0x47 && mode != 1 && emax != 0, ldResbit),
          (o == 0x47 && mode != 0 && (fld op 12 4 != 0), ldRmode),
          (o == 0x51 && decide (2 ≤ mode) && fld op 0 5 != 0, ldResbit),
          (o == 0x50 && (sh.bank (fld op 0 2).toNat).isNone, 0x18)]
      | .om =>
        firstCause [
          (pair && !atomic && o != 0x78 && o != 0x79, ldOptype),
          (pair && o == 0x92, ldOptype),
          (wave != 0 && (waveKind (sh.wave.getD wave 0) == 0 || (atomic && waveKind (sh.wave.getD wave 0) != 3)), ldWave)]
      | .oc =>
        firstCause [
          (o == 0x6C && sh.dlyOf.any fun w => fld w 0 4 != fld op 0 4, ldSubop),
          (o == 0x6D && !sh.armDefined (fld op 0 3).toNat, ldArmnest),
          (o == 0x5A && (sh.flags.getLsbD 0 || sh.flags.getLsbD 1), ldMergea)]
      | .ox =>
        firstCause [
          (badVarSub op, ldSubop),
          (!usesBlock op && pb != 0 && o != 0x71, ldResbit),
          (usesBlock op && (mget pb sh.params).isNone, ldNoparam),
          ((o == 0xB2 || o == 0xB3) && !(sh.cbs.any fun x => x.1 == (fld op 0 3).toNat), 0x18)] |> fun c =>
        if c = 0 ∧ usesBlock op then blockCheck sh op true true (sh.block op) else c

/-! ### Pairings (R38, R39, R138, R149) -/

/-- Is a code one of a token source (R138)? -/
def tokenCode (c : BitVec 4) : Bool := [1, 2, 3, 4, 5, 6, 8, 11].contains c.toNat

/-- Is a source of these types accepted? A link declared 0x00 is left to LINKTYPE. -/
def Acc.takes (acc : Acc) (code : BitVec 4) (opt : Bool) (ts : List SrcTy) : Bool :=
  if code = 15 then acc == .no || opt
  else acc != .no && ts.all fun t => match t with
    | none => true
    | some t => acc.has t || ((srcDir code.toNat).isSome && t == .untyped)

/-- The failing check of a pairing that its op word shows: handles of a matrix block where a source is not Z (R253). -/
def Share.pairOp (sh : Share) (w : RowWords) : Nat :=
  if formOf w.o = .ox ∧ usesBlock w.op then blockCheck sh w.op (w.rt.a == 15) (w.rt.b == 15) (sh.block w.op) else 0

/-- The failing check of a pairing that its route word shows: modes, sources, destinations and their types. -/
def Share.pairRoute (sh : Share) (fb : List SrcTy) (w : RowWords) : Nat :=
  let o := w.o
  let a := w.rt.a
  let b := w.rt.b
  let s := w.sig sh
  let ta := sh.srcTypes fb a w.rg.ra
  let tb := sh.srcTypes fb b w.rg.rb
  let links := Route.links w.rt
  let none_ := links == 0 && !w.rt.reg && !w.rt.ctl
  let decl := w.declared sh
  let rem := bits (pword (sh.block w.op) 3) 13 1 == 1
  let same (ts : List SrcTy) : Bool := ts.all fun t => match t with
    | some t => t == .untyped || decl.all (· == t)
    | none => true
  let known (ts : List SrcTy) : List Ty := (ts.filterMap id).eraseDups
  let cbTy := ((sh.cbs.find? fun x => x.1 == (fld w.op 0 3).toNat).map fun x => x.2.1).getD .bf16
  firstCause [
    (w.rt.mode == 3, ldTmode),
    (a == b && tokenCode a && w.rt.mode != 0, ldTmode),
    ((o == 0x5C && w.rt.mode == 1) || (o == 0x63 && w.rt.mode != 0), ldTmode),
    ((a == 9 || b == 9) && (formOf o != .oa || decide (0x30 ≤ o)), ldOptype),
    (formOf o == .oa && decide (o < 0x30) && o != 0x03 && o != 0x25 && fld w.op 0 10 != 0 && a != 9 && b != 9, ldResbit),
    (o == 0x25 && !w.op.getLsbD 9 && fld w.op 0 9 != 0 && a != 9, ldResbit),
    (o == 0x25 && w.op.getLsbD 9 && a == 9, ldOptype),
    (!s.a.takes a s.optA ta || !s.b.takes b s.optB tb, ldOptype),
    ((a == 12 || b == 12) && decide (1 < (known fb).length), ldOptype),
    ((o == 0x5C || o == 0x63) && !tokenCode a, ldOptype),
    (o == 0x5A && (!tokenCode a || !tokenCode b || a == b), ldOptype),
    ((o == 0x98 || o == 0xA9) && !tokenCode a && a != 0, ldOptype),
    (decide (0xA0 ≤ o ∧ o ≤ 0xA3) && ((!tokenCode a && a != 0 && a != 15) || (!tokenCode b && b != 0 && b != 15)), ldOptype),
    (o == 0x5D && a != 15 && fld w.op 12 4 != 0, ldOptype),
    (o == 0x5D && a != 15 && fld w.op 0 8 != 0, ldSubop),
    (o == 0x96 && rem != (b == 15), ldOptype),
    (o == 0x6D && w.route != 0xFF00, ldOptype),
    (s.res == .no && o != 0x62 && !none_, ldOptype),
    (o == 0x62 && (w.rt.reg || w.rt.ctl), ldOptype),
    ((o == 0x58 || o == 0x6C) && w.rt.ctl, ldOptype),
    (decide (1 < decl.length), ldOptype),
    (s.res != .no && decl.any fun t => !s.res.has t, ldOptype),
    (o == 0x70 && w.rt.ctl, ldOptype),
    (o == 0x47 && decl.isEmpty && fld w.op 8 2 == 0, ldOptype),
    (o == 0x47 && fld w.op 8 2 == 0 && decl.any (fun t => t == .i4 || t == .i16) && (known tb).contains .n8, ldOptype),
    (o == 0xB3 && decl.any fun t => t != cbTy && t != .fp32, ldOptype),
    ([0x58, 0x5A, 0x59, 0x5B, 0x6C].contains o && !same ta, ldOptype),
    ((o == 0x59 || o == 0x5A) && (!same tb || decide (1 < (known (ta ++ tb)).length)), ldOptype),
    (decide (0x8B ≤ o ∧ o ≤ 0x92) && fld w.op 10 2 == 3 && (links != 0 || w.rt.ctl), ldOptype)]

/-- The failing check of a pairing that its register-address word shows: we, and rd where the row reads it (R39, R93, R96, R177, R229). -/
def Share.pairReg (sh : Share) (w : RowWords) : Nat :=
  let o := w.o
  let s := w.sig sh
  let rd := w.rg.rd
  let pair := fld w.op 10 2 = 3
  let atomic := decide (0x8B ≤ o ∧ o ≤ 0x92)
  firstCause [
    (w.rg.we != w.rt.reg, ldWediff),
    (s.rd != .no && !s.rd.has (sh.regType rd), ldOptype),
    (s.rd2 && !s.rd.has (sh.regType (rd ^^^ 1)), ldOptype),
    (atomic && pair && ((List.range (if o = 0x91 then 4 else 2)).any fun k => !s.rd.has (sh.regType (rd + BitVec.ofNat 5 k))), ldOptype),
    (atomic && pair && (rd.toNat % 2 != 0 || (o == 0x91 && rd.toNat % 4 != 0)), ldOptype)]

/-- FB's type before each row that reads it, itself or in an arm that it names, where the rows before it tell (R84). -/
def Share.fbDeclared (sh : Share) : List (Option Ty) :=
  let rows := sh.pairings.map (·.2.2.2)
  let reads (w : RowWords) : Bool := w.rt.a == 12 || w.rt.b == 12
  (List.range rows.length).map fun g =>
    let w := rows.getD g ⟨0, 0, 0⟩
    if reads w || (w.o == 0x6D && (sh.armsOf (fld w.op 0 3).toNat).any reads) then
      ((sh.fbTypes rows (2 * rows.length) g).filterMap id).head?
    else none

/-! ### Elements (R52 step 4) -/

/-- Does a row read FB? -/
def RowWords.readsFb (w : RowWords) : Bool := w.rt.a == 12 || w.rt.b == 12

/-- The first failing row of a share: its cause, ring (1 op, 2 route, 3 register-address, 4 arm) and index. -/
def Share.rowsCheck (sh : Share) : Option (Nat × Nat × Nat) :=
  let ps := sh.pairings
  let rows := ps.map (·.2.2.2)
  let word (k : Nat) : Nat :=
    let c := sh.wordCheck false (sh.op.getD k 0)
    if c ≠ 0 then c else ((ps.filter fun p => p.1 == k).map fun p => sh.pairOp p.2.2.2).find? (· != 0) |>.getD 0
  let fb (g : Nat) (w : RowWords) : List SrcTy := if w.readsFb then sh.fbTypes rows (2 * rows.length) g else []
  let gs := ps.zip (List.range ps.length)
  let route (k : Nat) : Nat :=
    ((gs.filter fun p => p.1.2.1 == k).map fun (p, g) => sh.pairRoute (fb g p.2.2.2) p.2.2.2).find? (· != 0) |>.getD 0
  let reg (k : Nat) : Nat := ((ps.filter fun p => p.2.2.1 == k).map fun p => sh.pairReg p.2.2.2).find? (· != 0) |>.getD 0
  let arm (x : Nat × BitVec 64) : Nat :=
    let w := armWords x.2
    let c := if fld x.2 56 8 ≠ 0 then ldResbit else sh.wordCheck true w.op
    let fbs := if w.readsFb then sh.armFb rows (x.1 / 2) else []
    if c ≠ 0 then c else ([sh.pairOp w, sh.pairRoute fbs w, sh.pairReg w].find? (· != 0)).getD 0
  let first (ring : Nat) (cs : List (Nat × Nat)) : Option (Nat × Nat × Nat) :=
    (cs.find? fun c => c.2 != 0).map fun c => (c.2, ring, c.1)
  let many (bad : Bool) (o : Nat) : Option (Nat × Nat × Nat) :=
    if bad then some (ldOptype, 1, (List.range sh.op.length).find? (fun k => (fld (sh.op.getD k 0) 16 8).toNat == o) |>.getD 0) else none
  [first 1 ((List.range sh.op.length).map fun k => (k, word k)),
   first 2 ((List.range sh.route.length).map fun k => (k, route k)),
   first 3 ((List.range sh.reg.length).map fun k => (k, reg k)),
   first 4 (sh.armRows.map fun x => (x.1, arm x)),
   many (decide (1 < sh.ltTypes.length)) 0x50,
   many (decide (1 < sh.mdTypes.length)) 0xA5,
   if 16 < fourLargest sh.floors then some (ldSubop, 1, 0) else none].findSome? id

end Sys2Proof.Machine
end

