-- ==== Sys2Proof/Machine/Crypto.lean ====
section
/-! DEFINITION. The crypto engine: SHA-512, Ed25519 verification, jobs and their completion (spec 02_encoding R49, 05_taskcore R125,
R132, R135). -/

namespace Sys2Proof.Machine

/-! ### SHA-512 (FIPS 180-4) -/

/-- The largest number below 2^72 whose k-th power does not exceed x. -/
def rootFloor (k x : Nat) : Nat :=
  (List.range 72).foldl (fun r i => let t := r + 2 ^ (71 - i); if t ^ k ≤ x then t else r) 0

/-- The first 80 primes. -/
def shaPrimes : List Nat := (List.range 410).filter fun n => decide (2 ≤ n) && (List.range n).all fun d => decide (d < 2) || n % d != 0

/-- The round constants: the first 64 bits of the fractional parts of the cube roots of the first 80 primes. -/
def shaK : List W64 := shaPrimes.map fun p => BitVec.ofNat 64 (rootFloor 3 (p * 2 ^ 192))

/-- A working state of eight words. -/
structure Sha where
  a : W64
  b : W64
  c : W64
  d : W64
  e : W64
  f : W64
  g : W64
  h : W64
  deriving DecidableEq, Repr

/-- The initial state: the first 64 bits of the fractional parts of the square roots of the first eight primes. -/
def shaInit : Sha :=
  let h (i : Nat) : W64 := BitVec.ofNat 64 (rootFloor 2 (shaPrimes.getD i 0 * 2 ^ 128))
  ⟨h 0, h 1, h 2, h 3, h 4, h 5, h 6, h 7⟩

/-- Rotation right. -/
def ror64 (x : W64) (n : Nat) : W64 := (x >>> n) ||| (x <<< (64 - n))

/-- The message schedule of 80 words, newest first, from 16 words newest first. -/
def shaSchedule : Nat → List W64 → List W64
  | 0, w => w
  | n + 1, w =>
    let x := w.getD 1 0
    let y := w.getD 14 0
    let s1 := ror64 x 19 ^^^ ror64 x 61 ^^^ (x >>> 6)
    let s0 := ror64 y 1 ^^^ ror64 y 8 ^^^ (y >>> 7)
    shaSchedule n ((s1 + w.getD 6 0 + s0 + w.getD 15 0) :: w)

/-- One round. -/
def shaRound (s : Sha) (k w : W64) : Sha :=
  let t1 := s.h + (ror64 s.e 14 ^^^ ror64 s.e 18 ^^^ ror64 s.e 41) + ((s.e &&& s.f) ^^^ (~~~s.e &&& s.g)) + k + w
  let t2 := (ror64 s.a 28 ^^^ ror64 s.a 34 ^^^ ror64 s.a 39) + ((s.a &&& s.b) ^^^ (s.a &&& s.c) ^^^ (s.b &&& s.c))
  ⟨t1 + t2, s.a, s.b, s.c, s.d + t1, s.e, s.f, s.g⟩

/-- A big-endian word of bytes. -/
def beWord (bs : List Byte) : W64 := BitVec.ofNat 64 (ofLE (bs.take 8).reverse)

/-- The words of bytes, in order. -/
def beWords : Nat → List Byte → List W64
  | 0, _ => []
  | n + 1, bs => beWord bs :: beWords n (bs.drop 8)

/-- One block of 128 bytes. -/
def shaBlock (ks : List W64) (s : Sha) (bs : List Byte) : Sha :=
  let ws := (shaSchedule 64 (beWords 16 bs).reverse).reverse
  let t := (ks.zip ws).foldl (fun t (k, w) => shaRound t k w) s
  ⟨s.a + t.a, s.b + t.b, s.c + t.c, s.d + t.d, s.e + t.e, s.f + t.f, s.g + t.g, s.h + t.h⟩

/-- A number of blocks. -/
def shaBlocks (ks : List W64) : Nat → Sha → List Byte → Sha
  | 0, s, _ => s
  | n + 1, s, bs => shaBlocks ks n (shaBlock ks s (bs.take 128)) (bs.drop 128)

/-- A message with its padding. -/
def shaPad (bs : List Byte) : List Byte :=
  bs ++ [0x80] ++ List.replicate ((239 - bs.length % 128) % 128) 0 ++ (leBytes 16 (8 * bs.length)).reverse

/-- SHA-512 as its 64 bytes. -/
def sha512 (bs : List Byte) : List Byte :=
  let m := shaPad bs
  let s := shaBlocks shaK (m.length / 128) shaInit m
  [s.a, s.b, s.c, s.d, s.e, s.f, s.g, s.h].flatMap fun w => (leBytes 8 w.toNat).reverse

/-! ### Ed25519 (RFC 8032) -/

/-- The field prime, the order of the base point. -/
def edP : Nat := 2 ^ 255 - 19
def edL : Nat := 2 ^ 252 + 27742317777372353535851937790883648493

/-- A power modulo m, by the low bits of the exponent. -/
def powMod (m : Nat) : Nat → Nat → Nat → Nat
  | 0, _, _ => 1 % m
  | n + 1, b, e => if e = 0 then 1 % m else
      let r := powMod m n (b * b % m) (e / 2)
      if e % 2 = 1 then b * r % m else r

/-- The inverse in the field. -/
def edInv (a : Nat) : Nat := powMod edP 256 a (edP - 2)
/-- Difference in the field. -/
def edSub (a b : Nat) : Nat := (a + edP - b % edP) % edP
/-- The curve constant d = -121665/121666. -/
def edD : Nat := edSub 0 (121665 * edInv 121666 % edP)

/-- A point in extended coordinates: x = X/Z, y = Y/Z, xy = T/Z. -/
structure EdPt where
  x : Nat
  y : Nat
  z : Nat
  t : Nat
  deriving DecidableEq, Repr

/-- The neutral point. -/
def edZero : EdPt := ⟨0, 1, 1, 0⟩

/-- Addition. -/
def edAdd (p q : EdPt) : EdPt :=
  let a := edSub p.y p.x * edSub q.y q.x % edP
  let b := (p.y + p.x) * (q.y + q.x) % edP
  let c := 2 * p.t * q.t * edD % edP
  let d := 2 * p.z * q.z % edP
  let e := edSub b a
  let f := edSub d c
  let g := (d + c) % edP
  let h := (b + a) % edP
  ⟨e * f % edP, g * h % edP, f * g % edP, e * h % edP⟩

/-- A multiple by the low n bits of a scalar. -/
def edMul : Nat → Nat → EdPt → EdPt
  | 0, _, _ => edZero
  | n + 1, k, p =>
    let r := edMul n (k / 2) (edAdd p p)
    if k % 2 = 1 then edAdd p r else r

/-- Are two points equal? -/
def edEq (p q : EdPt) : Bool := p.x * q.z % edP == q.x * p.z % edP && p.y * q.z % edP == q.y * p.z % edP

/-- A square root in the field of u/v. -/
def edSqrt (u v : Nat) : Option Nat :=
  let w := u * edInv v % edP
  let r := powMod edP 256 w ((edP + 3) / 8)
  if r * r % edP = w then some r
  else
    let r := r * powMod edP 256 2 ((edP - 1) / 4) % edP
    if r * r % edP = w then some r else none

/-- A point from its 32 bytes; nothing where the encoding is not canonical or names no point. -/
def edDecode (bs : List Byte) : Option EdPt :=
  let n := ofLE (bs.take 32)
  let y := n % 2 ^ 255
  let sign := n / 2 ^ 255 % 2
  if edP ≤ y then none
  else
    (edSqrt (edSub (y * y) 1) ((edD * (y * y) + 1) % edP)).bind fun x =>
      if x = 0 ∧ sign = 1 then none
      else
        let x := if x % 2 = sign then x else edP - x
        some ⟨x, y, 1, x * y % edP⟩

/-- The base point: y = 4/5, x even. -/
def edBase : EdPt :=
  let y := 4 * edInv 5 % edP
  let x := (edSqrt (edSub (y * y) 1) ((edD * (y * y) + 1) % edP)).getD 0
  let x := if x % 2 = 0 then x else edP - x
  ⟨x, y, 1, x * y % edP⟩

/-- PureEd25519 verification with the cofactored equation: 0 valid, 1 the signature is invalid, 2 an encoding is (R125). -/
def edVerify (key msg sig : List Byte) : Nat :=
  let s := ofLE ((sig.drop 32).take 32)
  match edDecode key, edDecode (sig.take 32) with
  | some a, some r =>
    let k := ofLE (sha512 (sig.take 32 ++ key.take 32 ++ msg)) % edL
    if edL ≤ s then 1
    else if edEq (edMul 256 (8 * s) edBase) (edAdd (edMul 4 8 r) (edMul 256 (8 * k) a)) then 0
    else 1
  | _, _ => 2

/-! ### Jobs (R125) -/

/-- Bytes read by the engine under the system root, or the number read before one that cannot be. -/
def Fab.sysBytes (f : Fab) (va : Nat) : Nat → Except Nat (List Byte) × Fab
  | 0 => (.ok [], f)
  | n + 1 =>
    match f.sysTranslate .read va with
    | (.error _, f) => (.error 0, f)
    | (.ok a, f) =>
      let f := f.fixBit a
      if f.poisoned a then (.error 0, f)
      else
        match f.sysBytes (va + 1) n with
        | (.ok bs, f) => (.ok (memGet f.mem a :: bs), f)
        | (.error k, f) => (.error (k + 1), f)

/-- Bytes of task SRAM read by the engine. -/
def Fab.sramBytes (f : Fab) (a : Nat) : Nat → Except Nat (List Byte) × Fab
  | 0 => (.ok [], f)
  | n + 1 =>
    if f.uncorr (sramBase + a) then (.error 0, f)
    else match (f.fixSram a).sramBytes (a + 1) n with
      | (.ok bs, f) => (.ok (memGet f.mem (sramBase + a) :: bs), f)
      | (.error k, f) => (.error (k + 1), f)

/-- What a job reads. -/
def Fab.cryptoSource (f : Fab) (j : CJob) : Except Nat (List Byte) × Fab :=
  if j.src.getLsbD 63 then f.sysBytes (j.src.toNat % 2 ^ 63) j.len else f.sramBytes j.src.toNat j.len

/-- CRYPTO_COMPLETION of a queued job: digest or verdict, the message, the next job (R125). For a verification the bytes hashed that the message
tells are those of the signed message: the model's choice (log 52). -/
def Fab.cryptoDone (f : Fab) (i : Nat) : Fab :=
  match f.pom.crypto[i]? with
  | none => f
  | some j =>
    let (src, f) := f.cryptoSource j
    let (st, n, f) : Nat × Nat × Fab := match src with
      | .error k => (3, k, f)
      | .ok bs =>
        if j.sigv then (edVerify (f.bytes (sramBase + j.dst) 32) bs (f.bytes (sramBase + j.sig) 64), j.len, (f.fixSrams j.dst 4).fixSrams j.sig 8)
        else (0, j.len, (List.range 8).foldl (fun f i => f.setTag (sramBase + j.dst + 8 * i) 0) (f.setSram j.dst (sha512 bs)))
    let m : Msg := { w0 := BitVec.ofNat 64 (4 * 2 ^ 56 + (if j.sigv then 2 else 1) * 2 ^ 48 + j.tag.toNat * 2 ^ 32 + st), w1 := BitVec.ofNat 64 n }
    ((f.modPom fun p => { p with crypto := p.crypto.eraseIdx i }).send j.ch m) |> fun f => if i = 0 then f.startCrypto else f

/-- CRYPTO_COMPLETION (R125). -/
def execCryptoCompletion (job : Nat) (s : State) : Host.Outcome State Fault Refusal :=
  lift (fun f => f.cryptoDone job) s

end Sys2Proof.Machine
end

