-- ==== Sys2Proof/Machine/Lanes.lean ====
section
/-! DEFINITION. What lanes do outside rows: arrivals, bypass hops, discards (spec 02_encoding R43, 06_routing R136, R137, R141, R142,
R146). -/

namespace Sys2Proof.Machine

/-- The edge on which track 1 of an input edge leaves (R43, R51). -/
def Share.bypass (sh : Share) (d : Dir) : Option Dir := srcDir (fld sh.inmap (4 * dirIdx d) 3).toNat

/-- BYPASS_HOP: the token at the head of a track-1 lane moves on while the next lane has room; markers are not moved (R43, R137, R358). -/
def Fab.bypassHop (f : Fab) (e : ElemId) (c : Ctx) (d : Dir) : Fab :=
  let sh := (f.slot e c).share.getD {}
  match sh.bypass d, (f.lane e c (dataLane d 1)).head f.clock with
  | some o, some t =>
    match neighbour e o with
    | none => f
    | some x =>
      if t.kind = .marker || !decide ((f.lane x c (dataLane (oppDir o) 1)).occ f.clock < linkCap e o) then f
      else (f.modLane e c (dataLane d 1) fun l => l.pop f.clock).pushLink e c o 1 t
  | _, _ => f

/-- LANE_DISCARD_DROP: a lane in discard drops the data token at its head; an EOS is dropped and ends discard, a marker ends it and stays
(R142). -/
def Lane.dropHead (l : Lane) (now : Nat) : Lane :=
  if !l.discard then l
  else match l.head now with
    | none => l
    | some t =>
      match t.kind with
      | .data => l.pop now
      | .eos => { l.pop now with discard := false }
      | .marker => { l with discard := false }

/-- What the lanes of a slot owe at the end of a tick: discards first, then markers, then bypass hops. -/
def Slot.laneWork (s : Slot) (e : ElemId) (c : Ctx) (now : Nat) : List (Nat × Instr) :=
  ((List.range 16).flatMap fun k =>
    let l : LaneNo := Fin.ofNat 16 k
    let x := s.lane l
    if x.buf.isEmpty then []
    else
      (if x.discard && (x.head now).isSome then [(2, Instr.laneDiscardDrop e c l)] else []) ++
        (if x.buf.head?.any fun t => t.kind == .marker then [(3, Instr.markerTaken e c l)] else [])) ++
  (dirs.filterMap fun d =>
    match s.share.bind (·.bypass d), (s.lane (dataLane d 1)).head now with
    | some _, some t => if t.kind = .marker then none else some (2, Instr.bypassHop e c d)
    | _, _ => none)

/-- The work of all lanes on this tick. -/
def Fab.laneScan (f : Fab) : Fab :=
  f.elems.foldl (fun (f : Fab) (e, x) => ([0, 1, 2, 3] : List Ctx).foldl (fun (f : Fab) c =>
    ((x.slot c).laneWork e c f.clock).foldl (fun (f : Fab) (ph, i) => f.at f.clock ph i) f) f) f

/-- LINK_TOKEN_ARRIVAL (R136, R137). -/
def execLinkTokenArrival (e : ElemId) (c : Ctx) (l : LaneNo) (s : State) : Host.Outcome State Fault Refusal :=
  lift (fun f => f.modLane e c l fun x => x.arrive f.clock) s

/-- CONTROL_TOKEN_ARRIVAL (R146). -/
def execControlTokenArrival (e : ElemId) (c : Ctx) (l : LaneNo) (s : State) : Host.Outcome State Fault Refusal :=
  lift (fun f => f.modLane e c l fun x => x.arrive f.clock) s

/-- BYPASS_HOP (R43, R137). -/
def execBypassHop (e : ElemId) (c : Ctx) (d : Dir) (s : State) : Host.Outcome State Fault Refusal :=
  lift (fun f => f.bypassHop e c d) s

/-- LANE_DISCARD_DROP (R142). -/
def execLaneDiscardDrop (e : ElemId) (c : Ctx) (l : LaneNo) (s : State) : Host.Outcome State Fault Refusal :=
  lift (fun f => f.modLane e c l fun x => x.dropHead f.clock) s

end Sys2Proof.Machine
end

