-- ==== Sys2Proof/Machine/Loader.lean ====
section
/-! DEFINITION. The block image file and its acceptance: header, section table, hash and signature, descriptors, links, image-wide tables
(spec 02_encoding R41-R43, R49-R52, 12_tape R303, 14_containment R359, R361, R367, R368; log 31). -/

namespace Sys2Proof.Machine

/-- A little-endian number of a byte string; bytes past its end count as zero. -/
def numAt (bs : List Byte) (off n : Nat) : Nat := ofLE ((bs.drop off).take n)
/-- Bytes of a byte string. -/
def slice (bs : List Byte) (off n : Nat) : List Byte := (bs.drop off).take n
/-- Are n bytes from an offset zero? -/
def zeroAt (bs : List Byte) (off n : Nat) : Bool := (slice bs off n).all (· == 0)

/-! ### Header (R49) -/

/-- A rejection at a header field. -/
def hdrRej (cause off : Nat) : Reject := { cause := cause, ring := 5, offset := off }

/-- The header checks of a block image. -/
def headerCheck (bs : List Byte) : Option Reject :=
  let bad (lo hi off n : Nat) : Option Reject := failIf (decide (numAt bs off n < lo) || decide (hi < numAt bs off n)) (hdrRej 0x02 off)
  firstFail [
    failIf (numAt bs 0 4 != 0x4D495A44) (hdrRej 0x01 0),
    failIf (numAt bs 4 2 != 1) (hdrRej 0x01 4),
    failIf (decide (8 ≤ numAt bs 6 2)) (hdrRej 0x02 6),
    bad 1 60 0x08 2, bad 1 32 0x0A 2, bad 1 4096 0x0C 2, bad 1 8 0x0E 1, bad 1 32 0x0F 1, bad 1 4096 0x14 2,
    failIf (decide (4 ≤ numAt bs 0x16 1) && numAt bs 0x16 1 != 255) (hdrRej 0x02 0x16),
    failIf (numAt bs 0x17 1 != 0) (hdrRej 0x02 0x17),
    failIf (numAt bs 0x18 4 != bs.length || decide (bs.length < 160)) (hdrRej 0x02 0x18),
    failIf (!zeroAt bs 0x1C 4) (hdrRej 0x02 0x1C)]

/-! ### Sections (R50) -/

/-- A section: its number in the table, type, element, offset and length. -/
structure Sect where
  no : Nat
  type : Nat
  elem : Nat
  off : Nat
  len : Nat
  deriving DecidableEq, Repr

/-- The sections of an image. -/
def sections (bs : List Byte) : List Sect :=
  (List.range (numAt bs 0x14 2)).map fun i =>
    let a := 0xA0 + 16 * i
    ⟨i, numAt bs a 2, numAt bs (a + 2) 2, numAt bs (a + 4) 4, numAt bs (a + 8) 4⟩

/-- Do two sections overlap? -/
def Sect.meets (a b : Sect) : Bool := decide (a.off < b.off + b.len) && decide (b.off < a.off + a.len)

/-- What a section may stand for only once for each element: its type, and its bank or codebook number. -/
def Sect.what (bs : List Byte) (s : Sect) : Nat × Nat := (s.type, if s.type = 8 ∨ s.type = 9 then numAt bs s.off 1 else 0)

/-- Are two sections duplicates: one element, or one element and the whole image (R50)? -/
def Sect.twice (bs : List Byte) (a b : Sect) : Bool :=
  a.type != 6 && a.what bs == b.what bs && (a.elem == b.elem || a.elem == 0xFFFF || b.elem == 0xFFFF)

/-- Is a section's length one that its type allows? Rings are checked against their descriptor. -/
def Sect.lenOk (bs : List Byte) (s : Sect) : Bool :=
  match s.type with
  | 1 => s.len == 64 | 5 => s.len == 64 | 7 => s.len == 128 | 10 => s.len == 128
  | 6 => s.len % 36 == 0
  | 8 => decide (4 ≤ s.len) && s.len == 4 + 8 * numAt bs (s.off + 2) 2
  | 9 => s.len == 2052 || s.len == 1028
  | _ => true

/-- The first section that breaks R50, with the bytes of its failing field. -/
def sectionCheck (bs : List Byte) : Option Reject :=
  let ss := sections bs
  let n := numAt bs 0x08 2 * numAt bs 0x0A 2
  let top := 0xA0 + 16 * ss.length
  let rej (cause : Nat) (s : Sect) (o : Nat) : Reject := { cause := cause, ring := 6, index := s.no, offset := 0xA0 + 16 * s.no + o }
  let one (s : Sect) : Option Reject := firstFail [
    failIf (s.type == 0 || decide (11 ≤ s.type)) (rej 0x03 s 0),
    failIf (if [5, 6, 10].contains s.type then s.elem != 0xFFFF
      else decide (n ≤ s.elem) && !(decide (7 ≤ s.type) && s.elem == 0xFFFF)) (rej 0x03 s 2),
    failIf (decide (s.off < top) || decide (bs.length < s.off + s.len)) (rej 0x03 s 4),
    failIf (!s.lenOk bs) (rej 0x03 s 8),
    failIf (!zeroAt bs (0xA0 + 16 * s.no + 12) 4) (rej ldResbit s 12),
    failIf ((ss.take s.no).any fun t => s.meets t) (rej 0x03 s 4),
    failIf ((ss.take s.no).any fun t => s.twice bs t) (rej 0x03 s 2)]
  let missing (s : Sect) : Option Reject :=
    if s.type = 1 then
      failIf (([2, 3, 4] : List Nat).any fun k => !ss.any fun t => t.type == k && t.elem == s.elem) (rej 0x03 s 0)
    else none
  firstFail [failIf (decide (bs.length < top)) { cause := 0x03, ring := 6, offset := 0xA0 }, ss.findSome? one, ss.findSome? missing]

/-! ### Hash and signature (R49, R52, R135) -/

/-- A byte string with a range taken as zero. -/
def zeroed (bs : List Byte) (lo n : Nat) : List Byte := bs.take lo ++ List.replicate n 0 ++ bs.drop (lo + n)

/-- Is a signature field in order: one that must be there, or one that is not zero while a key is installed, verifies (R52, R135)? -/
def sigOk (key : Option (List Byte)) (must : Bool) (hash sig : List Byte) : Bool :=
  match key with
  | none => !must
  | some k => if sig.all (· == 0) then !must else edVerify k hash sig == 0

/-- The image-signing key and the task-image key of the installed record (R135). -/
def HostIf.imgKey (h : HostIf) : Option (List Byte) := h.keys.map fun r => slice r 16 32
def HostIf.taskKey (h : HostIf) : Option (List Byte) := h.keys.map fun r => slice r 48 32

/-- The hash and signature checks of an image. -/
def hashCheck (h : HostIf) (bs : List Byte) : Option Reject :=
  firstFail [
    failIf (sha512 (zeroed bs 0x20 128) != slice bs 0x20 64) (hdrRej 0x04 0x20),
    failIf (!sigOk h.imgKey ((numAt bs 6 2).testBit 0) (slice bs 0x20 64) (slice bs 0x60 64)) (hdrRej 0x05 0x60)]

/-! ### Reading the shares -/

/-- Items of a section, k bytes each. -/
def itemsAt (bs : List Byte) (s : Sect) (k : Nat) : List Nat := (List.range (s.len / k)).map fun i => numAt bs (s.off + k * i) k

/-- The section of a type that covers an element: its own, else the image-wide one. -/
def sectFor (ss : List Sect) (type e : Nat) : Option Sect :=
  ss.find? fun s => s.type == type && (s.elem == e || s.elem == 0xFFFF)
/-- All sections of a type that cover an element. -/
def sectsFor (ss : List Sect) (type e : Nat) : List Sect :=
  ss.filter fun s => s.type == type && (s.elem == e || s.elem == 0xFFFF)

/-- The parameter blocks of an image (R50). -/
def imageParams (bs : List Byte) (ss : List Sect) : FMap (BitVec 256) :=
  (ss.filter (·.type == 6)).foldl (fun m s => (List.range (s.len / 36)).foldl (fun m i =>
    mput (numAt bs (s.off + 36 * i) 1) (BitVec.ofNat 256 (numAt bs (s.off + 36 * i + 4) 32)) m) m) []

/-- The wave table of an image. -/
def imageWave (bs : List Byte) (ss : List Sect) : List W32 :=
  match ss.find? (·.type == 5) with
  | some s => (itemsAt bs s 4).map (BitVec.ofNat 32)
  | none => []

/-- The share of element e of an image (R49-R51). -/
def shareOf (bs : List Byte) (ss : List Sect) (img e : Nat) (hash : BitVec 512) : Share :=
  let words (t : Nat) (k : Nat) : List Nat := match sectFor ss t e with
    | some s => itemsAt bs s k
    | none => []
  let base : Share := { img := img, elem := e, ii := numAt bs 0x0C 2, stages := numAt bs 0x0E 1, copies := numAt bs 0x0F 1,
                        step := BitVec.ofNat 32 (numAt bs 0x10 4), flags := BitVec.ofNat 16 (numAt bs 6 2), hash := hash,
                        wave := imageWave bs ss, params := imageParams bs ss,
                        bytes := ((ss.filter fun s => !([5, 6, 10] : List Nat).contains s.type && (s.elem == e || s.elem == 0xFFFF)).map (·.len)).foldl (· + ·) 0 }
  let base := { base with
    arms := (words 7 8).map (BitVec.ofNat 64)
    luts := (sectsFor ss 8 e).map fun s =>
      (numAt bs s.off 1, numAt bs (s.off + 1) 1, (List.range ((s.len - 4) / 8)).map fun i => BitVec.ofNat 64 (numAt bs (s.off + 4 + 8 * i) 8))
    cbs := (sectsFor ss 9 e).map fun s => (numAt bs s.off 1, tyOf (numAt bs (s.off + 1) 1), slice bs (s.off + 4) (s.len - 4)) }
  match sectFor ss 1 e with
  | none => base
  | some d =>
    let tys (o n : Nat) : List Ty := (slice bs (d.off + o) n).map fun b => tyOf (b.toNat % 32)
    let sh : Share := { base with
      stage := numAt bs d.off 1
      op := (words 2 3).map (BitVec.ofNat 24)
      route := (words 3 2).map (BitVec.ofNat 16)
      reg := (words 4 2).map (BitVec.ofNat 16)
      inmap := BitVec.ofNat 16 (numAt bs (d.off + 4) 2)
      outmap := BitVec.ofNat 16 (numAt bs (d.off + 6) 2)
      outTy := tys 8 8
      inTy := tys 16 8
      regTy := tys 24 32 }
    { sh with fbTy := sh.fbDeclared, ship := sh.shipped }

/-! ### Elements (R20, R50-R52) -/

/-- A rejection at an element of the shape. -/
def elemRej (cols e cause ring index off : Nat) : Reject :=
  { cause := cause, ring := ring, col := e % cols, row := e / cols, index := index, offset := off }

/-- The checks of a descriptor against its rings (R20, R51). Type code 0x1F in a type byte is illegal without a cause of its own: OPTYPE is the
model's choice (log 52). -/
def descCheck (bs : List Byte) (ss : List Sect) (e : Nat) (d : Sect) : Option Reject :=
  let cols := numAt bs 0x08 2
  let rej (cause off : Nat) : Reject := elemRej cols e cause 6 d.no (d.off + off)
  let l (k : Nat) : Nat := numAt bs (d.off + k) 1
  let ring (t k width : Nat) : Option Reject := firstFail [
    failIf (l k == 0 || decide (128 < l k)) (rej 0x06 k),
    (sectFor ss t e).bind fun s => failIf (s.len != width * l k) (elemRej cols e 0x06 6 s.no (0xA0 + 16 * s.no + 8))]
  let p := Nat.lcm (l 1) (Nat.lcm (l 2) (l 3))
  firstFail [
    failIf (decide (numAt bs 0x0E 1 ≤ l 0)) (rej 0x08 0),
    ring 2 1 3, ring 3 2 2, ring 4 3 2,
    failIf (decide (4096 < p) || numAt bs 0x0C 2 % p != 0) (rej 0x07 1),
    failIf (([0, 1, 2, 3] : List Nat).any fun i => decide (5 ≤ bits (numAt bs (d.off + 4) 2) (4 * i) 3)) (rej ldResbit 4),
    failIf (decide (16 ≤ numAt bs (d.off + 6) 2)) (rej ldResbit 6),
    ((List.range 48).find? fun k => decide (0x1F ≤ l (8 + k))).map fun k => rej (if l (8 + k) = 0x1F then ldOptype else ldResbit) (8 + k),
    failIf (!zeroAt bs (d.off + 56) 8) (rej ldResbit 56)]

/-- The checks of the LUT sections and codebooks of an element (R50, R103). -/
def storeCheck (bs : List Byte) (ss : List Sect) (e : Nat) : Option Reject :=
  let cols := numAt bs 0x08 2
  let lut (s : Sect) : Option Reject :=
    failIf (decide (4 ≤ numAt bs s.off 1) || decide (256 < numAt bs (s.off + 1) 1 + numAt bs (s.off + 2) 2)) (elemRej cols e 0x18 6 s.no s.off)
  let bf (s : Sect) : Bool := numAt bs (s.off + 1) 1 == 0x0B
  let span (s : Sect) : Nat × Nat := let n := numAt bs s.off 1; if bf s then (2 * n, 2 * n + 2) else (n, n + 1)
  let cbs := sectsFor ss 9 e
  let cb (s : Sect) : Option Reject := firstFail [
    failIf (!(bf s || numAt bs (s.off + 1) 1 == 0x0D) || s.len != (if bf s then 2052 else 1028) || decide (8 < (span s).2))
      (elemRej cols e 0x18 6 s.no s.off),
    failIf (!zeroAt bs (s.off + 2) 2) (elemRej cols e ldResbit 6 s.no (s.off + 2)),
    failIf (cbs.any fun t => t.no < s.no && decide ((span t).1 < (span s).2) && decide ((span s).1 < (span t).2))
      (elemRej cols e 0x18 6 s.no s.off)]
  firstFail [(sectsFor ss 8 e).findSome? lut, cbs.findSome? cb]

/-- The checks of element e (R52 step 4). An element without a descriptor has the one ring row NOP; its arm store is checked as any
other (R7, R42, R47). -/
def elemCheck (bs : List Byte) (ss : List Sect) (sh : Share) (e : Nat) : Option Reject :=
  let cols := numAt bs 0x08 2
  let at_ (ring k : Nat) : Nat :=
    let t := match ring with | 1 => 2 | 2 => 3 | 3 => 4 | _ => 7
    ((sectFor ss t e).map fun s => s.off + (if ring = 1 then 3 else if ring = 4 then 8 else 2) * k).getD 0
  let rows : Option Reject := sh.rowsCheck.map fun (c, ring, k) => elemRej cols e c ring k (at_ ring k)
  match sectFor ss 1 e with
  | none => firstFail [rows, storeCheck bs ss e]
  | some d => firstFail [descCheck bs ss e d, rows, storeCheck bs ss e]

/-! ### Links and bypasses (R43, R52 step 5) -/

/-- The neighbour in the shape on an edge. -/
def shapeStep (cols rows e : Nat) : Dir → Option Nat
  | .n => if cols ≤ e then some (e - cols) else none
  | .s => if e + cols < cols * rows then some (e + cols) else none
  | .w => if e % cols ≠ 0 then some (e - 1) else none
  | .e => if e % cols + 1 ≠ cols then some (e + 1) else none

/-- The control edges that a row names: an output mask, the inputs of cin, and of imm8 for CAND and COR (R147, R157). -/
def RowWords.control (w : RowWords) : List Dir :=
  if formOf w.o = .oc then
    dirs.filter fun d => maskBit (fld w.op 8 4) d || srcDir (fld w.op 12 4).toNat == some d ||
      ((w.o == 0x5F || w.o == 0x60) && srcDir (fld w.op 0 3).toNat == some d)
  else []

/-- Does a bypass that leaves an element by an edge end at an element of the shape whose input edge reads track 1? Nothing where it does,
else the cause; the fuel bounds the chain. -/
def chainCheck (shares : List Share) (cols rows : Nat) : Nat → Nat → Dir → Option Nat
  | 0, _, _ => some ldTrack
  | n + 1, e, d =>
    match shapeStep cols rows e d with
    | none => some ldRouteout
    | some e' =>
      let sh := shares.getD e' {}
      if sh.inTrack (oppDir d) = 1 then none
      else match sh.bypass (oppDir d) with
        | none => some ldTrack
        | some d' => chainCheck shares cols rows n e' d'

/-- The checks of the links and bypasses of element e. -/
def linkCheck (shares : List Share) (cols rows e : Nat) (descAt : Nat) (no : Nat) : Option Reject :=
  let sh := shares.getD e {}
  let rej (cause off : Nat) : Reject := elemRej cols e cause 6 no (descAt + off)
  let ws := sh.allRows
  let drives (d : Dir) : Bool := ws.any fun w => maskBit w.links d
  let reads (d : Dir) : Bool := ws.any fun w => srcDir w.rt.a.toNat == some d || srcDir w.rt.b.toNat == some d
  let byp := dirs.filterMap fun d => (sh.bypass d).map fun t => (d, t)
  let outs := (dirs.filter drives).map (fun d => (d, sh.outTrack d)) ++ byp.map fun (_, t) => (t, 1)
  let ins := (dirs.filter reads).map (fun d => (d, sh.inTrack d)) ++ byp.map fun (d, _) => (d, 1)
  let outT (s : Share) (d : Dir) (k : Nat) : Ty := s.outTy.getD (2 * dirIdx d + k) .untyped
  let inT (s : Share) (d : Dir) (k : Nat) : Ty := s.inTy.getD (2 * dirIdx d + k) .untyped
  let edge (d : Dir) : Option Reject := failIf (shapeStep cols rows e d).isNone (rej ldRouteout 0)
  let link (out : Bool) (x : Dir × Nat) : Option Reject :=
    match shapeStep cols rows e x.1 with
    | none => some (rej ldRouteout (if out then 8 + 2 * dirIdx x.1 + x.2 else 16 + 2 * dirIdx x.1 + x.2))
    | some e' =>
      let other := shares.getD e' {}
      let (a, b) := if out then (outT sh x.1 x.2, inT other (oppDir x.1) x.2) else (inT sh x.1 x.2, outT other (oppDir x.1) x.2)
      failIf (a != b || a == .untyped) (rej ldLinktype (if out then 8 + 2 * dirIdx x.1 + x.2 else 16 + 2 * dirIdx x.1 + x.2))
  let bypass (x : Dir × Dir) : Option Reject := firstFail [
    failIf (x.1 == x.2 || byp.any (fun y => y.1 != x.1 && y.2 == x.2) || (drives x.2 && sh.outTrack x.2 == 1) ||
      inT sh x.1 1 != outT sh x.2 1) (rej ldTrack 4),
    (chainCheck shares cols rows (cols * rows + 1) e x.2).map fun c => rej c 4]
  firstFail [byp.findSome? bypass, outs.findSome? (link true), ins.findSome? (link false),
    (ws.flatMap (·.control)).findSome? edge]

/-! ### Image-wide tables (R41, R50, R52 step 6, R224, R303, R359, R361, R367, R368) -/

/-- The wave fields of the block of an op word: word and lowest bit. -/
def waveFields (op : BitVec 24) : List (Nat × Nat) :=
  let o := (fld op 16 8).toNat
  if o = 0x7A ∨ o = 0x96 ∨ o = 0xB6 ∨ o = 0xB7 ∨ o = 0xBE then [(3, 0), (3, 4)]
  else if o = 0x7B then [(3, 4)]
  else if 0x84 ≤ o ∧ o ≤ 0x87 then [(1, 22), (1, 26)]
  else if o = 0x98 then [(3, 16)]
  else if 0xA0 ≤ o ∧ o ≤ 0xA3 then [(4, 16), (4, 20)]
  else if o = 0xA4 then [(4, 16)]
  else if o = 0xA5 then [(4, 9)]
  else if o = 0xB0 ∨ o = 0xB1 ∨ o = 0xB2 ∨ o = 0xBB ∨ o = 0xBF then [(1, 0)]
  else if o = 0xB4 ∨ o = 0xB5 then [(4, 12), (4, 16)]
  else if o = 0xB8 then [(4, 0), (4, 4)]
  else if o = 0xB9 then [(4, 14), (4, 18)]
  else if o = 0xBC ∨ o = 0xBD then [(7, 14)]
  else []

/-- The wave entries that an op word names, in its own field or in its block (R41). -/
def Share.waveNames (sh : Share) (op : BitVec 24) : List Nat :=
  let o := (fld op 16 8).toNat
  (if formOf o = .om then [(fld op 12 4).toNat]
   else if formOf o = .ox ∧ usesBlock op then (waveFields op).map fun (k, b) => bits (pword (sh.block op) k) b 4
   else []).filter (· != 0)

/-- The checks of the wave table and parameter blocks. A block index above 63 breaks R50's range, which names no cause: BADSECT in step 6 is the
model's choice (log 52). -/
def wideCheck (bs : List Byte) (ss : List Sect) (shares : List Share) : Option Reject :=
  let wave := imageWave bs ss
  let names : List Nat := (shares.flatMap fun sh => sh.opWords.flatMap sh.waveNames) ++ ((shares.flatMap (·.ship)).eraseDups.map (· % 16))
  let wr (k : Nat) : Bool := decide (2 ≤ waveKind (wave.getD k 0))
  let wsect := ((ss.find? (·.type == 5)).map fun s => (s.no, s.off)).getD (0, 0)
  let rej (k : Nat) : Reject := { cause := ldWave, ring := 6, index := wsect.1, offset := wsect.2 + 4 * k }
  let param (s : Sect) : Option Reject := (List.range (s.len / 36)).findSome? fun i =>
    let o := s.off + 36 * i
    firstFail [
      failIf (decide (64 ≤ numAt bs o 1)) { cause := 0x03, ring := 6, index := s.no, offset := o },
      failIf (!zeroAt bs (o + 1) 3) { cause := ldResbit, ring := 6, index := s.no, offset := o + 1 }]
  let offs (s : Sect) : Option Reject := (List.range 32).findSome? fun i =>
    failIf (decide (numAt bs 0x0F 1 ≤ i) && numAt bs (s.off + 4 * i) 4 != 0)
      { cause := ldResbit, ring := 6, index := s.no, offset := s.off + 4 * i }
  firstFail [
    failIf (wave.getD 0 0 != 0) (rej 0),
    (List.range 16).findSome? fun k => failIf (wr k && waveOwn (wave.getD k 0) == 0xFF) (rej k),
    (List.range 16).findSome? fun k => failIf (wr k && decide (1 < (names.filter (· == k)).length)) (rej k),
    (ss.filter (·.type == 6)).findSome? param,
    (ss.filter (·.type == 10)).findSome? offs]

/-- The checks that the tape engine, marker cuts and redundant runs add (R303, R359, R361, R367, R368). -/
def extraCheck (shares : List Share) : Option Reject :=
  let flags := ((shares.head?).map (·.flags)).getD 0
  let ops := shares.flatMap fun sh => sh.opWords.map fun w => (sh, w)
  let o (w : BitVec 24) : Nat := (fld w 16 8).toNat
  let codes := ops.map fun x => o x.2
  let has (ks : List Nat) : Bool := codes.any fun k => ks.contains k
  let rec_ := flags.getLsbD 1
  let snap := flags.getLsbD 2
  let count (k : Nat) : Nat := (codes.filter (· == k)).length
  let list := ((shares.zip (List.range shares.length)).map fun (sh, i) => (sh.recList i).length).foldl (· + ·) 0
  let recompute := ops.any fun (sh, w) => o w == 0xCC && (pword (sh.block w) 0).testBit 4
  let barred (k : Nat) : Bool := queueOf k != .c || [0x70, 0x71, 0x7C, 0x75, 0x77, 0x76, 0x78, 0x82, 0x83, 0x93, 0x94, 0x95, 0x67, 0x68].contains k ||
    decide (0x8B ≤ k ∧ k ≤ 0x92) || decide (0xC4 ≤ k ∧ k ≤ 0xC8)
  let votes := (ops.filter fun x => o x.2 == 0xDC).map fun (sh, w) => sh.block w
  let pbs := (ops.filter fun x => o x.2 == 0xDC).map fun x => fld x.2 10 6
  let rej (c : Nat) : Reject := { cause := c, ring := 0 }
  firstFail [
    failIf (!rec_ && has [0xCC, 0xCD, 0xCE, 0xD3]) (rej 0x1A),
    failIf (decide (1 < count 0xCC) || decide (1 < count 0xCD)) (rej 0x1A),
    failIf (rec_ && decide (1024 < list)) (rej 0x1A),
    failIf (recompute && (decide (1 < ((shares.head?).map (·.stages)).getD 1) || codes.any barred)) (rej 0x1A),
    failIf (snap && (has [0x77, 0x76, 0x83, 0x78, 0x98, 0x71, 0x7C, 0x67, 0x68] ||
      codes.any fun k => decide (0x8B ≤ k ∧ k ≤ 0x92) || decide (0xC4 ≤ k ∧ k ≤ 0xC8))) (rej 0x1B),
    failIf (!snap && has [0xD4]) (rej 0x1B),
    failIf (!votes.isEmpty && (((shares.head?).map (·.copies)).getD 1 != 3 || decide (1 < pbs.eraseDups.length))) (rej 0x1C)]

/-! ### The image accepted (R52) -/

/-- A block image from its bytes, or the rejection. -/
def loadImage (h : HostIf) (img : Nat) (bs : List Byte) : Except Reject Image :=
  match firstFail [headerCheck bs, sectionCheck bs, hashCheck h bs] with
  | some r => .error r
  | none =>
    let ss := sections bs
    let cols := numAt bs 0x08 2
    let rows := numAt bs 0x0A 2
    let hash := BitVec.ofNat 512 (numAt bs 0x20 64)
    let shares := (List.range (cols * rows)).map fun e => shareOf bs ss img e hash
    let both := shares.zip (List.range shares.length)
    let link (x : Share × Nat) : Option Reject := (sectFor ss 1 x.2).bind fun d => linkCheck shares cols rows x.2 d.off d.no
    match firstFail [both.findSome? fun (sh, e) => elemCheck bs ss sh e, both.findSome? link, wideCheck bs ss shares, extraCheck shares] with
    | some r => .error r
    | none =>
      .ok { cols := cols, rows := rows, ii := numAt bs 0x0C 2, stages := numAt bs 0x0E 1, copies := numAt bs 0x0F 1
            step := BitVec.ofNat 32 (numAt bs 0x10 4), home := numAt bs 0x16 1, flags := BitVec.ofNat 16 (numAt bs 6 2), hash := hash
            shares := shares
            offs := ((ss.find? (·.type == 10)).map fun s => itemsAt bs s 4).getD []
            len := bs.length }

/-- The feature bits that an image needs (R134, R303, R367, R379). -/
def Image.needs (im : Image) : List Nat :=
  let codes := im.shares.flatMap fun sh => sh.opWords.map fun w => (fld w 16 8).toNat
  let remote := im.shares.any fun sh => sh.opWords.any fun w => fld w 16 8 == 0x96 && (pword (sh.block w) 3).testBit 13
  (if codes.contains 0x97 || remote then [0] else []) ++
    (if im.flags.getLsbD 1 || codes.any (fun k => decide (0xCC ≤ k ∧ k ≤ 0xD3)) then [1] else []) ++
    (if codes.contains 0xDC then [2] else [])

end Sys2Proof.Machine
end

