-- ==== Sys2Proof/Machine/TableFile.lean ====
section
/-! DEFINITION. Schedule tables and task images as files: header checks, hashes, signatures, what their bytes say and what loading them
changes (spec 05_taskcore R111, R130, 13_sequencing R322-R325, 14_containment R350; log 32). -/

namespace Sys2Proof.Machine

/-! ### Schedule tables (R322-R324) -/

/-- The byte length that a table's header asks for. -/
def tableLen (pmode : Nat) (bs : List Byte) : Nat :=
  0x100 + 32 * numAt bs 0x0C 2 + 68 * numAt bs 0x0E 2 + 12 * numAt bs 0x10 1 + 4 * numAt bs 0x11 1 + 8 * numAt bs 0x12 1 +
    2048 * channelsOf pmode

/-- The header checks of a table for a partition and mode. -/
def tableHeader (pmode p m : Nat) (bs : List Byte) : Option Reject :=
  let out (lo hi off n : Nat) : Option Reject := failIf (decide (numAt bs off n < lo) || decide (hi < numAt bs off n)) (hdrRej 0x20 off)
  let align (a off n : Nat) : Option Reject := failIf (numAt bs off n % a != 0) (hdrRej 0x20 off)
  firstFail [
    failIf (decide (bs.length < 0x100) || numAt bs 0 4 != 0x4C424154) (hdrRej 0x20 0),
    failIf (numAt bs 4 2 != 1) (hdrRej 0x20 4),
    failIf (decide (2 ≤ numAt bs 6 2)) (hdrRej 0x20 6),
    failIf (numAt bs 8 1 != p) (hdrRej 0x20 8),
    failIf (numAt bs 9 1 != m) (hdrRej 0x20 9),
    failIf (decide (8 ≤ numAt bs 0x0A 1) && numAt bs 0x0A 1 != 255) (hdrRej 0x20 0x0A),
    out 6 16 0x0B 1, out 1 512 0x0C 2, out 1 256 0x0E 2, out 0 32 0x10 1, out 1 16 0x11 1, out 0 64 0x12 1, out 0 0 0x13 1,
    failIf (numAt bs 0x14 4 % 4096 != 0 || numAt bs 0x14 4 == 0) (hdrRej 0x20 0x14),
    align 65536 0x20 8, align 65536 0x28 8, align 65536 0x30 8, align 65536 0x38 8, align 64 0x48 8,
    failIf (!zeroAt bs 0x50 48) (hdrRej 0x20 0x50),
    failIf (bs.length != tableLen pmode bs) (hdrRej 0x20 0x0C)]

/-- An entry from its 32 bytes. -/
def entryOf (bs : List Byte) : Entry :=
  let n (o k : Nat) : Nat := numAt bs o k
  let fl := n 4 1
  { block := n 0 1, fblock := n 1 1, place := n 2 1, fplace := n 3 1
    slot := Fin.ofNat 4 fl, trig := fl.testBit 2, safety := fl.testBit 3, onTainted := fl.testBit 4, indirect := fl.testBit 5
    tagSrc := bits fl 6 2, cls := bits (n 5 1) 0 5, fslot := Fin.ofNat 4 (bits (n 5 1) 6 2), tag := BitVec.ofNat 16 (n 6 2)
    start := n 8 4, dline := n 12 4, frames := n 16 4, fframes := n 20 2, cnt := n 22 2
    preds := (([24, 26, 28, 30] : List Nat).filter fun o => (n o 2).testBit 15).map fun o => bits (n o 2) 0 9 }

/-- The offset of the first field of an entry that R323 or R350 does not allow: sections of nplace placements and ncnt count locations. -/
def entryBad (nplace ncnt : Nat) (bs : List Byte) : Option Nat :=
  let n (o k : Nat) : Nat := numAt bs o k
  let x := entryOf bs
  let no (b : Bool) (o : Nat) : Option Nat := if b then some o else none
  let noTag := x.tagSrc == 0 || (x.tagSrc == 1 && !x.trig) || (x.tagSrc == 2 && x.preds.isEmpty)
  ([no (decide (nplace ≤ x.place)) 2,
    no (if x.fblock = 255 then x.fplace != 255 else decide (nplace ≤ x.fplace)) 3,
    no (x.tagSrc == 3) 4,
    no ((n 5 1).testBit 5 || decide (30 ≤ x.cls)) 5,
    no (noTag && x.tag == 0) 6,
    no (x.dline == 0) 12,
    no (x.frames == 0) 16,
    no (x.fblock != 255 && x.fframes == 0) 20,
    no (if x.indirect then decide (ncnt ≤ x.cnt) else x.cnt != 0) 22] ++
    ([24, 26, 28, 30] : List Nat).map fun o => no (bits (n o 2) 9 6 != 0) o).findSome? id

/-- A table from its bytes. -/
def tableOf (bs : List Byte) : Table :=
  let n (o k : Nat) : Nat := numAt bs o k
  let nent := n 0x0C 2
  let placeAt := 0x100 + 32 * nent
  let winAt := placeAt + 68 * n 0x0E 2
  let mcpAt := winAt + 12 * n 0x10 1
  let cntAt := mcpAt + 4 * n 0x11 1
  let slotAt := cntAt + 8 * n 0x12 1
  { safety := (n 6 2).testBit 0, safe := n 0x0A 1, recn := n 0x0B 1, major := n 0x14 4, root := n 0x18 8
    spillva := n 0x20 8, spilllen := n 0x28 8, evpa := n 0x30 8, evlen := n 0x38 8, evva := n 0x40 8, recva := n 0x48 8
    entries := (List.range nent).map fun i => entryOf (slice bs (0x100 + 32 * i) 32)
    places := (List.range (n 0x0E 2)).map fun i =>
      let a := placeAt + 68 * i
      (List.range (n a 1)).map fun k => (n (a + 4 + 2 * k) 1, n (a + 5 + 2 * k) 1)
    wins := (List.range (n 0x10 1)).map fun i =>
      let a := winAt + 12 * i
      { lo := n a 4, hi := n (a + 4) 4, ranks := (List.range 4).map fun s => bits (n (a + 8) 1) (2 * s) 2 }
    mcps := (List.range (n 0x11 1)).map fun i => n (mcpAt + 4 * i) 4
    cnts := (List.range (n 0x12 1)).map fun i => n (cntAt + 8 * i) 8
    slots := bs.drop slotAt
    hash := BitVec.ofNat 512 (n 0x80 64) }

/-- The first placement, window, mode-change point or count location that R322 does not allow: its number and the failing byte. -/
def tailBad (bs : List Byte) : Option (Nat × Nat) :=
  let n (o k : Nat) : Nat := numAt bs o k
  let placeAt := 0x100 + 32 * n 0x0C 2
  let winAt := placeAt + 68 * n 0x0E 2
  let mcpAt := winAt + 12 * n 0x10 1
  let cntAt := mcpAt + 4 * n 0x11 1
  let each (count : Nat) (g : Nat → Option Nat) : Option (Nat × Nat) := (List.range count).findSome? fun i => (g i).map fun o => (i, o)
  let place (i : Nat) : Option Nat :=
    let a := placeAt + 68 * i
    if n a 1 = 0 ∨ 32 < n a 1 then some a
    else if !zeroAt bs (a + 1) 3 then some (a + 1)
    else ((List.range 32).find? fun k => decide (n a 1 ≤ k) && n (a + 4 + 2 * k) 2 != 0).map fun k => a + 4 + 2 * k
  let win (i : Nat) : Option Nat := if zeroAt bs (winAt + 12 * i + 9) 3 then none else some (winAt + 12 * i + 9)
  let mcp (i : Nat) : Option Nat :=
    let o := n (mcpAt + 4 * i) 4
    if o % 4096 ≠ 0 ∨ n 0x14 4 ≤ o then some (mcpAt + 4 * i) else none
  let cnt (i : Nat) : Option Nat := if n (cntAt + 8 * i) 8 % 8 ≠ 0 then some (cntAt + 8 * i) else none
  ([each (n 0x0E 2) place, each (n 0x10 1) win, each (n 0x11 1) mcp, each (n 0x12 1) cnt] : List (Option (Nat × Nat))).findSome? id

/-- The partition setting in which two tables differ: its offset (R322). -/
def Table.differs (t u : Table) : Option Nat :=
  let ne (a b o : Nat) : Option Nat := if a = b then none else some o
  ([if t.safety == u.safety then none else some 6, ne t.root u.root 0x18, ne t.spillva u.spillva 0x20, ne t.spilllen u.spilllen 0x28,
    ne t.evpa u.evpa 0x30, ne t.evlen u.evlen 0x38, ne t.evva u.evva 0x40, ne t.recva u.recva 0x48] : List (Option Nat)).findSome? id

/-- The check of the partition settings against the tables of the partition's other modes (R322). -/
def Fab.settingsCheck (f : Fab) (p m : Nat) (t : Table) : Option Reject :=
  (f.tables.filter fun (k, _) => k / 8 == p && k != tableKey p m).findSome? fun (_, u) => (t.differs u).map fun o => hdrRej 0x20 o

/-- A table from its bytes, or the rejection: header, hash, signature, then the sections (R324). -/
def Fab.loadTable (f : Fab) (p m : Nat) (bs : List Byte) : Except Reject Table :=
  match tableHeader f.pmode p m bs with
  | some r => .error r
  | none =>
    let t := tableOf bs
    let raw (i : Nat) : Option Nat := entryBad t.places.length t.cnts.length (slice bs (0x100 + 32 * i) 32)
    match firstFail [
      f.settingsCheck p m t,
      failIf (sha512 (zeroed bs 0x80 128) != slice bs 0x80 64) (hdrRej 0x04 0x80),
      failIf (!sigOk f.host.imgKey t.safety (slice bs 0x80 64) (slice bs 0xC0 64)) (hdrRej 0x21 0xC0),
      f.tableCheck p t raw (tailBad bs)] with
    | some r => .error r
    | none => .ok t

/-- An accepted table loaded: the partition takes its settings, the image shares their units, and the locked entries of a safety-class
partition are loaded (R189, R322, R325). -/
def Fab.putTable (f : Fab) (p m : Nat) (t : Table) : Fab :=
  let f : Fab := { f with
    tables := mput (tableKey p m) t f.tables
    ents := f.ents.filter fun (k, _) => k / 512 != tableKey p m }
  let f := (f.modPart p fun q => { q with root := some t.root, safety := t.safety, spill := t.spillva, spillLen := t.spilllen }).reserve
  if t.safety then f.lockLeaves p else f

/-! ### Task images (R130) -/

/-- A segment of a task image: its address in task SRAM, its length, its bytes' offset in the file. -/
structure Seg where
  no : Nat
  addr : Nat
  len : Nat
  off : Nat
  deriving DecidableEq, Repr

/-- A binding entry: channel, priority, entry address. -/
structure Bind where
  no : Nat
  ch : Nat
  pri : Nat
  entry : Nat
  deriving DecidableEq, Repr

/-- The segments and bindings of a task image. -/
def taskSegs (bs : List Byte) : List Seg :=
  (List.range (numAt bs 8 2)).map fun i =>
    let a := 0xA0 + 16 * i
    ⟨i, numAt bs a 4, numAt bs (a + 4) 4, numAt bs (a + 8) 4⟩
def taskBinds (bs : List Byte) : List Bind :=
  (List.range (numAt bs 10 2)).map fun i =>
    let a := 0xA0 + 16 * numAt bs 8 2 + 8 * i
    ⟨i, numAt bs a 1, numAt bs (a + 1) 1, numAt bs (a + 4) 4⟩

/-- The checks of a task image, in the order of R52. R130 names no cause for a nonzero reserved byte of a segment or binding, a priority of 16 to
254, a misaligned segment or one outside the file: BADSECT is the model's choice (log 52). -/
def taskCheck (h : HostIf) (bs : List Byte) : Option Reject :=
  let ss := taskSegs bs
  let bindAt := 0xA0 + 16 * ss.length
  let top := bindAt + 8 * (taskBinds bs).length
  let meets (a b : Seg) : Bool := decide (a.addr < b.addr + b.len) && decide (b.addr < a.addr + a.len)
  let rej (c i o : Nat) : Reject := { cause := c, ring := 6, index := i, offset := o }
  let seg (s : Seg) : Option Reject :=
    let a := 0xA0 + 16 * s.no
    firstFail [
      failIf (s.addr % 8 != 0 || decide (0x38000 < s.addr + s.len)) (rej 0x03 s.no a),
      failIf (decide (s.off < top) || decide (bs.length < s.off + s.len)) (rej 0x03 s.no (a + 8)),
      failIf (!zeroAt bs (a + 12) 4) (rej 0x03 s.no (a + 12)),
      failIf ((ss.take s.no).any (meets s)) (rej 0x03 s.no a)]
  let bind (b : Bind) : Option Reject :=
    let a := bindAt + 8 * b.no
    firstFail [
      failIf (decide (64 ≤ b.ch) || chanReserved b.ch) (rej 0x03 b.no a),
      failIf (decide (16 ≤ b.pri) && b.pri != 255) (rej 0x03 b.no (a + 1)),
      failIf (!zeroAt bs (a + 2) 2) (rej 0x03 b.no (a + 2)),
      failIf (!ss.any fun s => decide (s.addr ≤ b.entry) && decide (b.entry < s.addr + s.len)) (rej 0x03 b.no (a + 4))]
  firstFail [
    failIf (numAt bs 0 4 != 0x4B534154) (hdrRej 0x01 0),
    failIf (numAt bs 4 2 != 1) (hdrRej 0x01 4),
    failIf (8 ≤ numAt bs 6 2) (hdrRej 0x02 6),
    failIf (!zeroAt bs 0x0C 8) (hdrRej 0x02 0x0C),
    failIf (!zeroAt bs 0x14 4) (hdrRej 0x02 0x14),
    failIf (numAt bs 0x18 4 != bs.length || decide (bs.length < 160)) (hdrRej 0x02 0x18),
    failIf (!zeroAt bs 0x1C 4) (hdrRej 0x02 0x1C),
    failIf (decide (bs.length < top)) (rej 0x03 0 0xA0),
    ss.findSome? seg, (taskBinds bs).findSome? bind,
    failIf (sha512 (zeroed bs 0x20 128) != slice bs 0x20 64) (hdrRej 0x04 0x20),
    failIf (!sigOk h.taskKey true (slice bs 0x20 64) (slice bs 0x60 64)) (hdrRej 0x05 0x60)]

/-- An accepted task image installed: the user region zeroed, bindings and priorities of reset, segments, bindings (R130). -/
def Fab.installTask (f : Fab) (bs : List Byte) : Fab :=
  let f : Fab := { f with
    mem := f.mem.filter fun (a, _) => !(decide (sramBase ≤ a) && decide (a < sramBase + 0x38000))
    tags := f.tags.filter fun (a, _) => !(decide (sramBase / 8 ≤ a) && decide (a < (sramBase + 0x38000) / 8)) }
  let f := (List.range 64).foldl (fun (f : Fab) c => f.modChan c fun k => { k with pri := (resetChan c).pri, bind := (resetChan c).bind }) f
  let f := (taskSegs bs).foldl (fun (f : Fab) s => f.setSram s.addr (slice bs s.off s.len)) f
  let f := (taskBinds bs).foldl (fun (f : Fab) b => f.modChan b.ch fun k =>
    { k with pri := chanPri b.ch (if b.pri = 255 then (resetChan b.ch).pri else b.pri), bind := .task (BitVec.ofNat 32 b.entry) }) f
  { f with host := { f.host with taskHash := BitVec.ofNat 512 (numAt bs 0x20 64) } }

end Sys2Proof.Machine
end

