-- ==== Sys2Proof/Machine/Bridle.lean ====
section
/-! DEFINITION. Bridle's commands: what a command record asks for and what is answered (spec 01_machine R31, 05_taskcore R128-R135, 08_global
R190, 13_sequencing R321-R328, R333, R335, R339, R340, R344, 14_containment R353, 15_package R379; log 29). -/

namespace Sys2Proof.Machine

/-! ### Records and answers (R131) -/

/-- A number of a command's inline arguments, by the offset in the record. -/
def cmdArg (c : Cmd) (off n : Nat) : Nat := numAt c.inl (off - 16) n

/-- Statuses of a response (R131). -/
def stOk : Nat := 0
def stNotready : Nat := 1
def stBadarg : Nat := 2
def stReject : Nat := 3
def stAuth : Nat := 4
def stNotneg : Nat := 5
def stBadcode : Nat := 6

/-- A command's answer. -/
def Fab.reply (f : Fab) (c : Cmd) (status : Nat) (result : List Byte := []) : Fab := f.respond c.tag status result

/-- The answer of a rejection: AUTH for a signature, REJECT otherwise, with the record (R52, R131, R324). -/
def Fab.replyReject (f : Fab) (c : Cmd) (r : Reject) : Fab :=
  f.reply c (if r.cause = 0x05 ∨ r.cause = 0x21 then stAuth else stReject) r.bytes

/-- A command that needs READY (R133). -/
def Fab.ready (f : Fab) (c : Cmd) (go : Fab → Fab) : Fab := if f.host.partState = 1 then go f else f.reply c stNotready

/-- A command's payload, read by DMA. -/
def Fab.payload (f : Fab) (c : Cmd) : List Byte := f.bytes (hostBase + c.addr.toNat) c.len.toNat

/-- Bytes written by DMA at the payload address. -/
def Fab.dmaOut (f : Fab) (c : Cmd) (bs : List Byte) : Fab := f.store (hostBase + c.addr.toNat) bs

/-- A result longer than the response: whole by DMA, its first 28 bytes in the response (log 29). -/
def Fab.replyLong (f : Fab) (c : Cmd) (bs : List Byte) : Fab := (f.dmaOut c bs).reply c stOk (bs.take 28)

/-- Is a feature accepted (R134)? -/
def Fab.hasFeature (f : Fab) (k : Nat) : Bool := (f.host.features.getD 0).getLsbD k

/-- The vector that is offered (R134). -/
def offered : BitVec 128 := 0x7FF

/-! ### IDENT, STATUS, FEATNEG, KEYINST (R132, R134, R135) -/

/-- The result of IDENT. -/
def Fab.identBytes (f : Fab) : List Byte :=
  leBytes 8 f.cap ++ leBytes 4 Config.bridleVersion.toNat ++ leBytes 64 Config.partRecordHash.toNat ++ leBytes 32 Config.identityKey.toNat

/-- A written vector: once per reset, before the first LOADIMG, and a subset of what is offered. -/
def Fab.featWrite (f : Fab) (c : Cmd) : Fab :=
  let v := BitVec.ofNat 128 (cmdArg c 24 16)
  if f.host.features.isSome || f.host.imgLoaded || v &&& ~~~offered != 0 then f.reply c stBadarg
  else { f with host := { f.host with features := some v } }.reply c stOk (leBytes 16 v.toNat)

/-- KEYINST: magic, version and reserved bytes, then the signature of the product key. -/
def Fab.keyInst (f : Fab) (c : Cmd) (bs : List Byte) : Fab :=
  if f.host.keys.isSome || f.host.imgLoaded || f.host.tblLoaded || bs.length != 160 then f.reply c stBadarg
  else if numAt bs 0 4 ≠ 0x5359454B ∨ numAt bs 4 2 ≠ 1 ∨ numAt bs 6 2 ≠ 0 ∨ !zeroAt bs 80 16 then f.reply c stBadarg
  else if edVerify (leBytes 32 Config.productKey.toNat) (sha512 (bs.take 96)) (slice bs 96 64) ≠ 0 then f.reply c stAuth
  else { f with host := { f.host with keys := some bs } }.reply c stOk ((sha512 bs).take 28)

/-! ### LOADIMG and LOADTBL (R52, R130, R190, R324, R325) -/

/-- Bytes that the image store may use (R190). -/
def storeMax : Nat := 768 * 2 ^ 20

/-- Bytes of the images in the store but for one number. -/
def Fab.storeUsed (f : Fab) (but : Nat) : Nat := ((f.images.filter fun (k, _) => k != but).map fun (_, im) => im.len).foldl (· + ·) 0

/-- LOADIMG of a task image. -/
def Fab.loadTask (f : Fab) (c : Cmd) (bs : List Byte) : Fab :=
  if !f.hasFeature 8 then f.reply c stNotneg
  else match taskCheck f.host bs with
    | some r => f.replyReject c r
    | none => (f.installTask bs).reply c stOk accepted.bytes

/-- LOADIMG of a payload. -/
def Fab.loadImg (f : Fab) (c : Cmd) (bs : List Byte) : Fab :=
  let f : Fab := { f with host := { f.host with imgLoaded := true } }
  let k := cmdArg c 16 2
  if numAt bs 0 4 = 0x4B534154 then f.loadTask c bs
  else if 256 ≤ k ∨ storeMax < f.storeUsed k + bs.length then f.reply c stBadarg
  else match loadImage f.host k bs with
    | .error r => f.replyReject c r
    | .ok im =>
      if im.needs.any fun b => !f.hasFeature b then f.reply c stNotneg
      else { f with images := mput k im f.images }.reserve.reply c stOk accepted.bytes

/-- LOADTBL of a payload; the table of a partition that is not safety class needs feature 4 (R134, R203, R324; log 29). -/
def Fab.loadTbl (f : Fab) (c : Cmd) (bs : List Byte) : Fab :=
  let f : Fab := { f with host := { f.host with tblLoaded := true } }
  let p := cmdArg c 16 1
  let m := cmdArg c 17 1
  if f.pmode ≤ p ∨ 8 ≤ m ∨ (f.part p).active = some m then f.reply c stBadarg
  else match f.loadTable p m bs with
    | .error r => f.replyReject c r
    | .ok t => if !t.safety && !f.hasFeature 4 then f.reply c stNotneg else (f.putTable p m t).reply c stOk accepted.bytes

/-! ### START, MODESW, QREC, PURGE (R31, R327, R333, R335, R344, R353) -/

/-- The reference of the entry that a START names, in the partition's active mode; the last argument is the request tag. -/
def Fab.startRef (f : Fab) (c : Cmd) : Nat :=
  cmdArg c 18 2 % 512 + ((f.part (cmdArg c 16 1)).active.getD 0) * 2 ^ 9 + cmdArg c 16 1 % 8 * 2 ^ 12 + cmdArg c 20 2 * 2 ^ 16

/-- START of a mode. -/
def Fab.startMode (f : Fab) (c : Cmd) : Fab :=
  if f.pmode ≤ cmdArg c 16 1 ∨ 8 ≤ cmdArg c 18 2 then f.reply c stBadarg
  else match f.activate (cmdArg c 16 1) (cmdArg c 18 2) with
    | some g => g.reply c stOk
    | none => f.reply c stBadarg

/-- A sequencing instruction issued by Bridle: performed at the sequencer 4 t later. -/
def Fab.issueSeq (f : Fab) (opc : Nat) (ka kb : Nat) : Fab :=
  { f with evq := f.evq ++ [⟨f.clock + 4, 0, .seq (taskWord opc 0 0 0) (BitVec.ofNat 64 ka) (BitVec.ofNat 64 kb) 0⟩] }

/-- START of an entry: one that the I/O die has launched is answered; otherwise LNCH is issued. -/
def Fab.startEntry (f : Fab) (c : Cmd) : Fab :=
  if f.host.ioStart then f.reply c stOk
  else if f.pmode ≤ cmdArg c 16 1 ∨ 512 ≤ cmdArg c 18 2 then f.reply c stBadarg
  else
    let ka := f.startRef c
    let st := (f.lnch false ka 0).1
    if st = 2 ∨ st = 3 then f.reply c stBadarg
    else (if st = 0 then f.issueSeq 0xE0 ka 0 else f).reply c stOk (leBytes 1 st)

/-- A host launch by the I/O die: the armed entry with its count argument and launch tag, or the START's tag where the arming gave none
(R344, log 23). -/
def Fab.hostLaunch (f : Fab) (c : Cmd) : Fab :=
  let p := cmdArg c 16 1
  let e := cmdArg c 18 2
  match (f.part p).active with
  | none => f
  | some m =>
    match (f.ent p m e).armed with
    | none => f
    | some (kb, tag, byVa) =>
      let tag := if tag = 0 then BitVec.ofNat 16 (cmdArg c 20 2) else tag
      if f.entryBusy p m e || f.launchTag p m e tag == 0 then f else f.launch p m e kb.toNat tag byVa

/-- MODESW: the result is the switch tick. -/
def Fab.modeSwitch (f : Fab) (c : Cmd) : Fab :=
  let p := cmdArg c 16 1
  if 8 ≤ cmdArg c 17 1 then f.reply c stBadarg
  else match f.requestSwitch p (cmdArg c 17 1) with
  | (0, g) => g.reply c stOk (leBytes 8 ((f.pointAfter p (f.ctr p)).getD 0))
  | _ => f.reply c stBadarg

/-- Bytes read under the system root, or nothing where one does not translate. -/
def Fab.readSys (f : Fab) (va : Nat) : Nat → Option (List Byte) × Fab
  | 0 => (some [], f)
  | n + 1 =>
    match f.sysTranslate .read va with
    | (.error _, f) => (none, f)
    | (.ok a, f) =>
      let (rest, g) := (f.fixBit a).readSys (va + 1) n
      (rest.map fun bs => memGet f.mem a :: bs, g)

/-- QREC: the newest records, oldest first, as many as the ring still holds. -/
def Fab.queryRecords (f : Fab) (c : Cmd) : Fab :=
  let p := cmdArg c 16 1
  if f.pmode ≤ p then f.reply c stBadarg
  else match (f.part p).active.bind (f.table p) with
    | none => f.reply c stOk
    | some t =>
      let all := (f.part p).records
      let n := min (cmdArg c 18 2) (min all (2 ^ t.recn))
      let (bs, f) := (List.range n).foldl (fun (acc : Option (List Byte) × Fab) i =>
        let (r, g) := acc.2.readSys (t.recva + 64 * ((all - n + i) % 2 ^ t.recn)) 64
        (acc.1.bind fun xs => r.map fun ys => xs ++ ys, g)) (some [], f)
      match bs with
      | none => f.reply c stBadarg
      | some bs => (f.dmaOut c bs).reply c stOk

/-- PURGE: the instruction is issued with the tag; tag 0 changes nothing. -/
def Fab.purgeCmd (f : Fab) (c : Cmd) : Fab :=
  if cmdArg c 16 2 = 0 then f.reply c stBadarg else (f.issueSeq 0xDA (cmdArg c 16 2) 0).reply c stOk

/-! ### MIRCFG, TIMECFG (R321, R379) -/

/-- Is a MIRR or XFER in flight? -/
def Fab.mirrorBusy (f : Fab) : Bool :=
  !f.pom.jobs.isEmpty || f.elems.any fun (_, x) => x.sq.toList.any fun j => j.live && (j.opc == 0x96 || j.opc == 0x97)

/-- MIRCFG. -/
def Fab.mirrorCfg (f : Fab) (c : Cmd) : Fab :=
  let s := cmdArg c 24 4
  let n := cmdArg c 28 2
  if f.mirrorBusy || cmdArg c 16 8 % 64 != 0 || s % 128 != 0 || s == 0 || n == 0 || decide (1024 < n) || decide (4 ≤ cmdArg c 30 1) ||
      bits (cmdArg c 31 1) 3 4 != 0 || decide (64 ≤ cmdArg c 48 1) then f.reply c stBadarg
  else
    let hb := cmdArg c 30 1
    { f with beryl := { f.beryl with
        mva := BitVec.ofNat 64 (cmdArg c 16 8), ssize := s, nslot := n
        hbSend := hb.testBit 0, hbWatch := hb.testBit 1, solo := cmdArg c 31 1
        xva := BitVec.ofNat 64 (cmdArg c 32 8), xlen := cmdArg c 40 8, parts := cmdArg c 48 1
        hbNext := f.clock + hbPeriod, hbDue := f.clock + hbTimeout } }.reply c stOk

/-- TIMECFG. -/
def Fab.timeCfg (f : Fab) (c : Cmd) : Fab :=
  let step := (BitVec.ofNat 64 (cmdArg c 24 8)).toInt
  let alim := cmdArg c 32 4
  if 2 ≤ cmdArg c 16 1 ∨ 2 ^ f.pmode ≤ cmdArg c 17 1 ∨ step % 4096 ≠ 0 ∨ 858993 < alim then f.reply c stBadarg
  else
    let on := cmdArg c 16 1 = 1
    let set (q : Part) : Part := { q with
      disciplined := on, alim := alim
      rate := if on then clampInt (-(alim : Int)) alim q.rate else 0
      step := if step = 0 then q.step else step }
    ((List.range f.pmode).foldl (fun (f : Fab) p => if (cmdArg c 17 1).testBit p then f.modPart p set else f) f).reply c stOk

/-! ### PARTMODE, DIEOFF, ATTEST, THROTTLE (R128, R132, R339, R340) -/

/-- PARTMODE: answered when the change has ended. -/
def Fab.partModeCmd (f : Fab) (c : Cmd) : Fab :=
  match f.partMode (cmdArg c 16 1) none (some c.tag) with
  | (0, g) => g
  | (1, _) => f.reply c stBadarg
  | _ => f.reply c (if [2, 3, 6].contains (cmdArg c 16 1) then stNotneg else stBadarg)

/-- DIEOFF: answered when the die has been taken offline or has stayed. -/
def Fab.dieOffCmd (f : Fab) (c : Cmd) : Fab :=
  if !f.hasFeature 9 then f.reply c stNotneg
  else if 2 ≤ cmdArg c 17 1 then f.reply c stBadarg
  else match f.dieOff (cmdArg c 16 1) (cmdArg c 17 1 == 1) none (some c.tag) with
    | (0, g) => g
    | _ => f.reply c stBadarg

/-- The report that ATTEST signs: nonce, Bridle hash, task-image hash, hash of the installed key record, hashes of all loaded tables, accepted
features. -/
def Fab.report (f : Fab) (c : Cmd) : List Byte :=
  c.inl.take 32 ++ leBytes 64 Config.bridleHash.toNat ++ leBytes 64 f.host.taskHash.toNat ++
    (match f.host.keys with
      | some k => sha512 k
      | none => leBytes 64 0) ++
    f.tables.flatMap (fun (_, t) => leBytes 64 t.hash.toNat) ++ leBytes 16 (f.host.features.getD 0).toNat

/-- ATTEST: the report with its signature. -/
def Fab.attest (f : Fab) (c : Cmd) : Fab :=
  let r := f.report c
  f.replyLong c (r ++ leBytes 64 (Config.identitySign (BitVec.ofNat 512 (ofLE (sha512 r)))).toNat)

/-- THROTTLE: the FLOOR of a fabric die. -/
def Fab.throttle (f : Fab) (c : Cmd) : Fab :=
  if 6 ≤ cmdArg c 16 1 ∨ 8 ≤ cmdArg c 17 1 then f.reply c stBadarg
  else (f.modBlock (cmdArg c 16 1) fun b => { b with floor := cmdArg c 17 1 }).reply c stOk

/-! ### SYSMAP (R190) -/

/-- The level of the leaf of a page size code. -/
def mapLevel (size : Nat) : Nat := 3 - size

/-- Bytes of the reserve that system tables may take, the root among them: what the image store leaves (R190, log 29). -/
def sysTablesMax : Nat := 2 ^ 28

/-- A frame of the reserve for a table of a size, aligned to it. -/
def Fab.sysFrame (f : Fab) (size : Nat) : Option (Nat × Fab) :=
  let a := padTo size (65536 + f.sysFrames)
  if sysTablesMax < a + size then none else some (f.cap - 2 ^ 30 + a, { f with sysFrames := a + size - 65536 })

/-- A page's leaf written, tables made on the way; nothing where a page in its place is mapped or no frame is left. -/
def Fab.mapPage (f : Fab) (va level : Nat) (leaf : W64) : Nat → Nat → Option Fab
  | 0, _ => none
  | fuel + 1, table =>
    let cur := 3 - fuel
    let (pos, width, _) := levelOf cur
    let at_ := table + 8 * (va / 2 ^ pos % 2 ^ width)
    let x := f.pte at_
    if cur = level then
      (if x.getLsbD 0 && (x.getLsbD 1 || !(f.leavesBelow fuel (x.toNat / 2 ^ 8 * 2 ^ 8) 0).isEmpty) then none
       else some (f.store at_ (leBytes 8 leaf.toNat)))
    else if x.getLsbD 0 then
      (if x.getLsbD 1 then none else f.mapPage va level leaf fuel (x.toNat / 2 ^ 8 * 2 ^ 8))
    else
      match f.sysFrame (levelOf (cur + 1)).2.2 with
      | none => none
      | some (t, f) => (f.store at_ (leBytes 8 (t + 1))).mapPage va level leaf fuel t

/-- Pages mapped from an address on. -/
def Fab.mapPages (f : Fab) (va target size flags : Nat) : Nat → Option Fab
  | 0 => some f
  | n + 1 =>
    let step := 2 ^ (levelOf (mapLevel size)).1
    match f.mapPage va (mapLevel size) (BitVec.ofNat 64 (target + 3 + flags % 8 * 4)) 4 (f.sysRoot.getD 0) with
    | none => none
    | some g => g.mapPages (va + step) (target + step) size flags n

/-- The place of a valid leaf of a page size. -/
def Fab.leafAt (f : Fab) (va level : Nat) : Option Nat :=
  match f.walkRoot none va with
  | .ok (_, pos, at_) => if pos = (levelOf level).1 then some at_ else none
  | .error _ => none

/-- Pages unmapped from an address on. -/
def Fab.unmapPages (f : Fab) (va size : Nat) : Nat → Option Fab
  | 0 => some f
  | n + 1 =>
    match f.leafAt va (mapLevel size) with
    | none => none
    | some a => (f.store a (leBytes 8 0)).unmapPages (va + 2 ^ (levelOf (mapLevel size)).1) size n

/-- The arguments that R190 answers with BADARG, for both forms. -/
def Fab.sysmapBad (f : Fab) (c : Cmd) : Bool :=
  let va := cmdArg c 16 8
  let target := cmdArg c 24 8
  let len := cmdArg c 32 8
  let fl := cmdArg c 41 1
  let page := 2 ^ (levelOf (mapLevel (cmdArg c 40 1))).1
  decide (4 ≤ cmdArg c 40 1) || decide (16 ≤ fl) || cmdArg c 42 6 != 0 || va % page != 0 || target % page != 0 || len % page != 0 || len == 0 ||
    decide (2 ^ 48 < va + len) || (fl.testBit 1 && fl.testBit 2) ||
    (if fl.testBit 3 then target != 0 else !fl.testBit 2 && decide (f.cap - 2 ^ 30 < target + len))

/-- The stores that wait in Pommel's store buffer performed, each in its turn: an unmapping answers when the accesses that were translated
by its entries have been performed (R190, R217). -/
def Fab.drainStores (f : Fab) : Fab := f.pom.sbuf.foldl (fun (f : Fab) _ => f.drainStore) f

/-- SYSMAP, mapping or unmapping: the number of pages written. -/
def Fab.sysmap (f : Fab) (c : Cmd) (unmap : Bool) : Fab :=
  let pages := cmdArg c 32 8 / 2 ^ (levelOf (mapLevel (cmdArg c 40 1))).1
  if (cmdArg c 41 1).testBit 2 && !f.hasFeature 6 then f.reply c stNotneg
  else if f.sysmapBad c then f.reply c stBadarg
  else
    match if unmap then f.unmapPages (cmdArg c 16 8) (cmdArg c 40 1) pages else f.mapPages (cmdArg c 16 8) (cmdArg c 24 8) (cmdArg c 40 1) (cmdArg c 41 1) pages with
    | none => f.reply c stBadarg
    | some g => (if unmap then (g.drainStores.dropTlb none (cmdArg c 16 8) (cmdArg c 32 8)).2 else g).reply c stOk (leBytes 8 pages)

/-! ### The instructions -/

/-- A command handled by Bridle in READY (R131, R133). -/
def bridle (c : Cmd) (go : Fab → Fab) : State → Host.Outcome State Fault Refusal := lift fun f => f.ready c go

/-- IDENT (R132). -/
def execIdent (c : Cmd) (s : State) : Host.Outcome State Fault Refusal := lift (fun f => f.replyLong c f.identBytes) s

/-- STATUS (R132). -/
def execStatus (c : Cmd) (s : State) : Host.Outcome State Fault Refusal := lift (fun f => f.reply c stOk f.host.statusBytes) s

/-- FEATNEG_READ (R134). -/
def execFeatnegRead (c : Cmd) (s : State) : Host.Outcome State Fault Refusal :=
  bridle c (fun f => f.reply c stOk (leBytes 16 (f.host.features.getD offered).toNat)) s

/-- FEATNEG_WRITE (R134). -/
def execFeatnegWrite (c : Cmd) (s : State) : Host.Outcome State Fault Refusal := bridle c (fun f => f.featWrite c) s

/-- LOADIMG (R52, R130, R325). -/
def execLoadimg (c : Cmd) (s : State) : Host.Outcome State Fault Refusal := bridle c (fun f => f.loadImg c (f.payload c)) s

/-- LOADTBL (R324). -/
def execLoadtbl (c : Cmd) (s : State) : Host.Outcome State Fault Refusal := bridle c (fun f => f.loadTbl c (f.payload c)) s

/-- START_MODE (R327). -/
def execStartMode (c : Cmd) (s : State) : Host.Outcome State Fault Refusal := bridle c (fun f => f.startMode c) s

/-- START_ENTRY (R344). -/
def execStartEntry (c : Cmd) (s : State) : Host.Outcome State Fault Refusal := bridle c (fun f => f.startEntry c) s

/-- HOST_LAUNCH (R31, R344: by the I/O die, without Pommel). -/
def execHostLaunch (c : Cmd) (s : State) : Host.Outcome State Fault Refusal := lift (fun f => f.hostLaunch c) s

/-- MODESW (R132, R335). -/
def execModesw (c : Cmd) (s : State) : Host.Outcome State Fault Refusal := bridle c (fun f => f.modeSwitch c) s

/-- QREC (R333). -/
def execQrec (c : Cmd) (s : State) : Host.Outcome State Fault Refusal := bridle c (fun f => f.queryRecords c) s

/-- PURGE_CMD (R352, R353). -/
def execPurgeCmd (c : Cmd) (s : State) : Host.Outcome State Fault Refusal := bridle c (fun f => f.purgeCmd c) s

/-- MIRCFG (R379). -/
def execMircfg (c : Cmd) (s : State) : Host.Outcome State Fault Refusal := bridle c (fun f => f.mirrorCfg c) s

/-- TIMECFG (R321). -/
def execTimecfg (c : Cmd) (s : State) : Host.Outcome State Fault Refusal := bridle c (fun f => f.timeCfg c) s

/-- PARTMODE (R339). -/
def execPartmode (c : Cmd) (s : State) : Host.Outcome State Fault Refusal := bridle c (fun f => f.partModeCmd c) s

/-- DIEOFF (R340). -/
def execDieoff (c : Cmd) (s : State) : Host.Outcome State Fault Refusal := bridle c (fun f => f.dieOffCmd c) s

/-- ATTEST (R132). -/
def execAttest (c : Cmd) (s : State) : Host.Outcome State Fault Refusal := bridle c (fun f => f.attest c) s

/-- THROTTLE (R128). -/
def execThrottle (c : Cmd) (s : State) : Host.Outcome State Fault Refusal := bridle c (fun f => f.throttle c) s

/-- KEYINST (R135). -/
def execKeyinst (c : Cmd) (s : State) : Host.Outcome State Fault Refusal := bridle c (fun f => f.keyInst c (f.payload c)) s

/-- SYSMAP_MAP (R190). -/
def execSysmapMap (c : Cmd) (s : State) : Host.Outcome State Fault Refusal := bridle c (fun f => f.sysmap c false) s

/-- SYSMAP_UNMAP (R190). -/
def execSysmapUnmap (c : Cmd) (s : State) : Host.Outcome State Fault Refusal := bridle c (fun f => f.sysmap c true) s

/-- UNKNOWN_COMMAND_CODE (R131, R133). -/
def execUnknownCommandCode (_code : BitVec 16) (c : Cmd) (s : State) : Host.Outcome State Fault Refusal :=
  bridle c (fun f => f.reply c stBadcode) s

end Sys2Proof.Machine
end

