-- ==== Sys2Proof/Machine/SeqTask.lean ====
section
/-! DEFINITION. The instructions of Pommel that the sequencer performs (spec 13_sequencing R342-R349, 14_containment R353, R366, R370). -/

namespace Sys2Proof.Machine

/-- What the sequencer does for an opcode. -/
def seqAct (opc : Nat) : Fab → Nat → Nat → Nat × Fab :=
  match opc with
  | 0xD9 => Fab.verdTask
  | 0xDA => Fab.purgeTask
  | 0xDB => Fab.keepc
  | 0xE0 => Fab.lnch false
  | 0xE1 => Fab.lnch true
  | 0xE2 => Fab.tblsw
  | 0xE3 => Fab.ctxld
  | 0xE4 => Fab.ctxsw
  | 0xE5 => Fab.drnq
  | 0xE6 => Fab.ovrq
  | 0xE7 => Fab.fbsel
  | 0xE8 => Fab.teard
  | 0xE9 => Fab.partm
  | 0xEA => Fab.doff
  | _ => Fab.spare

/-- The fabric as the instructions on their way to the sequencer leave it: the one that a status of a later instruction speaks of (log 23). -/
def Fab.ahead (f : Fab) : Fab :=
  f.evq.foldl (fun g x => match x.w with
    | .seq w a b _ => (seqAct (fld w 24 8).toNat g a.toNat b.toNat).2
    | _ => g) f

/-- A sequencing instruction (R342): its status returns after a latency; it is performed at the sequencer 4 t after issue, where a query takes
its result. `ph` is the phase of the tick on which it is performed, `go` the statuses with which it is. -/
def seqTask (opc lat ph : Nat) (query : Bool) (go : Nat → Bool) (d a b : BitVec 5) :
    State → Host.Outcome State Fault Refusal :=
  lift fun f =>
    match f.pom.perf with
    | none =>
      let ka := f.pom.r a
      let kb := f.pom.r b
      let st := if query then 0 else (seqAct opc f.ahead ka.toNat kb.toNat).1
      let f : Fab := if query || go st then
          { f with evq := f.evq ++ [⟨f.clock + 4, ph, .seq (taskWord opc d a b) ka kb (f.cyc + lat)⟩] } else f
      f.taskRet d (BitVec.ofNat 64 st) lat
    | some (ka, kb, done) =>
      let (v, g) := seqAct opc f ka.toNat kb.toNat
      g.modPom fun p =>
        let p := { p with perf := none }
        if query && d != 0 && p.ready.get d.toFin == done then { p with k := p.k.set d.toFin (BitVec.ofNat 64 v) } else p

/-- LNCH (R343, R344). -/
def execLnch (d : BitVec 5) (a : BitVec 5) (b : BitVec 5) (s : State) : Host.Outcome State Fault Refusal :=
  seqTask 0xE0 4 0 false (· == 0) d a b s

/-- LNCHI (R343, R344). -/
def execLnchi (d : BitVec 5) (a : BitVec 5) (b : BitVec 5) (s : State) : Host.Outcome State Fault Refusal :=
  seqTask 0xE1 4 0 false (· == 0) d a b s

/-- TBLSW (R343, R345). -/
def execTblsw (d : BitVec 5) (a : BitVec 5) (s : State) : Host.Outcome State Fault Refusal :=
  seqTask 0xE2 4 0 false (· == 0) d a 0 s

/-- CTXLD (R343, R345). -/
def execCtxld (d : BitVec 5) (a : BitVec 5) (b : BitVec 5) (s : State) : Host.Outcome State Fault Refusal :=
  seqTask 0xE3 4 0 false (· == 0) d a b s

/-- CTXSW (R343, R348). -/
def execCtxsw (d : BitVec 5) (a : BitVec 5) (b : BitVec 5) (s : State) : Host.Outcome State Fault Refusal :=
  seqTask 0xE4 24 0 true (· == 0) d a b s

/-- DRNQ (R343, R347). -/
def execDrnq (d : BitVec 5) (a : BitVec 5) (b : BitVec 5) (s : State) : Host.Outcome State Fault Refusal :=
  seqTask 0xE5 24 0 true (· == 0) d a b s

/-- OVRQ (R343, R349). -/
def execOvrq (d : BitVec 5) (a : BitVec 5) (s : State) : Host.Outcome State Fault Refusal :=
  seqTask 0xE6 24 0 true (· == 0) d a 0 s

/-- FBSEL: it holds from the tick after its performance (R343, R346). -/
def execFbsel (d : BitVec 5) (a : BitVec 5) (b : BitVec 5) (s : State) : Host.Outcome State Fault Refusal :=
  seqTask 0xE7 4 2 false (· == 0) d a b s

/-- TEARD (R343, R346). -/
def execTeard (d : BitVec 5) (a : BitVec 5) (b : BitVec 5) (s : State) : Host.Outcome State Fault Refusal :=
  seqTask 0xE8 4 0 false (· == 0) d a b s

/-- PARTM (R339, R343). -/
def execPartm (d : BitVec 5) (a : BitVec 5) (b : BitVec 5) (s : State) : Host.Outcome State Fault Refusal :=
  seqTask 0xE9 4 0 false (· == 0) d a b s

/-- DOFF (R340, R343). -/
def execDoff (d : BitVec 5) (a : BitVec 5) (b : BitVec 5) (s : State) : Host.Outcome State Fault Refusal :=
  seqTask 0xEA 4 0 false (· == 0) d a b s

/-- SPARE (R341, R343). -/
def execSpare (d : BitVec 5) (a : BitVec 5) (b : BitVec 5) (s : State) : Host.Outcome State Fault Refusal :=
  seqTask 0xEB 4 0 false (· ≤ 1) d a b s

/-- PURGE (R352, R353). -/
def execPurge (d : BitVec 5) (a : BitVec 5) (s : State) : Host.Outcome State Fault Refusal :=
  seqTask 0xDA 4 0 false (fun v => v != 2 ^ 63) d a 0 s

/-- KEEPC (R366). -/
def execKeepc (d : BitVec 5) (a : BitVec 5) (s : State) : Host.Outcome State Fault Refusal :=
  seqTask 0xDB 4 0 false (· == 0) d a 0 s

/-- VERD on Pommel (R370). -/
def execVerdTask (d : BitVec 5) (a : BitVec 5) (b : BitVec 5) (s : State) : Host.Outcome State Fault Refusal :=
  seqTask 0xD9 24 0 true (· == 0) d a b s

end Sys2Proof.Machine
end

