-- ==== Sys2Proof/Machine/Tick.lean ====
section
/-! DEFINITION. Which regions issue their rows on a tick, and the tick that follows: row counters, tick counters, what falls due
(spec 01_machine R21-R25, 05_taskcore R124, R129, 06_routing R139, R148, 08_global R210, 13_sequencing R320, R322, R326-R331,
14_containment R358, R364, 15_package R380; log 2). -/

namespace Sys2Proof.Machine

/-! ### The row of an element (R21, R22) -/

/-- The three words of the row of an element's context (R21). -/
def Fab.ringWords (f : Fab) (e : ElemId) (c : Ctx) : BitVec 24 × BitVec 16 × BitVec 16 :=
  let sh := (f.slot e c).share.getD {}
  let g := (f.rowOf e c).1
  (sh.op.getD (g % max sh.op.length 1) 0, sh.route.getD (g % max sh.route.length 1) 0,
    sh.reg.getD (g % max sh.reg.length 1) 0)

/-- A row of an element of three words. -/
def Fab.rowOfWords (f : Fab) (e : ElemId) (c : Ctx) (op : BitVec 24) (route reg : BitVec 16) : Row :=
  ⟨f, e, c, op, ⟨decodeRoute route, decodeReg reg⟩⟩

/-- Is an element of a share inside its stage's window at a row (R22)? -/
def Share.enabled (sh : Share) (n g : Nat) : Bool := decide (sh.stage * sh.ii ≤ g ∧ g < (sh.stage + n) * sh.ii)

/-- The rows of a region: up to the last row of the run, or of a regeneration (R22, R306). -/
def Copy.rowsOf (cp : Copy) (n : Nat) (sh : Share) : Nat := cp.stop.getD ((n + sh.stages - 1) * sh.ii)

/-! ### May a row issue? (R139) -/

/-- Does no job or command of the row's region and context stand (R358)? -/
def Row.quiet (r : Row) : Bool :=
  r.cp.elems.all fun e => let x := r.f.elem e
    !x.sq.toList.any (fun b => b.live && b.c == r.c) && !x.mq.any fun k => k.c == r.c

/-- May a row but an ARMX issue: its attempt answers, or its plan is not to hold (R139, R149-R163, R316, R317, R358). -/
def Row.canIssueArm (r : Row) : Bool :=
  match r.opc with
  | 0x58 => r.steer.isSome
  | 0x59 => r.merge.isSome
  | 0x5A => r.mergea.isSome
  | 0x5B => r.gate.isSome
  | 0x5C => r.dropRow.isSome
  | 0x5D => r.cemit.isSome
  | 0x5E => r.ctest.isSome
  | 0x5F => (r.combine and).isSome
  | 0x60 => (r.combine or).isSome
  | 0x61 => r.cnot.isSome
  | 0x62 => r.eose.isSome
  | 0x63 => r.eosq.isSome
  | 0x65 => r.cnts.isSome
  | 0x67 => r.phase.isSome
  | 0x68 => r.ctxp.isSome
  | 0xD0 => r.tapep.isSome
  | 0xD1 => r.tapec.isSome
  | 0xD4 => r.planDefault != .hold && r.quiet
  | _ => r.planDefault != .hold

/-- May a row issue; an ARMX needs its predicate, its control outputs, and that the arm that it chooses may issue behind it (R139, R163). -/
def Row.canIssue (r : Row) : Bool :=
  if r.opc ≠ 0x6D then r.canIssueArm
  else match r.arm with
    | none => false
    | some (p, pp, w) =>
      r.ctlRoom r.cout && r.recRoom &&
        Row.canIssueArm (Fab.rowOfWords { r.armx p pp with armP := pp } r.e r.c (w.extractLsb' 32 24) (w.extractLsb' 16 16) (w.extractLsb' 0 16))

/-- May a region issue its row on this tick: it is not frozen, no segment of its tape is regenerated, and every element is issuable
(R139, R306, R341, R360, R362). -/
def Fab.copyReady (f : Fab) (r : Run) (cp : Copy) : Bool :=
  decide (cp.frozen ≤ f.clock) && (cp.replay.all fun p => p.seg.isNone) &&
    cp.elems.all fun e =>
      let x := f.elem e
      !x.failed && x.hold.isNone && decide (x.free ≤ f.clock) && !f.moving e &&
        (!((x.slot r.ctx).share.getD {}).enabled r.n cp.g ||
          let (op, route, reg) := f.ringWords e r.ctx
          (f.rowOfWords e r.ctx op route reg).canIssue)

/-! ### Which region issues (R25, R129, R148) -/

/-- The window rank of the logical slot that maps to a physical slot of an element; 0 outside every window (R148, R322, R326; log 27). -/
def Fab.rankOf (f : Fab) (p : Nat) (e : ElemId) (c : Ctx) : Nat :=
  let q := f.part p
  match q.active.bind (f.table p) with
  | none => 0
  | some t =>
    let o := (q.ctr - q.base) % max t.major 1
    match t.wins.find? fun w => decide (w.lo ≤ o ∧ o < w.hi) with
    | none => 0
    | some w => (([0, 1, 2, 3] : List (Fin 4)).find? fun l => (f.elem e).smap.get l == c).elim 0 fun l => w.ranks.getD l.val 0

/-- The key of a region's context as one number, larger first (R148). -/
def Fab.turnKey (f : Fab) (r : Run) (cp : Copy) : Nat :=
  let e := fieldNo cp.ox cp.oy
  let s := f.slot e r.ctx
  ((f.rankOf r.part e r.ctx * 2 + (if s.h then 1 else 0)) * 4 + s.lvl.toNat) * 4 + (3 - r.ctx.val)

/-- Does throttling withhold this tick from a region: at the largest level of its dies, a safety-class one at level 7 alone (R129; log 27)? -/
def Fab.withheld (f : Fab) (r : Run) (cp : Copy) : Bool :=
  let l := (cp.elems.map fun e => (f.block (dieOf e)).eff).foldl max 0
  (!r.safety || l == 7) && decide (8 - l ≤ f.ctr r.part % 8)

/-- Have two regions an element in common? -/
def Copy.meets (a b : Copy) : Bool :=
  decide (a.ox < b.ox + b.cols ∧ b.ox < a.ox + a.cols ∧ a.oy < b.oy + b.rows ∧ b.oy < a.oy + a.rows)

/-- What a tick is to a region with a row left: it issues, or counts the tick as throttled, pre-empted or stalled (R23, R148). -/
inductive Turn where
  | issue | throttled | preempted | stalled
  deriving DecidableEq, Repr

/-- A region with a row left. -/
structure Active where
  rn : Nat
  k : Nat
  run : Run
  cp : Copy

/-- The regions with a row left whose start tick has come; a regeneration's is a fabric clock (R24, R306). -/
def Fab.activeCopies (f : Fab) : List Active :=
  f.runs.flatMap fun (rn, r) =>
    ((List.range r.copies.length).map fun k => (⟨rn, k, r, r.copy k⟩ : Active)).filter fun a =>
      r.torn == .no && !a.cp.passed && decide (a.cp.start ≤ (if r.ghost then f.clock else f.ctr r.part)) && r.live a.k &&
        decide (a.cp.g < a.cp.rowsOf r.n ((f.slot (fieldNo a.cp.ox a.cp.oy) r.ctx).share.getD {}))

/-- The turns of regions in order of their keys: one issues where its row may and no region that it meets has issued. -/
def Fab.turns (f : Fab) : List Active → List Copy → List (Active × Turn)
  | [], _ => []
  | a :: as, won =>
    if f.withheld a.run a.cp then (a, .throttled) :: f.turns as won
    else if !f.copyReady a.run a.cp then (a, .stalled) :: f.turns as won
    else if won.any fun w => w.meets a.cp then (a, .preempted) :: f.turns as won
    else (a, .issue) :: f.turns as (a.cp :: won)

/-- A region that issues: its first tick, and the held ticks of its rows, kept while it records, read back in a regeneration (R306). -/
def Copy.issues (cp : Copy) (ghost : Bool) (now : Nat) : Copy :=
  let cp := { cp with issued := true, first := some (cp.first.getD now) }
  if ghost then
    match cp.held.find? fun h => h.1 == cp.g with
    | some (_, s, p) => { cp with stall := s, pre := p }
    | none => cp
  else if cp.rec_.any fun k => !k.over_ then { cp with held := cp.held ++ [(cp.g, cp.stall, cp.pre)] }
  else cp

/-- A region's turn taken. -/
def Copy.turn (cp : Copy) (ghost : Bool) (now : Nat) : Turn → Copy
  | .issue => cp.issues ghost now
  | .throttled => { cp with thr := cp.thr + 1 }
  | .preempted => { cp with pre := cp.pre + 1 }
  | .stalled => { cp with stall := cp.stall + 1 }

/-- The parked accesses, each to be tested again at the end of the tick, when the writes of the tick have been performed (R177, R191). -/
def Fab.parkedScan (f : Fab) : Fab :=
  f.elems.foldl (fun (f : Fab) (e, x) => match x.hold with
    | some h => if h.kind = .scalar ∧ h.parked then f.at f.clock 3 (.parkedAccessRetest e) else f
    | none => f) f

/-- The plan of a tick: the rows that issue, in ascending field number, and the fabric with the work of its lanes and parked accesses due. -/
def Fab.plan (f : Fab) : List Work × Fab :=
  let as := (f.activeCopies.map fun a => (f.turnKey a.run a.cp, a)).mergeSort fun a b => decide (b.1 ≤ a.1)
  let ts := f.turns (as.map (·.2)) []
  let rows := ts.flatMap fun (a, t) =>
    if t = .issue then
      (a.cp.elems.filter fun e => ((f.slot e a.run.ctx).share.getD {}).enabled a.run.n a.cp.g).map fun e => (e, a.run.ctx)
    else []
  let g := ts.foldl (fun (f : Fab) (a, t) =>
    f.modRun a.rn fun r => r.modCopy a.k fun cp => cp.turn r.regen.isSome (f.ctr r.part) t) f
  ((rows.mergeSort fun a b => decide (a.1 ≤ b.1)).map fun (e, c) => .row e c, g.laneScan.parkedScan)

/-! ### The end of a tick -/

/-- A region past the row that it issued; its last row is followed by the teardown token (R22, R23, R332). -/
def Fab.nextRow (f : Fab) (rn k : Nat) : Fab :=
  let r := f.run rn
  let cp := r.copy k
  let sh := (f.slot (fieldNo cp.ox cp.oy) r.ctx).share.getD {}
  let f := f.modRun rn fun r => r.modCopy k fun x => { x with g := x.g + 1, issued := false }
  if r.ghost || cp.passed || cp.rollAt.isSome || decide (cp.g + 1 < cp.rowsOf r.n sh) then f else f.sendTeardown rn k f.clock

/-- The regions whose rows issued on the tick that ends. -/
def Fab.endRows (f : Fab) : Fab :=
  f.runs.foldl (fun (f : Fab) (rn, r) => (List.range r.copies.length).foldl (fun (f : Fab) k =>
    if ((f.run rn).copy k).issued then (f.rowEnds rn k).nextRow rn k else f) f) f

/-- The flags of the transfers that retired on the tick that ends (R89, R90). -/
def Fab.joinFlags (f : Fab) : Fab :=
  { f with elems := f.elems.map fun (e, x) =>
      (e, if x.slots.toList.any (·.esrIn != 0) then { x with slots := x.slots.map Slot.joinFlags } else x) }

/-! ### Counters and what falls due (R320, R328) -/

/-- A partition's counter after a fabric clock: the carry of the accumulator (R320). -/
def Part.advance (q : Part) : Part :=
  let t := ((q.frac : Int) + 2 ^ 32 + q.rate).toNat
  { q with ctr := (q.ctr + t / 2 ^ 32) % 2 ^ 64, frac := t % 2 ^ 32 }

/-- Does a counter that moves from one value to another reach a multiple (R320)? -/
def reaches (m old now : Nat) : Bool := decide (old / m < now / m)

/-- Does a counter cross a boundary of a window of the active table, and so clear H (R148)? -/
def Fab.windowEdge (f : Fab) (p old : Nat) : Bool :=
  let q := f.part p
  match q.active.bind (f.table p) with
  | none => false
  | some t => t.wins.any fun w => [w.lo, w.hi].any fun o =>
      decide ((old + t.major - q.base - o) / max t.major 1 < (q.ctr + t.major - q.base - o) / max t.major 1)

/-- The fabric with H clear in every slot of a partition. -/
def Fab.clearH (f : Fab) (p : Nat) : Fab :=
  { f with elems := f.elems.map fun (e, x) =>
      (e, if f.partOfElem e = p then { x with slots := x.slots.map fun s => { s with h := false } } else x) }

/-- The demand windows of a partition's ports over, and their weights anew (R210). -/
def Fab.portWindows (f : Fab) (p : Nat) : Fab :=
  f.elems.foldl (fun (f : Fab) (e, x) =>
    if f.partOfElem e = p ∧ x.sq.toList.any (·.live) then (f.modElem e Elem.demandWindow).at f.clock 0 (.portWeightRecompute e) else f) f

/-- Blocks of a partition whose effective level changes at this multiple of 8 (R129). -/
def Fab.throttleDue (f : Fab) (p : Nat) : Fab :=
  (List.range 6).foldl (fun (f : Fab) b =>
    if f.blockPart b = p ∧ (f.block b).want ≠ (f.block b).eff then f.at f.clock 0 (.throttleLevelApply b) else f) f

/-- Keepers of a partition that move to their next column at this tick (R364). -/
def Fab.keepersDue (f : Fab) (p old : Nat) : Fab :=
  f.keepers.foldl (fun (f : Fab) (i, k) =>
    if k.k ≠ 0 ∧ partOf f.pmode (i / 16) = p ∧ reaches (2 ^ k.k) old (f.ctr p) then f.at f.clock 0 (.keeperAdvance (i / 16) (i % 16)) else f) f

/-- Compare slots of a partition that its counter has reached (R124). -/
def Fab.timersDue (f : Fab) (p : Nat) : Fab :=
  (List.range 16).foldl (fun (f : Fab) i =>
    match f.pom.timers.get (Fin.ofNat 16 i) with
    | some t => if t.part = p ∧ t.tick ≤ f.ctr p then f.at f.clock 0 (.timerCompare (BitVec.ofNat 4 i)) else f
    | none => f) f

/-- What a partition owes on the tick that begins. -/
def Fab.partDue (f : Fab) (p old : Nat) : Fab :=
  let now := f.ctr p
  let f := if f.windowEdge p old then f.clearH p else f
  let f := if reaches 1024 old now then f.portWindows p else f
  let f := if reaches 8 old now then f.throttleDue p else f
  let f := (f.keepersDue p old).timersDue p
  let f := match (f.part p).rising with
    | some (_, some t) => if t ≤ now then f.at f.clock 0 (.tableActivation p) else f
    | _ => f
  if (f.pointAfter p old).any fun t => decide (t ≤ now) then f.at f.clock 0 (.modeChangePoint p)
  else f

/-- Periodic instances that begin to wait on a tick that is no mode-change point. -/
def Fab.periodicDue (f : Fab) (p old : Nat) : Fab :=
  if (f.pointAfter p old).any fun t => decide (t ≤ f.ctr p) then f else (f.startPeriodic p).newDue f.insts

/-- Runs and instances on the tick that begins. -/
def Fab.runsDue (f : Fab) : Fab :=
  let f := f.runs.foldl (fun (f : Fab) (rn, r) => f.runDue rn r) f
  f.insts.foldl (fun (f : Fab) (k, i) => f.instDue k i) f

/-- Ticks of 10 µs. -/
def samplePeriod : Nat := 4000

/-- The monitors of every block sampled, once every 10 µs (R127). -/
def Fab.samplesDue (f : Fab) : Fab :=
  if f.clock % samplePeriod ≠ 0 then f
  else { f with evq := f.evq ++ (List.range 10).map fun b => ⟨f.clock, 0, .sample b⟩ }

/-- Heartbeats on the tick that begins (R380). -/
def Fab.heartbeatsDue (f : Fab) : Fab :=
  let b := f.beryl
  let f := if b.hbSend && decide (b.hbNext ≤ f.clock) then f.at f.clock 0 .heartbeatSend else f
  if b.hbWatch && !b.declared && decide (b.hbDue ≤ f.clock) then f.at f.clock 0 .heartbeatTimeout else f

/-- The next fabric clock: rows end, counters advance, what is due stands in order behind the work left from earlier ticks (log 2). -/
def Fab.tick (f : Fab) : Fab :=
  let f := f.endRows.joinFlags.keysDue.berylFlush
  let ps := f.parts.map fun (p, q) => (p, q.ctr)
  let f : Fab := { f with clock := f.clock + 1, parts := f.parts.map fun (p, q) => (p, q.advance) }
  let f := ps.foldl (fun (f : Fab) (p, old) => f.partDue p old) f
  let f := f.runsDue
  let f := ps.foldl (fun (f : Fab) (p, old) => f.periodicDue p old) f
  let f := f.tapeDue.heartbeatsDue.samplesDue
  { f with evq := f.evq ++ [⟨f.clock, 1, .plan⟩, ⟨f.clock, 2, .pommel⟩] }

/-- TICK_COUNTER_ADVANCE (R320). -/
def execTickCounterAdvance (s : State) : Host.Outcome State Fault Refusal :=
  lift Fab.tick s

/-- PTP_SERVO_ADJUST: the rate word clamped; 0 while the partition runs free (R28, R320, R321). -/
def execPtpServoAdjust (p : Nat) (rate : W32) (s : State) : Host.Outcome State Fault Refusal :=
  lift (fun f => if (mget p f.parts).isNone then f else
    f.modPart p fun q =>
      let m := min q.alim 858993
      { q with rate := if q.disciplined then clampInt (-m) m rate.toInt else 0 }) s

/-- PTP_SYNCHRONISATION: the time unit is synchronised or not (R377). -/
def execPtpSynchronisation (p : Nat) (sync : Bool) (s : State) : Host.Outcome State Fault Refusal :=
  lift (fun f => if (mget p f.parts).isNone then f else f.modPart p fun q => { q with sync := sync }) s

end Sys2Proof.Machine
end

