-- ==== Sys2Proof/Machine/Dispatch.lean ====
section
/-! DEFINITION. The meaning of every instruction: one arm for each constructor of Instr. -/

namespace Sys2Proof.Machine

def exec (i : Instr) (s : State) : Host.Outcome State Fault Refusal :=
  match i with
  | .nop t wr => Sys2Proof.Machine.execNop t wr s
  | .add t im wr => Sys2Proof.Machine.execAdd t im wr s
  | .sub t im wr => Sys2Proof.Machine.execSub t im wr s
  | .addi t im wr => Sys2Proof.Machine.execAddi t im wr s
  | .mul t im wr => Sys2Proof.Machine.execMul t im wr s
  | .mulh t im wr => Sys2Proof.Machine.execMulh t im wr s
  | .mulhn t im wr => Sys2Proof.Machine.execMulhn t im wr s
  | .min t im wr => Sys2Proof.Machine.execMin t im wr s
  | .max t im wr => Sys2Proof.Machine.execMax t im wr s
  | .minn t im wr => Sys2Proof.Machine.execMinn t im wr s
  | .maxn t im wr => Sys2Proof.Machine.execMaxn t im wr s
  | .abs t im wr => Sys2Proof.Machine.execAbs t im wr s
  | .neg t im wr => Sys2Proof.Machine.execNeg t im wr s
  | .and t im wr => Sys2Proof.Machine.execAnd t im wr s
  | .or t im wr => Sys2Proof.Machine.execOr t im wr s
  | .xor t im wr => Sys2Proof.Machine.execXor t im wr s
  | .andn t im wr => Sys2Proof.Machine.execAndn t im wr s
  | .not t im wr => Sys2Proof.Machine.execNot t im wr s
  | .shl t im wr => Sys2Proof.Machine.execShl t im wr s
  | .shr t im wr => Sys2Proof.Machine.execShr t im wr s
  | .sha t im wr => Sys2Proof.Machine.execSha t im wr s
  | .rot t im wr => Sys2Proof.Machine.execRot t im wr s
  | .clz t im wr => Sys2Proof.Machine.execClz t im wr s
  | .popc t im wr => Sys2Proof.Machine.execPopc t im wr s
  | .sel t im wr => Sys2Proof.Machine.execSel t im wr s
  | .cmpeq t im wr => Sys2Proof.Machine.execCmpeq t im wr s
  | .cmpne t im wr => Sys2Proof.Machine.execCmpne t im wr s
  | .cmplt t im wr => Sys2Proof.Machine.execCmplt t im wr s
  | .cmple t im wr => Sys2Proof.Machine.execCmple t im wr s
  | .cmpltn t im wr => Sys2Proof.Machine.execCmpltn t im wr s
  | .cmplen t im wr => Sys2Proof.Machine.execCmplen t im wr s
  | .movi im wr => Sys2Proof.Machine.execMovi im wr s
  | .movhi im wr => Sys2Proof.Machine.execMovhi im wr s
  | .mov t im wr => Sys2Proof.Machine.execMov t im wr s
  | .movSpecialRead t sg wr => Sys2Proof.Machine.execMovSpecialRead t sg wr s
  | .movSpecialWrite t sg wr => Sys2Proof.Machine.execMovSpecialWrite t sg wr s
  | .sext t im wr => Sys2Proof.Machine.execSext t im wr s
  | .bfx t im wr => Sys2Proof.Machine.execBfx t im wr s
  | .bfi t im wr => Sys2Proof.Machine.execBfi t im wr s
  | .adds t im wr => Sys2Proof.Machine.execAdds t im wr s
  | .subs t im wr => Sys2Proof.Machine.execSubs t im wr s
  | .fadd r t wr => Sys2Proof.Machine.execFadd r t wr s
  | .fsub r t wr => Sys2Proof.Machine.execFsub r t wr s
  | .fmul r t wr => Sys2Proof.Machine.execFmul r t wr s
  | .fma r t wr => Sys2Proof.Machine.execFma r t wr s
  | .fms r t wr => Sys2Proof.Machine.execFms r t wr s
  | .fnma r t wr => Sys2Proof.Machine.execFnma r t wr s
  | .fmin t wr => Sys2Proof.Machine.execFmin t wr s
  | .fmax t wr => Sys2Proof.Machine.execFmax t wr s
  | .fabs t wr => Sys2Proof.Machine.execFabs t wr s
  | .fneg t wr => Sys2Proof.Machine.execFneg t wr s
  | .fcmpeq t wr => Sys2Proof.Machine.execFcmpeq t wr s
  | .fcmplt t wr => Sys2Proof.Machine.execFcmplt t wr s
  | .fcmple t wr => Sys2Proof.Machine.execFcmple t wr s
  | .fcmpun t wr => Sys2Proof.Machine.execFcmpun t wr s
  | .fcvt r sg t wr => Sys2Proof.Machine.execFcvt r sg t wr s
  | .fclass t wr => Sys2Proof.Machine.execFclass t wr s
  | .frnd r t wr => Sys2Proof.Machine.execFrnd r t wr s
  | .ftoi r sg t wr => Sys2Proof.Machine.execFtoi r sg t wr s
  | .itof r t wr => Sys2Proof.Machine.execItof r t wr s
  | .fscale r t wr => Sys2Proof.Machine.execFscale r t wr s
  | .fdot2 r t wr => Sys2Proof.Machine.execFdot2 r t wr s
  | .fexpn t wr => Sys2Proof.Machine.execFexpn t wr s
  | .fmant t wr => Sys2Proof.Machine.execFmant t wr s
  | .qnt r sg t m e wr => Sys2Proof.Machine.execQnt r sg t m e wr s
  | .dqnt r t wr => Sys2Proof.Machine.execDqnt r t wr s
  | .lut r t k wr => Sys2Proof.Machine.execLut r t k wr s
  | .lutix t m sg wr => Sys2Proof.Machine.execLutix t m sg wr s
  | .rredf t wr => Sys2Proof.Machine.execRredf t wr s
  | .rredn t wr => Sys2Proof.Machine.execRredn t wr s
  | .rexp r t wr => Sys2Proof.Machine.execRexp r t wr s
  | .lutsel r t wr => Sys2Proof.Machine.execLutsel r t wr s
  | .steer c o m wr => Sys2Proof.Machine.execSteer c o m wr s
  | .merge c o wr => Sys2Proof.Machine.execMerge c o wr s
  | .mergea o wr => Sys2Proof.Machine.execMergea o wr s
  | .gate c o m wr => Sys2Proof.Machine.execGate c o m wr s
  | .drop c o m wr => Sys2Proof.Machine.execDrop c o m wr s
  | .cemit c o m wr => Sys2Proof.Machine.execCemit c o m wr s
  | .ctest o m wr => Sys2Proof.Machine.execCtest o m wr s
  | .cand c o m wr => Sys2Proof.Machine.execCand c o m wr s
  | .cor c o m wr => Sys2Proof.Machine.execCor c o m wr s
  | .cnot c o wr => Sys2Proof.Machine.execCnot c o wr s
  | .eose c m wr => Sys2Proof.Machine.execEose c m wr s
  | .eosq o m wr => Sys2Proof.Machine.execEosq o m wr s
  | .cnti m wr => Sys2Proof.Machine.execCnti m wr s
  | .cnts c o m wr => Sys2Proof.Machine.execCnts c o m wr s
  | .cntl m wr => Sys2Proof.Machine.execCntl m wr s
  | .phase c m wr => Sys2Proof.Machine.execPhase c m wr s
  | .ctxp c m wr => Sys2Proof.Machine.execCtxp c m wr s
  | .rowq m wr => Sys2Proof.Machine.execRowq m wr s
  | .iofq m wr => Sys2Proof.Machine.execIofq m wr s
  | .frmq m wr => Sys2Proof.Machine.execFrmq m wr s
  | .dly m wr => Sys2Proof.Machine.execDly m wr s
  | .armx c o m wr => Sys2Proof.Machine.execArmx c o m wr s
  | .talloc b w sg q wr => Sys2Proof.Machine.execTalloc b w sg q wr s
  | .tfree w sg q wr => Sys2Proof.Machine.execTfree w sg q wr s
  | .tqry w sg q v u wr => Sys2Proof.Machine.execTqry w sg q v u wr s
  | .ldt w z x t p im wr => Sys2Proof.Machine.execLdt w z x t p im wr s
  | .stt w z t p im wr => Sys2Proof.Machine.execStt w z t p im wr s
  | .ldts w z x t p im wr => Sys2Proof.Machine.execLdts w z x t p im wr s
  | .sttf w z t p im wr => Sys2Proof.Machine.execSttf w z t p im wr s
  | .ldte w z x t p im wr => Sys2Proof.Machine.execLdte w z x t p im wr s
  | .feset w z t p im wr => Sys2Proof.Machine.execFeset w z t p im wr s
  | .feq w z t p im wr => Sys2Proof.Machine.execFeq w z t p im wr s
  | .tcopy b w sg q wr => Sys2Proof.Machine.execTcopy b w sg q wr s
  | .tfill b w sg q wr => Sys2Proof.Machine.execTfill b w sg q wr s
  | .tlevel w sg q v u wr => Sys2Proof.Machine.execTlevel w sg q v u wr s
  | .gld w z x t p im wr => Sys2Proof.Machine.execGld w z x t p im wr s
  | .gst w z t p im wr => Sys2Proof.Machine.execGst w z t p im wr s
  | .glds w z x t p im wr => Sys2Proof.Machine.execGlds w z x t p im wr s
  | .gstf w z t p im wr => Sys2Proof.Machine.execGstf w z t p im wr s
  | .strmi b w sg q u wr => Sys2Proof.Machine.execStrmi b w sg q u wr s
  | .strmo b w sg q u wr => Sys2Proof.Machine.execStrmo b w sg q u wr s
  | .gath b w sg q u wr => Sys2Proof.Machine.execGath b w sg q u wr s
  | .scat b w sg q u wr => Sys2Proof.Machine.execScat b w sg q u wr s
  | .sprg w sg q v u wr => Sys2Proof.Machine.execSprg w sg q v u wr s
  | .sabt w sg q v wr => Sys2Proof.Machine.execSabt w sg q v wr s
  | .sres w sg q v wr => Sys2Proof.Machine.execSres w sg q v wr s
  | .aadd w z t p im wr => Sys2Proof.Machine.execAadd w z t p im wr s
  | .amin w z t p im wr => Sys2Proof.Machine.execAmin w z t p im wr s
  | .amax w z t p im wr => Sys2Proof.Machine.execAmax w z t p im wr s
  | .aand w z t p im wr => Sys2Proof.Machine.execAand w z t p im wr s
  | .aor w z t p im wr => Sys2Proof.Machine.execAor w z t p im wr s
  | .axch w z t p im wr => Sys2Proof.Machine.execAxch w z t p im wr s
  | .acas w z t p im wr => Sys2Proof.Machine.execAcas w z t p im wr s
  | .afadd w t p im wr => Sys2Proof.Machine.execAfadd w t p im wr s
  | .fence u wr => Sys2Proof.Machine.execFence u wr s
  | .rels wr => Sys2Proof.Machine.execRels wr s
  | .acqs wr => Sys2Proof.Machine.execAcqs wr s
  | .xfer b w sg q wr => Sys2Proof.Machine.execXfer b w sg q wr s
  | .mirr b w sg q wr => Sys2Proof.Machine.execMirr b w sg q wr s
  | .coll b w sg q wr => Sys2Proof.Machine.execColl b w sg q wr s
  | .mma b w sg q wr => Sys2Proof.Machine.execMma b w sg q wr s
  | .mmas b w sg q wr => Sys2Proof.Machine.execMmas b w sg q wr s
  | .mmav b w sg q wr => Sys2Proof.Machine.execMmav b w sg q wr s
  | .mmab b w sg q wr => Sys2Proof.Machine.execMmab b w sg q wr s
  | .macc b w sg q u wr => Sys2Proof.Machine.execMacc b w sg q u wr s
  | .mdrn b w sg q v wr => Sys2Proof.Machine.execMdrn b w sg q v wr s
  | .mprg u wr => Sys2Proof.Machine.execMprg u wr s
  | .mres wr => Sys2Proof.Machine.execMres wr s
  | .mabt wr => Sys2Proof.Machine.execMabt wr s
  | .mshp w sg q wr => Sys2Proof.Machine.execMshp w sg q wr s
  | .xld b w sg q v u wr => Sys2Proof.Machine.execXld b w sg q v u wr s
  | .xst b w sg q wr => Sys2Proof.Machine.execXst b w sg q wr s
  | .cbld b w sg q u wr => Sys2Proof.Machine.execCbld b w sg q u wr s
  | .vqx w sg q v u wr => Sys2Proof.Machine.execVqx w sg q v u wr s
  | .compm b w sg q wr => Sys2Proof.Machine.execCompm b w sg q wr s
  | .expdm b w sg q wr => Sys2Proof.Machine.execExpdm b w sg q wr s
  | .fibp b w sg q wr => Sys2Proof.Machine.execFibp b w sg q wr s
  | .fibu b w sg q wr => Sys2Proof.Machine.execFibu b w sg q wr s
  | .isect b w sg q u wr => Sys2Proof.Machine.execIsect b w sg q u wr s
  | .dcmpj b w sg q wr => Sys2Proof.Machine.execDcmpj b w sg q wr s
  | .dcmpq w sg q v u wr => Sys2Proof.Machine.execDcmpq w sg q v u wr s
  | .lzcp b w sg q u wr => Sys2Proof.Machine.execLzcp b w sg q u wr s
  | .layw b wr => Sys2Proof.Machine.execLayw b wr s
  | .layr b v wr => Sys2Proof.Machine.execLayr b v wr s
  | .trns b w sg q wr => Sys2Proof.Machine.execTrns b w sg q wr s
  | .redx b w sg q wr => Sys2Proof.Machine.execRedx b w sg q wr s
  | .cinit b wr => Sys2Proof.Machine.execCinit b wr s
  | .carr b v wr => Sys2Proof.Machine.execCarr b v wr s
  | .cexpb b wr => Sys2Proof.Machine.execCexpb b wr s
  | .cqry b u wr => Sys2Proof.Machine.execCqry b u wr s
  | .cdrop b wr => Sys2Proof.Machine.execCdrop b wr s
  | .tapeb b wr => Sys2Proof.Machine.execTapeb b wr s
  | .tapee wr => Sys2Proof.Machine.execTapee wr s
  | .tapev b v wr => Sys2Proof.Machine.execTapev b v wr s
  | .taper b wr => Sys2Proof.Machine.execTaper b wr s
  | .tapep b wr => Sys2Proof.Machine.execTapep b wr s
  | .tapec wr => Sys2Proof.Machine.execTapec wr s
  | .tapeq u wr => Sys2Proof.Machine.execTapeq u wr s
  | .tapek b wr => Sys2Proof.Machine.execTapek b wr s
  | .mark wr => Sys2Proof.Machine.execMark wr s
  | .snapq u wr => Sys2Proof.Machine.execSnapq u wr s
  | .rtag wr => Sys2Proof.Machine.execRtag wr s
  | .poisn u wr => Sys2Proof.Machine.execPoisn u wr s
  | .poisq wr => Sys2Proof.Machine.execPoisq wr s
  | .verd u wr => Sys2Proof.Machine.execVerd u wr s
  | .cmpv b wr => Sys2Proof.Machine.execCmpv b wr s
  | .powerUp helper outcomes => Sys2Proof.Machine.execPowerUp helper outcomes s
  | .timerCompare slot => Sys2Proof.Machine.execTimerCompare slot s
  | .cryptoCompletion job => Sys2Proof.Machine.execCryptoCompletion job s
  | .throttleLevelApply die => Sys2Proof.Machine.execThrottleLevelApply die s
  | .linkTokenArrival e c l => Sys2Proof.Machine.execLinkTokenArrival e c l s
  | .controlTokenArrival e c l => Sys2Proof.Machine.execControlTokenArrival e c l s
  | .bypassHop e c d => Sys2Proof.Machine.execBypassHop e c d s
  | .laneDiscardDrop e c l => Sys2Proof.Machine.execLaneDiscardDrop e c l s
  | .markerTaken e c l => Sys2Proof.Machine.execMarkerTaken e c l s
  | .teardownToken e c => Sys2Proof.Machine.execTeardownToken e c s
  | .scalarAccessCompletion e => Sys2Proof.Machine.execScalarAccessCompletion e s
  | .parkedAccessRetest k => Sys2Proof.Machine.execParkedAccessRetest k s
  | .jobElement e j => Sys2Proof.Machine.execJobElement e j s
  | .jobFaultStop e j => Sys2Proof.Machine.execJobFaultStop e j s
  | .jobRetirement e j => Sys2Proof.Machine.execJobRetirement e j s
  | .portWeightRecompute e => Sys2Proof.Machine.execPortWeightRecompute e s
  | .heldOpRetirement e => Sys2Proof.Machine.execHeldOpRetirement e s
  | .hostWrite addr data => Sys2Proof.Machine.execHostWrite addr data s
  | .migrationSwitch k => Sys2Proof.Machine.execMigrationSwitch k s
  | .pagemCompletion k => Sys2Proof.Machine.execPagemCompletion k s
  | .pommelJobCompletion k => Sys2Proof.Machine.execPommelJobCompletion k s
  | .mirrorWriteReceive flit => Sys2Proof.Machine.execMirrorWriteReceive flit s
  | .matrixGroupCommit e => Sys2Proof.Machine.execMatrixGroupCommit e s
  | .matrixCommandRetirement e => Sys2Proof.Machine.execMatrixCommandRetirement e s
  | .matrixFeedFault e => Sys2Proof.Machine.execMatrixFeedFault e s
  | .mdDrainToken e => Sys2Proof.Machine.execMdDrainToken e s
  | .cinchRequestArrival k => Sys2Proof.Machine.execCinchRequestArrival k s
  | .cinchPendSubtract die k n => Sys2Proof.Machine.execCinchPendSubtract die k n s
  | .collContributionArrival k => Sys2Proof.Machine.execCollContributionArrival k s
  | .collRetirement e => Sys2Proof.Machine.execCollRetirement e s
  | .tapeRecordAccept die k => Sys2Proof.Machine.execTapeRecordAccept die k s
  | .tapeKeyWrite e c => Sys2Proof.Machine.execTapeKeyWrite e c s
  | .tapeClose die k => Sys2Proof.Machine.execTapeClose die k s
  | .tapeRegeneration die k => Sys2Proof.Machine.execTapeRegeneration die k s
  | .dcmpjEngineStart e j => Sys2Proof.Machine.execDcmpjEngineStart e j s
  | .dcmpjCompletion e j => Sys2Proof.Machine.execDcmpjCompletion e j s
  | .tableActivation p => Sys2Proof.Machine.execTableActivation p s
  | .runStart p k => Sys2Proof.Machine.execRunStart p k s
  | .countTake p k => Sys2Proof.Machine.execCountTake p k s
  | .deadline run => Sys2Proof.Machine.execDeadline run s
  | .completionRecordWrite run => Sys2Proof.Machine.execCompletionRecordWrite run s
  | .modeChangePoint p => Sys2Proof.Machine.execModeChangePoint p s
  | .ctxldDone op => Sys2Proof.Machine.execCtxldDone op s
  | .partmDone op => Sys2Proof.Machine.execPartmDone op s
  | .doffDone op => Sys2Proof.Machine.execDoffDone op s
  | .spareDone op => Sys2Proof.Machine.execSpareDone op s
  | .voteCompare run => Sys2Proof.Machine.execVoteCompare run s
  | .voteCopyStart run => Sys2Proof.Machine.execVoteCopyStart run s
  | .keeperAdvance die r => Sys2Proof.Machine.execKeeperAdvance die r s
  | .keeperCompare k => Sys2Proof.Machine.execKeeperCompare k s
  | .rollback run copy => Sys2Proof.Machine.execRollback run copy s
  | .configReload e c => Sys2Proof.Machine.execConfigReload e c s
  | .machineCheck e => Sys2Proof.Machine.execMachineCheck e s
  | .sensorFrame port frame => Sys2Proof.Machine.execSensorFrame port frame s
  | .tileMoveCompletion e => Sys2Proof.Machine.execTileMoveCompletion e s
  | .cinchAnswerArrival e => Sys2Proof.Machine.execCinchAnswerArrival e s
  | .migrationSweep k => Sys2Proof.Machine.execMigrationSweep k s
  | .nopTask => Sys2Proof.Machine.execNopTask s
  | .addTask d a b => Sys2Proof.Machine.execAddTask d a b s
  | .subTask d a b => Sys2Proof.Machine.execSubTask d a b s
  | .addiTask d a im => Sys2Proof.Machine.execAddiTask d a im s
  | .mulTask d a b => Sys2Proof.Machine.execMulTask d a b s
  | .mulhTask d a b => Sys2Proof.Machine.execMulhTask d a b s
  | .mulhnTask d a b => Sys2Proof.Machine.execMulhnTask d a b s
  | .div d a b => Sys2Proof.Machine.execDiv d a b s
  | .divn d a b => Sys2Proof.Machine.execDivn d a b s
  | .rem d a b => Sys2Proof.Machine.execRem d a b s
  | .remn d a b => Sys2Proof.Machine.execRemn d a b s
  | .minTask d a b => Sys2Proof.Machine.execMinTask d a b s
  | .maxTask d a b => Sys2Proof.Machine.execMaxTask d a b s
  | .minnTask d a b => Sys2Proof.Machine.execMinnTask d a b s
  | .maxnTask d a b => Sys2Proof.Machine.execMaxnTask d a b s
  | .absTask d a => Sys2Proof.Machine.execAbsTask d a s
  | .negTask d a => Sys2Proof.Machine.execNegTask d a s
  | .andTask d a b => Sys2Proof.Machine.execAndTask d a b s
  | .orTask d a b => Sys2Proof.Machine.execOrTask d a b s
  | .xorTask d a b => Sys2Proof.Machine.execXorTask d a b s
  | .andnTask d a b => Sys2Proof.Machine.execAndnTask d a b s
  | .notTask d a => Sys2Proof.Machine.execNotTask d a s
  | .shlTask d a b => Sys2Proof.Machine.execShlTask d a b s
  | .shrTask d a b => Sys2Proof.Machine.execShrTask d a b s
  | .shaTask d a b => Sys2Proof.Machine.execShaTask d a b s
  | .rotTask d a b => Sys2Proof.Machine.execRotTask d a b s
  | .clzTask d a => Sys2Proof.Machine.execClzTask d a s
  | .popcTask d a => Sys2Proof.Machine.execPopcTask d a s
  | .selTask d a b => Sys2Proof.Machine.execSelTask d a b s
  | .cmpeqTask d a b => Sys2Proof.Machine.execCmpeqTask d a b s
  | .cmpneTask d a b => Sys2Proof.Machine.execCmpneTask d a b s
  | .cmpltTask d a b => Sys2Proof.Machine.execCmpltTask d a b s
  | .cmpleTask d a b => Sys2Proof.Machine.execCmpleTask d a b s
  | .cmpltnTask d a b => Sys2Proof.Machine.execCmpltnTask d a b s
  | .cmplenTask d a b => Sys2Proof.Machine.execCmplenTask d a b s
  | .moviTask d im => Sys2Proof.Machine.execMoviTask d im s
  | .movhiTask d im => Sys2Proof.Machine.execMovhiTask d im s
  | .movTask d a => Sys2Proof.Machine.execMovTask d a s
  | .sextTask d a b => Sys2Proof.Machine.execSextTask d a b s
  | .bfxTask d a b => Sys2Proof.Machine.execBfxTask d a b s
  | .bfiTask d a b => Sys2Proof.Machine.execBfiTask d a b s
  | .addsTask d a b => Sys2Proof.Machine.execAddsTask d a b s
  | .subsTask d a b => Sys2Proof.Machine.execSubsTask d a b s
  | .gldTask d a im => Sys2Proof.Machine.execGldTask d a im s
  | .gstTask d a im => Sys2Proof.Machine.execGstTask d a im s
  | .gldsTask d a im => Sys2Proof.Machine.execGldsTask d a im s
  | .gstfTask d a im => Sys2Proof.Machine.execGstfTask d a im s
  | .aaddTask d a b => Sys2Proof.Machine.execAaddTask d a b s
  | .aminTask d a b => Sys2Proof.Machine.execAminTask d a b s
  | .amaxTask d a b => Sys2Proof.Machine.execAmaxTask d a b s
  | .aandTask d a b => Sys2Proof.Machine.execAandTask d a b s
  | .aorTask d a b => Sys2Proof.Machine.execAorTask d a b s
  | .axchTask d a b => Sys2Proof.Machine.execAxchTask d a b s
  | .acasTask d a b => Sys2Proof.Machine.execAcasTask d a b s
  | .afaddTask d a b => Sys2Proof.Machine.execAfaddTask d a b s
  | .fenceTask sg => Sys2Proof.Machine.execFenceTask sg s
  | .relsTask => Sys2Proof.Machine.execRelsTask s
  | .acqsTask => Sys2Proof.Machine.execAcqsTask s
  | .xferTask d a => Sys2Proof.Machine.execXferTask d a s
  | .mirrTask d a => Sys2Proof.Machine.execMirrTask d a s
  | .pagem d a => Sys2Proof.Machine.execPagem d a s
  | .purge d a => Sys2Proof.Machine.execPurge d a s
  | .keepc d a => Sys2Proof.Machine.execKeepc d a s
  | .verdTask d a b => Sys2Proof.Machine.execVerdTask d a b s
  | .lnch d a b => Sys2Proof.Machine.execLnch d a b s
  | .lnchi d a b => Sys2Proof.Machine.execLnchi d a b s
  | .tblsw d a => Sys2Proof.Machine.execTblsw d a s
  | .ctxld d a b => Sys2Proof.Machine.execCtxld d a b s
  | .ctxsw d a b => Sys2Proof.Machine.execCtxsw d a b s
  | .drnq d a b => Sys2Proof.Machine.execDrnq d a b s
  | .ovrq d a => Sys2Proof.Machine.execOvrq d a s
  | .fbsel d a b => Sys2Proof.Machine.execFbsel d a b s
  | .teard d a b => Sys2Proof.Machine.execTeard d a b s
  | .partm d a b => Sys2Proof.Machine.execPartm d a b s
  | .doff d a b => Sys2Proof.Machine.execDoff d a b s
  | .spare d a b => Sys2Proof.Machine.execSpare d a b s
  | .br f => Sys2Proof.Machine.execBr f s
  | .brz a f => Sys2Proof.Machine.execBrz a f s
  | .brnz a f => Sys2Proof.Machine.execBrnz a f s
  | .call f => Sys2Proof.Machine.execCall f s
  | .ret => Sys2Proof.Machine.execRet s
  | .ldk d a im => Sys2Proof.Machine.execLdk d a im s
  | .stk d a im => Sys2Proof.Machine.execStk d a im s
  | .ldio d a im => Sys2Proof.Machine.execLdio d a im s
  | .stio d a im => Sys2Proof.Machine.execStio d a im s
  | .send d a c => Sys2Proof.Machine.execSend d a c s
  | .recv d a c => Sys2Proof.Machine.execRecv d a c s
  | .tend => Sys2Proof.Machine.execTend s
  | .tbind d a b c => Sys2Proof.Machine.execTbind d a b c s
  | .chpri d a c => Sys2Proof.Machine.execChpri d a c s
  | .traps im => Sys2Proof.Machine.execTraps im s
  | .timeq d a b => Sys2Proof.Machine.execTimeq d a b s
  | .hashb d a => Sys2Proof.Machine.execHashb d a s
  | .sigv d a => Sys2Proof.Machine.execSigv d a s
  | .sysx d a im => Sys2Proof.Machine.execSysx d a im s
  | .ident c => Sys2Proof.Machine.execIdent c s
  | .status c => Sys2Proof.Machine.execStatus c s
  | .featnegRead c => Sys2Proof.Machine.execFeatnegRead c s
  | .featnegWrite c => Sys2Proof.Machine.execFeatnegWrite c s
  | .loadimg c => Sys2Proof.Machine.execLoadimg c s
  | .loadtbl c => Sys2Proof.Machine.execLoadtbl c s
  | .startMode c => Sys2Proof.Machine.execStartMode c s
  | .startEntry c => Sys2Proof.Machine.execStartEntry c s
  | .hostLaunch c => Sys2Proof.Machine.execHostLaunch c s
  | .modesw c => Sys2Proof.Machine.execModesw c s
  | .qrec c => Sys2Proof.Machine.execQrec c s
  | .purgeCmd c => Sys2Proof.Machine.execPurgeCmd c s
  | .mircfg c => Sys2Proof.Machine.execMircfg c s
  | .timecfg c => Sys2Proof.Machine.execTimecfg c s
  | .partmode c => Sys2Proof.Machine.execPartmode c s
  | .dieoff c => Sys2Proof.Machine.execDieoff c s
  | .attest c => Sys2Proof.Machine.execAttest c s
  | .throttle c => Sys2Proof.Machine.execThrottle c s
  | .keyinst c => Sys2Proof.Machine.execKeyinst c s
  | .sysmapMap c => Sys2Proof.Machine.execSysmapMap c s
  | .sysmapUnmap c => Sys2Proof.Machine.execSysmapUnmap c s
  | .taskDispatch => Sys2Proof.Machine.execTaskDispatch s
  | .watchdog => Sys2Proof.Machine.execWatchdog s
  | .monitorSample block readings => Sys2Proof.Machine.execMonitorSample block readings s
  | .thrlvlWrite block v => Sys2Proof.Machine.execThrlvlWrite block v s
  | .alertstWrite block v => Sys2Proof.Machine.execAlertstWrite block v s
  | .registerWrite addr v => Sys2Proof.Machine.execRegisterWrite addr v s
  | .ingcfgWrite addr v => Sys2Proof.Machine.execIngcfgWrite addr v s
  | .safeevWrite v => Sys2Proof.Machine.execSafeevWrite v s
  | .pommelStoreDrain => Sys2Proof.Machine.execPommelStoreDrain s
  | .dieLinkRetrainFailure die => Sys2Proof.Machine.execDieLinkRetrainFailure die s
  | .heartbeatSend => Sys2Proof.Machine.execHeartbeatSend s
  | .heartbeatReceive seq => Sys2Proof.Machine.execHeartbeatReceive seq s
  | .heartbeatTimeout => Sys2Proof.Machine.execHeartbeatTimeout s
  | .pfaultAssert => Sys2Proof.Machine.execPfaultAssert s
  | .berylLinkDown => Sys2Proof.Machine.execBerylLinkDown s
  | .tickCounterAdvance => Sys2Proof.Machine.execTickCounterAdvance s
  | .ptpServoAdjust p rate => Sys2Proof.Machine.execPtpServoAdjust p rate s
  | .ptpSynchronisation p sync => Sys2Proof.Machine.execPtpSynchronisation p sync s
  | .illegalInstruction => Sys2Proof.Machine.execIllegalInstruction s
  | .fetchFault => Sys2Proof.Machine.execFetchFault s
  | .unknownCommandCode code c => Sys2Proof.Machine.execUnknownCommandCode code c s

end Sys2Proof.Machine
end

