-- ==== Sys2Proof/Machine/Engine.lean ====
section
/-! DEFINITION. What the part does next: the words that a row, an arm or Pommel brings up, and the steps due on a tick (spec
01_machine R21-R26, 02_encoding R48, 05_taskcore R113-R116, 06_routing R139, R148, R163, 09_ordering R221; log 2). -/

namespace Sys2Proof.Machine

/-- What a piece of work comes to: an instruction to run in a state, a state, or a stop. -/
inductive Fetched where
  | run (i : Instr) (s : State)
  | go (s : State)
  | stop (x : Fault)

/-! ### Rows and arms (R21, R163) -/

/-- The instruction of three row words on an element, under an arm's predicate; no accepted image holds words that
do not decode. -/
def State.runRow (s : State) (e : ElemId) (c : Ctx) (armP : Bool) (op : BitVec 24) (route reg : BitVec 16) : Fetched :=
  let t := { s with fab := { s.fab with cur := (e, c), armP := armP } }
  match decodeRow op route reg with
  | .ok i => .run i t
  | .error _ => .stop .rowWords

/-! ### Pommel (R48, R94, R113-R116, R221) -/

/-- The registers that a task-core word reads (R40). -/
def taskSources (w : BitVec 32) : List (BitVec 5) :=
  let opc := (fld w 24 8).toNat
  let d := fld w 19 5
  let a := fld w 14 5
  let b := fld w 9 5
  if opc = 0xF0 then [31]
  else if opc = 0xED ∨ opc = 0xEE then [d]
  else if opc = 0xEC ∨ opc = 0xEF ∨ opc = 0x23 then []
  else if opc = 0x24 then [d]
  else if opc = 0x03 ∨ opc = 0x80 ∨ opc = 0x82 ∨ opc = 0xF1 ∨ opc = 0xF3 then [a]
  else if opc = 0x81 ∨ opc = 0x83 ∨ opc = 0xF2 ∨ opc = 0xF4 then [a, d]
  else if opc = 0x1C ∨ opc = 0x28 ∨ opc = 0x91 then [a, b, d]
  else [a, b]

/-- The instructions that wait for the store buffer (R221). -/
def drainsFirst (opc : Nat) : Bool :=
  opc == 0x83 || (0x8B ≤ opc && opc ≤ 0x97) || opc == 0x99 || opc == 0xFC || opc == 0xFD || (0xE0 ≤ opc && opc ≤ 0xEB)

/-- The cycle on which the word at hand may issue, by results it reads, earlier I/O writes and divisions; a cycle of the next tick
while the store buffer must drain (R94, R115, R193, R221). -/
def Fab.issueAt (f : Fab) (w : BitVec 32) : Nat :=
  let p := f.pom
  let opc := (fld w 24 8).toNat
  let t := (taskSources w).foldl (fun t r => if r = 0 then t else max t (p.ready.get r.toFin)) p.next
  let t := if [0xF3, 0xF4, 0xF5, 0xF7, 0xFA].contains opc then max t p.stio else t
  let t := if 0x07 ≤ opc ∧ opc ≤ 0x0A then max t p.div else t
  let va := p.r (fld w 14 5) + (fld w 0 14).signExtend 64
  let place := (f.sysTranslate .read va.toNat).1
  if (drainsFirst opc && !p.sbuf.isEmpty) || (opc == 0x81 && decide (8 ≤ p.sbuf.length)) ||
      ((opc == 0x80 || opc == 0x82) && p.sbuf.any fun x => x.1 == va || place.toOption == some x.2.1) then max t (3 * (f.clock + 1))
  else t

/-- Pommel's next step on this tick: dispatch, or the instruction at the pc, which may be held; its work stands again behind it. -/
noncomputable def State.pommelStep (s : State) : Fetched :=
  let f := s.fab
  let p := f.pom
  let again : State := { s with agenda := s.agenda ++ [.pommel] }
  if p.halted ∨ 3 * (f.clock + 1) ≤ p.next then .go s
  else if !p.running then
    if f.dispatchChan.isSome then .run .taskDispatch again
    else .go { s with fab := { f with pom := { p with next := 3 * (f.clock + 1) } } }
  else if 24000 ≤ p.next - p.start then .run .watchdog again
  else if p.pc.toNat % 4 ≠ 0 || !inUser p.pc 4 || f.uncorr (sramBase + p.pc.toNat) then .run .fetchFault again
  else
    let w := BitVec.ofNat 32 (f.sram p.pc.toNat 4)
    match decodeTaskBytes (f.bytes (sramBase + p.pc.toNat) 4) with
    | .error _ => .run .illegalInstruction { again with fab := f.fixSram p.pc.toNat }
    | .ok i =>
      let t := f.issueAt w
      if p.next < t then .go { again with fab := { f with pom := { p with next := t } } }
      else .run i { again with fab := f.fixSram p.pc.toNat }

/-- The write of an I/O register at its target, by its kind (R8, R128, R375). -/
noncomputable def ioInstr (a : BitVec 24) (v : W64) : Instr :=
  let b := a.toNat / 2 ^ 16
  let o := a.toNat % 2 ^ 16
  if o = 0x400 ∧ b < 6 then .thrlvlWrite (BitVec.ofNat 4 b) v
  else if o = 0x410 then .alertstWrite (BitVec.ofNat 4 b) v
  else if b = 8 ∧ 0x1000 ≤ o then .ingcfgWrite a v
  else .registerWrite a v

/-! ### The sequencer and the host port (R131, R132, R342) -/

/-- A sequencing instruction performed at the sequencer with the operands it issued with. -/
noncomputable def State.performSeq (s : State) (w : BitVec 32) (a b : W64) (done : Nat) : Fetched :=
  let t := { s with fab := s.fab.modPom fun p => { p with perf := some (a, b, done) } }
  match decodeTaskBytes (leBytes 4 w.toNat) with
  | .ok i => .run i t
  | .error _ => .stop .rowWords

/-- The instruction of a command record (R132): a FEATNEG reads or writes by byte 16, a START names a mode or an entry by byte 17, a SYSMAP
maps or unmaps by its flag (log 29). -/
noncomputable def commandInstr (code : BitVec 16) (c : Cmd) : Instr :=
  match code.toNat with
  | 0x01 => .ident c
  | 0x02 => .status c
  | 0x03 => if cmdArg c 16 1 % 2 = 0 then .featnegRead c else .featnegWrite c
  | 0x04 => .loadimg c
  | 0x05 => .loadtbl c
  | 0x06 => if cmdArg c 17 1 % 2 = 0 then .startMode c else .startEntry c
  | 0x07 => .modesw c
  | 0x08 => .qrec c
  | 0x09 => .purgeCmd c
  | 0x0A => .mircfg c
  | 0x0B => .timecfg c
  | 0x0C => .partmode c
  | 0x0D => .dieoff c
  | 0x0E => .attest c
  | 0x0F => .throttle c
  | 0x10 => .keyinst c
  | 0x11 => if (cmdArg c 41 1).testBit 3 then .sysmapUnmap c else .sysmapMap c
  | _ => .unknownCommandCode code c

/-- Does an earlier command still wait for its end (R131)? -/
def Fab.commandOpen (f : Fab) : Bool :=
  f.ops.any fun (_, o) => match o with
    | .partm _ _ (some _) => true
    | .doff _ _ _ (some _) _ _ => true
    | _ => false

/-- Is a START of an entry that is armed for the host (R344)? -/
def Fab.startArmed (f : Fab) (code : Nat) (c : Cmd) : Bool :=
  code == 6 && cmdArg c 17 1 % 2 == 1 && ((f.part (cmdArg c 16 1)).active.any fun m => (f.ent (cmdArg c 16 1) m (cmdArg c 18 2)).armed.isSome)

/-- A command record of 64 bytes written to the command window, with its doorbell (R131): it joins the queue, with a message on channel 1 (log
3); a START of an armed entry is also performed by the I/O die 24 t later (R344). A full channel or a halted Pommel loses the command. -/
noncomputable def State.doorbell (s : State) (record : List Byte) : State :=
  let f := s.fab
  let code := numAt record 0 2
  let c : Cmd := { tag := BitVec.ofNat 16 (numAt record 2 2), len := BitVec.ofNat 32 (numAt record 4 4), addr := BitVec.ofNat 64 (numAt record 8 8)
                   inl := slice record 16 48 }
  let io := f.startArmed code c
  let f := if io then f.at (f.clock + 24) 0 (.hostLaunch c) else f
  { s with fab :=
    if f.pom.halted || f.chanFull 1 then f.send 1 { w0 := 0x0500000000000000 }
    else { f with host := { f.host with cmds := f.host.cmds ++ [(BitVec.ofNat 16 code, c, io)] } }.send 1 { w0 := 0x0500000000000000 } }

/-- The oldest command handled, or waited with while an earlier one has not ended; a halted Pommel answers none (R119, R131). -/
noncomputable def State.handleCommand (s : State) : Fetched :=
  let f := s.fab
  if f.pom.halted then .go s
  else if f.commandOpen then .go { s with fab := { f with evq := f.evq ++ [⟨f.clock + 1, 0, .command⟩] } }
  else match f.host.cmds with
    | [] => .go s
    | (code, c, io) :: q => .run (commandInstr code c) { s with fab := { f with host := { f.host with cmds := q, ioStart := io } } }

/-- What the sensors of a block show: as many readings as it has sensors, 0 where none was given (R126, R127; log 3). -/
def Fab.readings (f : Fab) (b : Nat) : List W32 :=
  let (nt, nv, np) := sensorCounts b
  ((f.block b).seen ++ List.replicate (nt + nv + np) 0).take (nt + nv + np)

/-! ### The next piece of work -/

/-- The earliest phase of the work due by a tick. -/
def nextPhase (now : Nat) : List Ev → Option Nat
  | [] => none
  | x :: xs =>
    match nextPhase now xs with
    | none => if x.tick ≤ now then some x.ph else none
    | some p => if x.tick ≤ now then some (min x.ph p) else some p

/-- The first entry of a phase due by a tick, and the rest. -/
def takeDue (now ph : Nat) : List Ev → Option (Work × List Ev)
  | [] => none
  | x :: xs =>
    if x.tick ≤ now ∧ x.ph = ph then some (x.w, xs)
    else (takeDue now ph xs).map fun (w, ys) => (w, x :: ys)

/-- The work at hand: the head of the agenda, else what is due on this tick in order of phase (log 2). -/
def State.nextWork (s : State) : Option (Work × State) :=
  match s.agenda with
  | w :: ws => some (w, { s with agenda := ws })
  | [] =>
    match nextPhase s.fab.clock s.fab.evq with
    | none => none
    | some p =>
      (takeDue s.fab.clock p s.fab.evq).map fun (w, q) => (w, { s with fab := { s.fab with evq := q } })

/-- What the machine does next: an instruction and the state it runs in, or only a state (log 2). With nothing due the tick counter
advances. -/
noncomputable def State.fetch (s : State) : Fetched :=
  match s.nextWork with
  | none => .run .tickCounterAdvance s
  | some (w, t) =>
    match w with
    | .plan => let (rows, f) := t.fab.plan; .go { fab := f, agenda := rows ++ t.agenda }
    | .row e c => let (op, route, reg) := t.fab.ringWords e c; t.runRow e c false op route reg
    | .arm e c x p => t.runRow e c p (x.extractLsb' 32 24) (x.extractLsb' 16 16) (x.extractLsb' 0 16)
    | .pommel => t.pommelStep
    | .seq w a b done => t.performSeq w a b done
    | .io a v => .run (ioInstr a v) t
    | .command => t.handleCommand
    | .doorbell r => .go (t.doorbell r)
    | .sample b => .run (.monitorSample (BitVec.ofNat 4 b) (t.fab.readings b)) t
    | .instr i => .run i t

/-- A run of one region of one element whose rings hold one row each (the program of withFetchWord). -/
def oneRow (op : BitVec 24) (route reg : BitVec 16) : Share := { op := [op], route := [route], reg := [reg] }

end Sys2Proof.Machine
end

