-- ==== Sys2Proof/Machine/Step.lean ====
section
/-! DEFINITION. One step of the part, and the placing of one instruction where the next step takes it from (log 2, log 8). -/

namespace Sys2Proof.Machine

/-- One step: the next instruction in the order of log 2, or the work that chooses it. -/
noncomputable def step (s : State) : Host.Outcome State Fault Refusal :=
  match s.fetch with
  | .run i t => exec i t
  | .go t => .next t
  | .stop x => .fault x

/-- A word where the next step takes its instruction from (log 8): 24 bits with zero route and register-address words stand in the rings
of context 0 of element 0 in a running region of its own, whose row is next; 32 bits stand at the pc of a running task. -/
def State.withFetchWord (s : State) (nbits w : Nat) : State :=
  if nbits = 24 then
    let f := { s.fab with runs := mput 0 { ctx := 0, copies := [{ issued := true }] } s.fab.runs }
    let f := f.modSlot 0 0 fun x => { x with
      st := .running, share := some (oneRow (BitVec.ofNat 24 w) (BitVec.ofNat 16 (w / 2 ^ 24)) (BitVec.ofNat 16 (w / 2 ^ 40)))
      run := some (0, 0) }
    { fab := f, agenda := [.row 0 0] }
  else
    let f := s.fab.modPom fun p => { p with running := true }
    { fab := f.setSram f.pom.pc.toNat (leBytes 4 w), agenda := [.pommel] }

end Sys2Proof.Machine
end

