-- ==== Sys2Proof/Safety.lean ====
section
/-! DEFINITION. What counts as a safe state, and the terms in which claims are stated: what a row does to its slot, its lanes and the
rest of the part (spec 04_arithmetic R82-R86, 05_taskcore R119, 06_routing R137-R146, 14_containment R351). -/

namespace Sys2Proof.Machine

/-- Pommel runs: no double fault has halted it (R119). -/
def State.alive (s : State) : Bool := !s.fab.pom.halted

/-- Every active run is clean or corrected (R351). -/
def State.untainted (s : State) : Bool := s.fab.runs.all fun (_, r) => decide (r.verdict ≤ 1)

/-- Memory stands in its canonical form. -/
def State.memWf (s : State) : Bool := Memory.wf s.fab.mem

/-! ### Rows -/

/-- A slot but for its lanes. -/
def Slot.still (s : Slot) : Slot := { s with lanes := Vector.replicate 16 {} }
/-- An element but for the lanes of its slots. -/
def Elem.still (x : Elem) : Elem := { x with slots := x.slots.map Slot.still }

/-- What a row pushes over an edge on a lane of the far end: the hop latency and the token. -/
abbrev Out := Dir → LaneNo → Option (Nat × Token)

/-- Nothing pushed. -/
def Out.none : Out := fun _ _ => Option.none

/-- A lane after a row has taken the heads of some lanes of its own and pushed its tokens (R137). -/
def Row.laneAfter (r : Row) (pops : List LaneNo) (out : Out) (x : ElemId) (k : Ctx) (l : LaneNo) : Lane :=
  let y := r.f.lane x k l
  if k ≠ r.c then y
  else if x = r.e then (if pops.contains l then y.pop r.now else y)
  else match dirs.find? fun d => neighbour r.e d == some x with
    | some d => match out d l with
      | some (h, t) => y.push r.now h t
      | Option.none => y
    | Option.none => y

/-- The step on which a token pushed on a lane reaches its far end. -/
def arrivalOf (x : ElemId) (c : Ctx) (l : LaneNo) : Instr :=
  if l.val < 8 then .linkTokenArrival x c l else .controlTokenArrival x c l

/-- The part but for its elements, the work due and what keepers note. -/
def Fab.rest (f : Fab) : Fab := { f with elems := [], evq := [], keepq := [], seq := 0 }

/-- What a row may do: its slot becomes `new`, the heads of the lanes `pops` are taken, the tokens `out` are pushed and due at their far
ends; every other slot, every other lane, every tile, queue and node, all of memory and the rest of the part stay, but for what a keeper
notes (R364). -/
structure Row.Effect (r : Row) (new : Slot) (pops : List LaneNo) (out : Out) (f : Fab) : Prop where
  rest : f.rest = r.f.rest
  mem : ∀ a, memGet f.mem a = memGet r.f.mem a
  own : (f.elem r.e).still = (r.el.setSlot r.c new).still
  others : ∀ x, x ≠ r.e → (f.elem x).still = (r.f.elem x).still
  lanes : ∀ x k l, f.lane x k l = r.laneAfter pops out x k l
  events : ∃ q, f.evq = r.f.evq ++ q
  due : ∀ d x l h t, neighbour r.e d = some x → out d l = some (h, t) →
    (⟨r.now + h, 0, .instr (arrivalOf x r.c l)⟩ : Ev) ∈ f.evq

/-- The row of an instruction for the element at hand. -/
def State.row (s : State) (i : Instr) : Row := s.fab.rowCtx (opWord i) (wiresOf i)

/-- The row executes: its tokens, rooms and admissions are there (R139), it is no arm under a poisoned predicate, and its region records
no tape. -/
def State.executes (s : State) (i : Instr) : Prop :=
  (s.row i).planDefault = .go ∧ s.fab.armP = false ∧ (s.row i).tape = Option.none

/-- A value in the container of a type; a poison payload as it is (R62, R144). -/
def contained (ty : Ty) (v : TV) : W32 := if v.p then v.v else deliver ty v.v

/-- The slot after a row has delivered a result: rd where the mask names it, in its declared type or the result's; the control latch where
the mask names it; FB; flags added to ESR; EMR (R39, R83-R85, R145). -/
def Row.slotWith (r : Row) (base : Slot) (v : TV) (esr emr : W32) : Slot :=
  let ty := if r.sh.regType r.wr.reg.rd = .untyped then v.ty else r.sh.regType r.wr.reg.rd
  { base with
    regs := if r.wr.route.reg then base.regs.set r.wr.reg.rd.toFin ⟨contained ty v, v.p⟩ else base.regs
    latch := if r.wr.route.ctl then !v.p && v.v != 0 else base.latch
    latchP := if r.wr.route.ctl then v.p else base.latchP
    fb := ⟨contained v.ty v, v.p, v.ty⟩
    esr := base.esr ||| esr
    emr := emr }

/-- The tokens of a result: one on each link of a mask, in the type of the link (R140). -/
def Row.linksOut (r : Row) (m : BitVec 4) (tok : Ty → Token) : Out := fun d l =>
  if maskBit m d ∧ l = dataLane (oppDir d) (r.sh.outTrack d) then some (hop r.e d, tok (r.sh.outType d)) else Option.none

/-- The control tokens of a mask (R146). -/
def Row.ctlOut (m : BitVec 4) (v p : Bool) : Out := fun d l =>
  if maskBit m d ∧ l = ctlLane (oppDir d) then some (1, { v := bit 32 v, p := p, ty := .ctl }) else Option.none

/-- Two sets of pushes on lanes of their own. -/
def Out.and (a b : Out) : Out := fun d l => (a d l).or (b d l)

/-- A row that delivers a result and has no other effect. -/
def Row.Delivers (r : Row) (v : TV) (esr emr : W32) (f : Fab) : Prop :=
  r.Effect (r.slotWith r.sl v esr emr) r.consumed (r.linksOut (Route.links r.wr.route) fun ty => linkToken ty v) f

end Sys2Proof.Machine
end

