-- ==== Sys2Proof/Certificates/Slice0/Obligations.lean ====
section
/-! DEFINITION. The statements about the model, from the numbered rules of spec/. -/

open Sys2Proof Sys2Proof.Machine

/-! ## Element rows: arithmetic -/

namespace Sys2Proof.Spec

/-- The row executes and its effect is to deliver a result (R83-R85, R140): destinations, FB, ESR flags, EMR; everything else stays. -/
def delivers (i : Instr) (s : State) (v : TV) (esr emr : W32) : Prop :=
  ∃ t, exec i s = .next t ∧ t.agenda = s.agenda ∧ (s.row i).Delivers v esr emr t.fab

/-- Operands A, B and rd of a row, as far as its instruction reads them (R39, R86). -/
def operands (u : Uses) (r : Row) : List TV :=
  match u with
  | .z => []
  | .a => [r.a]
  | .ab => [r.a, r.b]
  | .abd => [r.a, r.b, r.d]
  | .abdd => [r.a, r.b, r.d, r.reg (r.wr.reg.rd ^^^ 1)]

/-- No operand that counts is poison. -/
def unpoisoned (u : Uses) (r : Row) : Prop := ∀ t ∈ operands u r, t.p = false

/-- The results of R93 that wrap and set no flag, from A, B and rd. -/
def integerResult : Instr → Option (Uses × (W32 → W32 → W32 → W32))
  | .add _ _ _ => some (.ab, fun a b _ => a + b)
  | .sub _ _ _ => some (.ab, fun a b _ => a - b)
  | .addi _ i _ => some (.a, fun a _ _ => a + i.signExtend 32)
  | .mul _ _ _ => some (.ab, fun a b _ => a * b)
  | .mulh _ _ _ => some (.ab, fun a b _ => BitVec.ofInt 32 (a.toInt * b.toInt / 2 ^ 32))
  | .mulhn _ _ _ => some (.ab, fun a b _ => BitVec.ofNat 32 (a.toNat * b.toNat / 2 ^ 32))
  | .min _ _ _ => some (.ab, fun a b _ => if a.toInt ≤ b.toInt then a else b)
  | .max _ _ _ => some (.ab, fun a b _ => if a.toInt ≤ b.toInt then b else a)
  | .minn _ _ _ => some (.ab, fun a b _ => if a.toNat ≤ b.toNat then a else b)
  | .maxn _ _ _ => some (.ab, fun a b _ => if a.toNat ≤ b.toNat then b else a)
  | .abs _ _ _ => some (.a, fun a _ _ => if a.toInt < 0 then -a else a)
  | .neg _ _ _ => some (.a, fun a _ _ => -a)
  | .and _ _ _ => some (.ab, fun a b _ => a &&& b)
  | .or _ _ _ => some (.ab, fun a b _ => a ||| b)
  | .xor _ _ _ => some (.ab, fun a b _ => a ^^^ b)
  | .andn _ _ _ => some (.ab, fun a b _ => a &&& ~~~b)
  | .not _ _ _ => some (.a, fun a _ _ => ~~~a)
  | .shl _ _ _ => some (.ab, fun a b _ => a <<< (b.toNat % 32))
  | .shr _ _ _ => some (.ab, fun a b _ => a >>> (b.toNat % 32))
  | .sha _ _ _ => some (.ab, fun a b _ => a.sshiftRight (b.toNat % 32))
  | .rot _ _ _ => some (.ab, fun a b _ => a.rotateRight (b.toNat % 32))
  | .clz _ _ _ => some (.a, fun a _ _ => if a = 0 then 32 else BitVec.ofNat 32 (31 - a.toNat.log2))
  | .popc _ _ _ => some (.a, fun a _ _ => BitVec.ofNat 32 ((List.range 32).countP fun k => a.getLsbD k))
  | .cmpeq _ _ _ => some (.ab, fun a b _ => if a = b then 1 else 0)
  | .cmpne _ _ _ => some (.ab, fun a b _ => if a = b then 0 else 1)
  | .cmplt _ _ _ => some (.ab, fun a b _ => if a.toInt < b.toInt then 1 else 0)
  | .cmple _ _ _ => some (.ab, fun a b _ => if a.toInt ≤ b.toInt then 1 else 0)
  | .cmpltn _ _ _ => some (.ab, fun a b _ => if a.toNat < b.toNat then 1 else 0)
  | .cmplen _ _ _ => some (.ab, fun a b _ => if a.toNat ≤ b.toNat then 1 else 0)
  | .movi i _ => some (.z, fun _ _ _ => i.signExtend 32)
  | .movhi i _ => some (.a, fun a _ _ => i ++ a.extractLsb' 0 16)
  | .mov _ _ _ => some (.a, fun a _ _ => a)
  | .sext _ _ _ => some (.ab, fun a b _ => (a <<< (31 - b.toNat % 32)).sshiftRight (31 - b.toNat % 32))
  | .bfx _ _ _ => some (.ab, fun a b _ =>
      (a >>> (b.toNat % 32)) &&& BitVec.ofNat 32 (2 ^ (b.toNat / 32 % 32 + 1) - 1))
  | .bfi _ _ _ => some (.abd, fun a b d =>
      let p := b.toNat % 32
      let m : W32 := BitVec.ofNat 32 (2 ^ (b.toNat / 32 % 32 + 1) - 1) <<< p
      (d &&& ~~~m) ||| ((a <<< p) &&& m))
  | _ => none

/-- The exact values of ADDS and SUBS before the clamp, from the values of A and B (R93). -/
def saturatingValue : Instr → Option (Int → Int → Int)
  | .adds _ _ _ => some fun a b => a + b
  | .subs _ _ _ => some fun a b => a - b
  | _ => none

/-- An operand's value in its own type: unsigned for an n-type and hdl, signed otherwise (R93). -/
def ownValue (t : TV) : Int :=
  if t.ty = .n32 ∨ t.ty = .n16 ∨ t.ty = .n8 ∨ t.ty = .n4 ∨ t.ty = .hdl then t.v.toNat else t.v.toInt

/-- The range of a result type that ADDS and SUBS clamp to (R54, R93). -/
def clampRange (ty : Ty) : Int × Int :=
  match ty with
  | .i4 => (-8, 7) | .i8 => (-128, 127) | .i16 => (-32768, 32767)
  | .n4 => (0, 15) | .n8 => (0, 255) | .n16 => (0, 65535) | .n32 | .hdl => (0, 4294967295)
  | _ => (-2147483648, 2147483647)

/-- The instructions whose operands count for poison by R86, with those operands and the default type of the result. -/
def poisonable : Instr → Option (Uses × Ty)
  | .adds _ _ _ | .subs _ _ _ => some (.ab, .i32)
  | .fadd _ _ _ | .fsub _ _ _ | .fmul _ _ _ | .fmin _ _ | .fmax _ _ | .fscale _ _ _ | .dqnt _ _ _ | .rexp _ _ _ =>
    some (.ab, .fp32)
  | .fcmpeq _ _ | .fcmplt _ _ | .fcmple _ _ | .fcmpun _ _ => some (.ab, .i32)
  | .fma _ _ _ | .fms _ _ _ | .fnma _ _ _ => some (.abd, .fp32)
  | .fdot2 _ _ _ => some (.abdd, .fp32)
  | .fabs _ _ | .fneg _ _ | .fcvt _ _ _ _ | .frnd _ _ _ | .itof _ _ _ | .fmant _ _ | .rredf _ _ | .rredn _ _ => some (.a, .fp32)
  | .fclass _ _ | .ftoi _ _ _ _ | .fexpn _ _ | .lutix _ _ _ _ => some (.a, .i32)
  | i => (integerResult i).map fun (u, _) => (u, .i32)

end Sys2Proof.Spec

/-- R93: the integer and bit instructions deliver their results, which wrap, and set no flag. -/
def Sys2Proof.Spec.IntegerRowsDeliverTheirResults : Prop :=
  ∀ (i : Instr) (s : State) (u : Uses) (v : W32 → W32 → W32 → W32), Spec.integerResult i = some (u, v) →
    s.executes i → Spec.unpoisoned u (s.row i) →
    Spec.delivers i s ⟨v (s.row i).a.v (s.row i).b.v (s.row i).d.v, false, (s.row i).resTy .i32⟩ 0 (s.row i).sl.emr

/-- R93: ADDS and SUBS clamp the exact sum or difference to the range of the result type, and set SAT exactly when they clamp. -/
def Sys2Proof.Spec.SaturatingRowsClampAndFlag : Prop :=
  ∀ (i : Instr) (s : State) (g : Int → Int → Int), Spec.saturatingValue i = some g → s.executes i → Spec.unpoisoned .ab (s.row i) →
    let r := s.row i
    let v := g (Spec.ownValue r.a) (Spec.ownValue r.b)
    let (lo, hi) := Spec.clampRange (r.resTy .i32)
    (lo ≤ v → v ≤ hi → Spec.delivers i s ⟨BitVec.ofInt 32 v, false, r.resTy .i32⟩ 0 r.sl.emr) ∧
    (v < lo → Spec.delivers i s ⟨BitVec.ofInt 32 lo, false, r.resTy .i32⟩ 0x20 r.sl.emr) ∧
    (hi < v → Spec.delivers i s ⟨BitVec.ofInt 32 hi, false, r.resTy .i32⟩ 0x20 r.sl.emr)

/-- R86: an instruction with a poison operand delivers the payload of the first one as poison and sets no flag. -/
def Obligations.PoisonOperandsPassOn : Prop :=
  ∀ (i : Instr) (s : State) (u : Uses) (ty : Ty) (p : TV), Spec.poisonable i = some (u, ty) → s.executes i →
    (Spec.operands u (s.row i)).find? (·.p) = some p →
    Spec.delivers i s ⟨p.v, true, (s.row i).resTy ty⟩ 0 (s.row i).sl.emr

/-- Integer rows deliver their results; ADDS and SUBS clamp and flag. -/
def Obligations.IntegerRowsDeliverAndSaturate : Prop :=
  Spec.IntegerRowsDeliverTheirResults ∧ Spec.SaturatingRowsClampAndFlag

/-! ## Element rows: moves, select, special registers, waiting -/

namespace Sys2Proof.Spec

/-- The instructions whose rows execute by the general rule of R139: every token source that A and B name holds a token, every
destination has room. -/
def waitsForOperands (i : Instr) : Bool :=
  match i with
  | .nop .. | .sel .. | .movSpecialRead .. | .movSpecialWrite .. | .adds .. | .subs .. | .fadd .. | .fsub .. | .fmul .. | .fma ..
  | .fms .. | .fnma .. | .fmin .. | .fmax .. | .fabs .. | .fneg .. | .fcmpeq .. | .fcmplt .. | .fcmple .. | .fcmpun .. | .fcvt ..
  | .fclass .. | .frnd .. | .ftoi .. | .itof .. | .fscale .. | .fdot2 .. | .fexpn .. | .fmant .. | .qnt .. | .dqnt .. | .lut ..
  | .lutix .. | .rredf .. | .rredn .. | .rexp .. | .lutsel .. | .cnti .. | .cntl .. | .rowq .. | .iofq .. | .frmq .. | .dly .. => true
  | i => (integerResult i).isSome

/-- The row takes its tokens and changes nothing else. -/
def onlyTakes (i : Instr) (s : State) : Prop :=
  ∃ t, exec i s = .next t ∧ t.agenda = s.agenda ∧ (s.row i).Effect (s.row i).sl (s.row i).consumed Out.none t.fab

end Sys2Proof.Spec

/-- R93: NOP has no result: FB, registers, links and flags stay. -/
def Sys2Proof.Spec.NopChangesNothing : Prop :=
  ∀ (t : BitVec 1) (wr : Wires) (s : State), s.executes (.nop t wr) → Spec.onlyTakes (.nop t wr) s

/-- R86, R93, R145: SEL delivers A where the control latch is 1 and B where it is 0, with that operand's own poison; under a poisoned
latch it delivers poison, B's payload or one of cause CTLPOISON. -/
def Sys2Proof.Spec.SelTakesTheOperandTheLatchNames : Prop :=
  ∀ (tm : BitVec 1) (im : BitVec 10) (wr : Wires) (s : State), s.executes (.sel tm im wr) →
    let i := Instr.sel tm im wr
    let r := s.row i
    let ty := r.resTy .i32
    (r.sl.latchP = false → r.sl.latch = true → Spec.delivers i s ⟨r.a.v, r.a.p, ty⟩ 0 r.sl.emr) ∧
    (r.sl.latchP = false → r.sl.latch = false → Spec.delivers i s ⟨r.b.v, r.b.p, ty⟩ 0 r.sl.emr) ∧
    (r.sl.latchP = true → r.b.p = true → Spec.delivers i s ⟨r.b.v, true, ty⟩ 0 r.sl.emr) ∧
    (r.sl.latchP = true → r.b.p = false → Spec.delivers i s ⟨poisonOf 8 r.e, true, ty⟩ 0 r.sl.emr)

/-- R87, R88, R90: a special read delivers EMR or ESR; a special write delivers the register as it was and then writes it: EMR takes RND,
PINV and LFSR, a zero seed loading 1 (an element of a transfer that is rounded on the tick still draws from the LFSR as it was); ESR loses every flag that is 1 in the value; a poison value is delivered and writes nothing. -/
def Sys2Proof.Spec.SpecialMovesReadAndWriteTheirRegister : Prop :=
  (∀ (tm sel : BitVec 1) (wr : Wires) (s : State), s.executes (.movSpecialRead tm sel wr) →
    let i := Instr.movSpecialRead tm sel wr
    let r := s.row i
    Spec.delivers i s ⟨if sel = 0 then r.sl.emr else r.sl.esr, false, r.resTy .i32⟩ 0 r.sl.emr) ∧
  (∀ (tm sel : BitVec 1) (wr : Wires) (s : State), s.executes (.movSpecialWrite tm sel wr) →
    let i := Instr.movSpecialWrite tm sel wr
    let r := s.row i
    let ty := r.resTy .i32
    (r.a.p = true → Spec.delivers i s ⟨r.a.v, true, ty⟩ 0 r.sl.emr) ∧
    (r.a.p = false → sel = 0 →
      let seed := r.a.v.extractLsb' 16 16
      ∃ t, exec i s = .next t ∧ t.agenda = s.agenda ∧
        r.Effect (r.slotWith { r.sl with oldL := (r.now + 1, r.sl.emr.extractLsb' 16 16) } ⟨r.sl.emr, false, ty⟩ 0
            ((if seed = 0 then 1 else seed) ++ (0 : BitVec 12) ++ r.a.v.extractLsb' 0 4))
          r.consumed (r.linksOut (Route.links wr.route) fun ty => linkToken ty ⟨r.sl.emr, false, r.resTy .i32⟩) t.fab) ∧
    (r.a.p = false → sel = 1 →
      ∃ t, exec i s = .next t ∧ t.agenda = s.agenda ∧
        r.Effect { r.slotWith r.sl ⟨r.sl.esr, false, ty⟩ 0 r.sl.emr with esr := r.sl.esr &&& ~~~(r.a.v &&& 0x7FF) }
          r.consumed (r.linksOut (Route.links wr.route) fun ty => linkToken ty ⟨r.sl.esr, false, r.resTy .i32⟩) t.fab))

/-- R139, R137: a row whose operand lane holds no token, or one of whose link destinations has no room, is not issuable: nothing
changes. -/
def Sys2Proof.Spec.RowsWaitForOperandsAndRoom : Prop :=
  ∀ (i : Instr) (s : State), Spec.waitsForOperands i = true →
    let r := s.row i
    ((∃ l ∈ r.lanes, r.head l = none) → (∀ l ∈ r.lanes, r.discarding l = false) → exec i s = .next s) ∧
    ((∃ d, maskBit (Route.links r.wr.route) d = true ∧ r.linkRoom d = false) → exec i s = .next s)

/-- R141: a row whose operand lanes all hold EOS takes them, pushes one EOS on every link destination and does not execute. -/
def Sys2Proof.Spec.RowsForwardEndOfStream : Prop :=
  ∀ (i : Instr) (s : State), Spec.waitsForOperands i = true →
    let r := s.row i
    r.lanes ≠ [] → (∀ l ∈ r.lanes, r.discarding l = false ∧ ∃ t, r.head l = some t ∧ t.kind = .eos) →
    r.room (Route.links r.wr.route) = true →
    ∃ t, exec i s = .next t ∧ t.agenda = s.agenda ∧
      r.Effect r.sl r.lanes (r.linksOut (Route.links r.wr.route) fun ty => { kind := .eos, ty := ty }) t.fab

/-- NOP, SEL and the moves to and from EMR and ESR. -/
def Obligations.SelectAndSpecialMoveRows : Prop :=
  Spec.NopChangesNothing ∧ Spec.SelTakesTheOperandTheLatchNames ∧ Spec.SpecialMovesReadAndWriteTheirRegister

/-- Rows wait for tokens and room, and forward an end of stream. -/
def Obligations.RowsWaitOrForwardEndOfStream : Prop :=
  Spec.RowsWaitForOperandsAndRoom ∧ Spec.RowsForwardEndOfStream

/-! ## Element rows: floating, conversion, quantisation, LUT -/

namespace Sys2Proof.Spec

/-- The row delivers a computed value with its flags: an invalid operation delivers poison of cause INVALID under PINV (R71, R86); a result
rounded in rsr advances the LFSR once (R68). -/
def computes (i : Instr) (s : State) (ty : Ty) (v : W32) (fl : Flags) (draws : Bool) : Prop :=
  let r := s.row i
  let emr := r.sl.emr
  let bad := fl.nv && emr.getLsbD 3
  delivers i s (if bad then ⟨poisonOf 1 r.e, true, ty⟩ else ⟨v, false, ty⟩) (fl.toEsr ||| if bad then 0x40 else 0)
    (if draws && rmOf r.rm emr = .rsr then setLfsr emr (lfsrNext (lfsrOf emr)) else emr)

/-- An exact value rounded once to a float type in the row's mode, with NV raised besides where asked (R66, R72). -/
def rounds (i : Instr) (s : State) (ty : Ty) (v : Machine.Num) (nv : Bool) : Prop :=
  let r := s.row i
  let f := (fmtOf ty).getD .fp32
  let x := f.round (rmOf r.rm r.sl.emr) false (lfsrOf r.sl.emr).toNat v
  computes i s ty (f.pack x.1) { x.2 with nv := x.2.nv || nv } true

/-- A value converted to a float type in rne, without a draw (R95). -/
def narrows (i : Instr) (s : State) (ty : Ty) (v : Machine.Num) (nv : Bool) : Prop :=
  let f := (fmtOf ty).getD .fp32
  let x := f.round .rne false 0 v
  computes i s ty (f.pack x.1) { x.2 with nv := x.2.nv || nv } false

/-- An integer held to a range. -/
def held (lo hi v : Int) : Int := max lo (min hi v)

/-- The exact results of the instructions that round once (R96, R100), from A, B, rd and its pair's other register, each in its own type;
whether the row rounds toward −∞ decides the sign of an exact zero sum (R66). -/
def exactResult : Instr → Option (Uses × (Bool → Machine.Num → Machine.Num → Machine.Num → Machine.Num → Machine.Num × Bool))
  | .fadd _ _ _ => some (.ab, fun m a b _ _ => Machine.Num.add m a b)
  | .fsub _ _ _ => some (.ab, fun m a b _ _ => Machine.Num.add m a b.neg)
  | .fmul _ _ _ => some (.ab, fun _ a b _ _ => Machine.Num.mul a b)
  | .fma _ _ _ => some (.abd, fun m a b d _ => mulAdd m a b d)
  | .fms _ _ _ => some (.abd, fun m a b d _ => mulAdd m a b d.neg)
  | .fnma _ _ _ => some (.abd, fun m a b d _ => mulAdd m a.neg b d)
  | .fdot2 _ _ _ => some (.abdd, fun m a b d d2 =>
      let p := Machine.Num.mul b d2
      let v := mulAdd m a d p.1
      (if p.2 then .nan false else v.1, v.2 || p.2))
  | _ => none

/-- The values of selection, sign and range-reduction instructions before they are converted to the result type in rne, and whether they
set NV (R97, R100, R106). -/
def selectedValue : Instr → Option (Uses × (Machine.Num → Machine.Num → Machine.Num × Bool))
  | .fmin _ _ => some (.ab, fun a b =>
      (if a.isNan then b else if b.isNan then a else if b.lt a ∨ (¬ a.lt b ∧ a.sign = false) then b else a, a.isSig || b.isSig))
  | .fmax _ _ => some (.ab, fun a b =>
      (if a.isNan then b else if b.isNan then a else if a.lt b ∨ (¬ b.lt a ∧ a.sign = true) then b else a, a.isSig || b.isSig))
  | .fabs _ _ => some (.a, fun a _ => (a.abs, a.isSig))
  | .fneg _ _ => some (.a, fun a _ => (a.neg, a.isSig))
  | .fmant _ _ => some (.a, fun a _ => match a with
      | .fin s n d => (if n = 0 then .fin s 0 1 else Machine.Num.scale (-(floorLog2 n d)) (.fin s n d), false)
      | _ => (.nan false, true))
  | .rredn _ _ => some (.a, fun a _ => match a with
      | .fin s n d => (.fin s (roundQuantum .rne 0 s n d 0).1 1, false)
      | x => (x, x.isSig))
  | .rredf _ _ => some (.a, fun a _ => match a with
      | .fin s n d =>
        if (roundQuantum .rne 0 s n d 0).2 then (.fin false 0 1, false)
        else ((Machine.Num.add false (.fin s n d) (.fin (!s) (roundQuantum .rne 0 s n d 0).1 1)).1, false)
      | .inf _ => (.nan false, true)
      | .nan g => (.nan g, g))
  | _ => none

/-- The integer results of compares, class and exponent, and whether they set NV (R98-R100). The class and exponent read A in its format. -/
def testedValue : Instr → Option (Uses × (Fmt → Machine.Num → Machine.Num → W32 × Bool))
  | .fcmpeq _ _ => some (.ab, fun _ a b => (if a.isNan ∨ b.isNan ∨ a.lt b ∨ b.lt a then 0 else 1, a.isSig || b.isSig))
  | .fcmplt _ _ => some (.ab, fun _ a b => (if a.lt b then 1 else 0, a.isNan || b.isNan))
  | .fcmple _ _ => some (.ab, fun _ a b => (if a.isNan ∨ b.isNan ∨ b.lt a then 0 else 1, a.isNan || b.isNan))
  | .fcmpun _ _ => some (.ab, fun _ a b => (if a.isNan ∨ b.isNan then 1 else 0, a.isSig || b.isSig))
  | .fclass _ _ => some (.a, fun f a _ => (BitVec.ofNat 32 (2 ^ (match a with
      | .inf true => 0 | .inf false => 7 | .nan true => 8 | .nan false => 9
      | .fin s n d =>
        if n = 0 then (if s then 3 else 4)
        else if floorLog2 n d < 1 - f.bias then (if s then 2 else 5)
        else (if s then 1 else 6))), false))
  | .fexpn _ _ => some (.a, fun _ a _ => match a with
      | .nan _ => (0x80000000, true)
      | .inf _ => (0x7FFFFFFF, true)
      | .fin _ n d => if n = 0 then (0x80000000, true) else (BitVec.ofInt 32 (floorLog2 n d), false))
  | _ => none

/-- The default result type of the conversions (R85, R99). -/
def convertsInto : Instr → Option Ty
  | .fcvt _ _ _ _ | .itof _ _ _ => some .fp32
  | .ftoi _ _ _ _ => some .i32
  | _ => none

/-- The scale that QNT and DQNT read in B: an E8M0 code in n8, a float otherwise (R101, R102). -/
def scaleOperand (t : TV) : Machine.Num :=
  if t.ty = .n8 then (if t.v.toNat % 256 = 255 then .nan false else Machine.Num.mk false 1 (((t.v.toNat % 256 : Nat) : Int) - 127)) else t.num

/-- Slope and intercept of a LUT bank's entry as the image loads it (R103). -/
def lutPair (sh : Share) (bank k : Nat) : Option (Machine.Num × Machine.Num) :=
  (sh.lutEntry bank k).map fun w => (Fmt.fp32.read (w.extractLsb' 0 32), Fmt.fp32.read (w.extractLsb' 32 32))

/-- A LUT row: the result is delivered and stands in LT too (R105). -/
def looksUp (i : Instr) (s : State) (bank k : Nat) : Prop :=
  let r := s.row i
  let ty := r.resTy .fp32
  let emr := r.sl.emr
  let f := (fmtOf ty).getD .fp32
  let res : W32 × Flags := match lutPair r.sh bank k with
    | none => (0, { nv := true })
    | some (m, c) =>
      let v := mulAdd (rmOf r.rm emr = .rdn) m r.a.num c
      let x := f.round (rmOf r.rm emr) false (lfsrOf emr).toNat v.1
      (f.pack x.1, { x.2 with nv := x.2.nv || (v.2 || (m.isSig || r.a.num.isSig || c.isSig)) })
  let bad := res.2.nv && emr.getLsbD 3
  let t : TV := if bad then ⟨poisonOf 1 r.e, true, ty⟩ else ⟨res.1, false, ty⟩
  let new := r.slotWith r.sl t (res.2.toEsr ||| if bad then 0x40 else 0)
    (if rmOf r.rm emr = .rsr then setLfsr emr (lfsrNext (lfsrOf emr)) else emr)
  ∃ t', exec i s = .next t' ∧ t'.agenda = s.agenda ∧
    r.Effect { new with lt := new.fb } r.consumed (r.linksOut (Route.links r.wr.route) fun y => linkToken y t) t'.fab

end Sys2Proof.Spec

/-- R96: sums and products are exact and rounded once in the row's mode; a signalling NaN or an invalid step sets NV. -/
def Sys2Proof.Spec.FloatArithmeticRoundsOnce : Prop :=
  ∀ (i : Instr) (s : State) (u : Uses) (g : Bool → Machine.Num → Machine.Num → Machine.Num → Machine.Num → Machine.Num × Bool), Spec.exactResult i = some (u, g) →
    s.executes i → Spec.unpoisoned u (s.row i) →
    let r := s.row i
    let w := g (rmOf r.rm r.sl.emr = .rdn) r.a.num r.b.num r.d.num (r.reg (r.wr.reg.rd ^^^ 1)).num
    Spec.rounds i s (r.resTy .fp32) w.1 (w.2 || (Spec.operands u r).any fun t => t.num.isSig)

/-- R100, R102, R106: FSCALE, REXP and DQNT multiply by a power of two or a scale and round once. -/
def Sys2Proof.Spec.ScaledResultsRoundOnce : Prop :=
  ∀ (s : State),
    (∀ rm tm wr, let i := Instr.fscale rm tm wr
      s.executes i → Spec.unpoisoned .ab (s.row i) → let r := s.row i
      Spec.rounds i s (r.resTy .fp32) (r.a.num.scale (Spec.held (-1024) 1024 r.b.v.toInt)) r.a.num.isSig) ∧
    (∀ rm tm wr, let i := Instr.rexp rm tm wr
      s.executes i → Spec.unpoisoned .ab (s.row i) → let r := s.row i
      (∀ neg n d, r.b.num = .fin neg n d → n % d = 0 →
        Spec.rounds i s (r.resTy .fp32) (r.a.num.scale (Spec.held (-512) 512 (if neg then -((n / d : Nat) : Int) else ((n / d : Nat) : Int)))) r.a.num.isSig) ∧
      (∀ neg, r.b.num = .inf neg → Spec.rounds i s (r.resTy .fp32) (r.a.num.scale (if neg then -512 else 512)) r.a.num.isSig) ∧
      ((∀ neg n d, r.b.num = .fin neg n d → n % d ≠ 0) → (∀ neg, r.b.num ≠ .inf neg) →
        Spec.rounds i s (r.resTy .fp32) (.nan false) true)) ∧
    (∀ rm tm wr, let i := Instr.dqnt rm tm wr
      s.executes i → Spec.unpoisoned .ab (s.row i) → let r := s.row i
      let v := if isFloat r.a.ty then r.a.num
        else Machine.Num.scale (if r.a.ty = .i8 ∧ r.b.ty = .n8 then -6 else 0) (Machine.Num.ofInt (intValue r.a.ty r.a.v))
      let x := Spec.scaleOperand r.b
      let p := Machine.Num.mul v x
      Spec.rounds i s (r.resTy .fp32) p.1 (p.2 || v.isSig || x.isSig))

/-- R95, R97, R100, R106: minimum, maximum, sign, significand and range-reduction instructions deliver their exact value, converted to
the result type in rne; −0 counts below +0, one NaN operand gives the other operand. -/
def Sys2Proof.Spec.SelectionRowsDeliverExactValues : Prop :=
  ∀ (i : Instr) (s : State) (u : Uses) (g : Machine.Num → Machine.Num → Machine.Num × Bool), Spec.selectedValue i = some (u, g) →
    s.executes i → Spec.unpoisoned u (s.row i) →
    let r := s.row i
    Spec.narrows i s (r.resTy .fp32) (g r.a.num r.b.num).1 (g r.a.num r.b.num).2

/-- R98, R99, R100: compares, class and exponent deliver an integer; NV for a NaN as each states. -/
def Sys2Proof.Spec.FloatTestsDeliverIntegers : Prop :=
  ∀ (i : Instr) (s : State) (u : Uses) (g : Fmt → Machine.Num → Machine.Num → W32 × Bool), Spec.testedValue i = some (u, g) →
    s.executes i → Spec.unpoisoned u (s.row i) →
    let r := s.row i
    let w := g ((fmtOf r.a.ty).getD .fp32) r.a.num r.b.num
    Spec.computes i s (r.resTy .i32) w.1 { nv := w.2 } false

/-- R73, R99: FCVT, FTOI and ITOF convert between integer and float types; FRND rounds to an integral value in the row's mode and then to a
narrower type in rne. -/
def Obligations.ConversionRowsConvert : Prop :=
  ∀ (i : Instr) (s : State), s.executes i → Spec.unpoisoned .a (s.row i) →
    let r := s.row i
    let m := rmOf r.rm r.sl.emr
    let draw := (lfsrOf r.sl.emr).toNat
    (∀ dflt, Spec.convertsInto i = some dflt →
      let dst := r.resTy dflt
      (∀ f, fmtOf r.a.ty = some f → ∀ lo hi, rangeOf dst = some (lo, hi) →
        let bad := if isSigned dst then lo else hi
        (f.read r.a.v).isNan = true → Spec.computes i s dst (intContainer dst (if r.sat then 0 else bad)) { nv := true } true) ∧
      (∀ f, fmtOf r.a.ty = some f → ∀ lo hi neg, rangeOf dst = some (lo, hi) → f.read r.a.v = .inf neg →
        let bad := if isSigned dst then lo else hi
        Spec.computes i s dst (intContainer dst (if r.sat then (if neg then lo else hi) else bad)) { nv := true } true) ∧
      (∀ f, fmtOf r.a.ty = some f → ∀ lo hi neg n d, rangeOf dst = some (lo, hi) → f.read r.a.v = .fin neg n d →
        let k := roundQuantum m draw neg n d 0
        let v : Int := if neg then -(k.1 : Int) else k.1
        let bad := if isSigned dst then lo else hi
        (lo ≤ v → v ≤ hi → Spec.computes i s dst (intContainer dst v) { nx := !k.2 } true) ∧
        (v < lo ∨ hi < v → Spec.computes i s dst (intContainer dst (if r.sat then Spec.held lo hi v else bad)) { nv := true } true)) ∧
      (∀ f g, fmtOf r.a.ty = some f → rangeOf dst = none → fmtOf dst = some g →
        let x := g.round m r.sat draw (f.read r.a.v)
        Spec.computes i s dst (g.pack x.1) { x.2 with nv := x.2.nv || (f.read r.a.v).isSig } true) ∧
      (∀ g, fmtOf r.a.ty = none → rangeOf dst = none → fmtOf dst = some g →
        let x := g.round m r.sat draw (Machine.Num.ofInt (intValue r.a.ty r.a.v))
        Spec.computes i s dst (g.pack x.1) { x.2 with nv := x.2.nv } true) ∧
      (∀ lo hi, fmtOf r.a.ty = none → rangeOf dst = some (lo, hi) →
        let v := intValue r.a.ty r.a.v
        (r.sat = false → Spec.computes i s dst (intContainer dst v) {} false) ∧
        (r.sat = true → Spec.computes i s dst (intContainer dst (Spec.held lo hi v))
          { of := decide (v < lo ∨ hi < v), nx := decide (v < lo ∨ hi < v) } false))) ∧
    (∀ rm tm wr, i = .frnd rm tm wr →
      let dst := r.resTy .fp32
      let f := (fmtOf dst).getD .fp32
      let w : Machine.Num × Bool := match r.a.num with
        | .fin neg n d => let k := roundQuantum m draw neg n d 0; (.fin neg k.1 1, !k.2)
        | x => (x, false)
      let x := f.round .rne false 0 w.1
      Spec.computes i s dst (f.pack x.1) { x.2 with nv := x.2.nv || r.a.num.isSig, nx := x.2.nx || w.2 } true)

/-- R101: QNT mode 01 delivers the E8M0 scale code of a block maximum, mode 10 its gi4 scale |a|/7 rounded up in fp16; NaN and infinities set
NV. -/
def Sys2Proof.Spec.QuantiserScalesFollowTheirRules : Prop :=
  ∀ (rm : BitVec 3) (sg tm : BitVec 1) (em : BitVec 4) (wr : Wires) (s : State),
    (let i := Instr.qnt rm sg tm 1 em wr
     s.executes i → Spec.unpoisoned .a (s.row i) → let r := s.row i
     (∀ neg n d, r.a.num = .fin neg n d →
       let x := floorLog2 n d - (em.toNat : Int)
       (n = 0 → Spec.computes i s (r.resTy .n8) 0 {} false) ∧
       (n ≠ 0 → Spec.computes i s (r.resTy .n8) (BitVec.ofInt 32 (Spec.held (-127) 127 x + 127)) { of := decide (127 < x) } false)) ∧
     ((∀ neg n d, r.a.num ≠ .fin neg n d) → Spec.computes i s (r.resTy .n8) 255 { nv := true } false)) ∧
    (let i := Instr.qnt rm sg tm 2 em wr
     s.executes i → Spec.unpoisoned .a (s.row i) → let r := s.row i
     (∀ neg n d, r.a.num = .fin neg n d →
       let x := Fmt.fp16.round .rup false 0 (.fin false n (7 * d))
       Spec.computes i s (r.resTy .fp16) (BitVec.ofNat 32 x.1) x.2 false) ∧
     ((∀ neg n d, r.a.num ≠ .fin neg n d) → Spec.computes i s (r.resTy .fp16) 0x7E00 { nv := true } false))

/-- R101: QNT mode 00 divides A by the scale and rounds once: into an integer range it clamps with OF and NX (mxi8, under an E8M0 scale,
with NX alone where only the scale selection saturates); a scale that is 0, NaN or infinite gives 0 with NV. -/
def Sys2Proof.Spec.QuantiserElementsRoundAndClamp : Prop :=
  ∀ (rm : BitVec 3) (sg tm : BitVec 1) (em : BitVec 4) (wr : Wires) (s : State),
    let i := Instr.qnt rm sg tm 0 em wr
    s.executes i → Spec.unpoisoned .ab (s.row i) → let r := s.row i
    let ty := r.resTy .fp16
    let x := Spec.scaleOperand r.b
    let m := rmOf r.rm r.sl.emr
    let draw := (lfsrOf r.sl.emr).toNat
    let clamps (lo hi : Int) : Prop :=
      (∀ neg n d, r.a.num.div x = .fin neg n d →
        let k := roundQuantum m draw neg n d 0
        let v : Int := if neg then -(k.1 : Int) else k.1
        (lo ≤ v → v ≤ hi → Spec.computes i s ty (intContainer ty v) { nx := !k.2 } true) ∧
        (v < lo ∨ hi < v → Spec.computes i s ty (intContainer ty (Spec.held lo hi v)) { of := true, nx := true } true)) ∧
      (∀ neg, r.a.num.div x = .inf neg → Spec.computes i s ty (intContainer ty (if neg then lo else hi)) { nv := true } true) ∧
      (r.a.num.div x = .nan false → Spec.computes i s ty 0 { nv := true } true)
    ((∀ neg n d, x = .fin neg n d → n = 0) → Spec.computes i s ty 0 { nv := true } false) ∧
    (∀ neg n d, x = .fin neg n d → n ≠ 0 →
      (ty = .i16 → clamps (-32767) 32767) ∧ (ty = .i4 → clamps (-7) 7) ∧ (ty = .n8 → clamps 0 255) ∧ (ty = .n4 → clamps 0 15) ∧
      (ty = .n16 → clamps 0 65535) ∧ (ty = .i8 → r.b.ty ≠ .n8 → clamps (-127) 127) ∧
      (ty = .i8 → r.b.ty = .n8 → ∀ neg n d, r.a.num.div x = .fin neg n d →
        let k := roundQuantum m draw neg (64 * n) d 0
        let v : Int := if neg then -(k.1 : Int) else k.1
        (-127 ≤ v → v ≤ 127 → Spec.computes i s ty (intContainer ty v) { nx := !k.2 } true) ∧
        (v < -127 ∨ 127 < v →
          Spec.computes i s ty (intContainer ty (Spec.held (-127) 127 v)) { of := decide (2 * d ≤ n), nx := true } true)) ∧
      (r.b.ty ≠ .n8 → ∀ f, fmtOf ty = some f →
        let y := f.round m r.sat draw (r.a.num.div x)
        Spec.computes i s ty (f.pack y.1) { y.2 with nv := y.2.nv || r.a.num.isNan } true))

/-- R104: LUTIX delivers a table index from 0 to 255; a NaN gives 0 with NV. -/
def Sys2Proof.Spec.LutIndexStaysInRange : Prop :=
  ∀ (tm : BitVec 1) (m : BitVec 2) (sc : BitVec 5) (wr : Wires) (s : State),
    let i := Instr.lutix tm m sc wr
    s.executes i → Spec.unpoisoned .a (s.row i) → let r := s.row i
    let gives (k : Int) := Spec.computes i s (r.resTy .i32) (BitVec.ofInt 32 k) {} false
    (r.a.num.isNan = true → Spec.computes i s (r.resTy .i32) 0 { nv := true } false) ∧
    (∀ neg, r.a.num = .inf neg → gives (if m.toNat < 2 ∧ neg = false then 255 else 0)) ∧
    (∀ neg n d, r.a.num = .fin neg n d →
      (m.toNat < 2 →
        let x := Machine.Num.scale sc.toInt (.fin neg n d)
        ∀ p q, x = .fin neg p q →
          let v : Int := if neg then -(((p + q - 1) / q : Nat) : Int) else ((p / q : Nat) : Int)
          gives (Spec.held 0 255 (v + if m = 1 then 128 else 0))) ∧
      (2 ≤ m.toNat → n = 0 → gives 0) ∧
      (2 ≤ m.toNat → n ≠ 0 →
        let ex := floorLog2 n d
        let w : Nat := if m = 2 then 8 else 7
        ∀ p q, Machine.Num.scale (w - ex) (.fin false n d) = .fin false p q →
          gives (((p / q - 2 ^ w : Nat) : Int) + if m = 2 then 0 else (ex % 2) * 128)))

/-- R105: LUT and LUTSEL deliver slope × x + intercept of the entry they name, rounded once, and keep it in LT too; a bank that the image
does not load gives +0 with NV. -/
def Sys2Proof.Spec.LutRowsEvaluateTheirEntry : Prop :=
  ∀ (s : State),
    (∀ rm tm k wr, let i := Instr.lut rm tm k wr
      s.executes i → Spec.unpoisoned .ab (s.row i) →
      Spec.looksUp i s k.toNat (Spec.held 0 255 (s.row i).b.v.toInt).toNat) ∧
    (∀ rm tm wr, let i := Instr.lutsel rm tm wr
      s.executes i → Spec.unpoisoned .ab (s.row i) →
      Spec.looksUp i s ((s.row i).b.v.extractLsb' 8 2).toNat ((s.row i).b.v.extractLsb' 0 8).toNat)

/-- Float arithmetic and scaling round once. -/
def Obligations.FloatRowsRoundOnce : Prop :=
  Spec.FloatArithmeticRoundsOnce ∧ Spec.ScaledResultsRoundOnce

/-- Float selection rows deliver exact values, float tests integers. -/
def Obligations.FloatSelectionAndTestRows : Prop :=
  Spec.SelectionRowsDeliverExactValues ∧ Spec.FloatTestsDeliverIntegers

/-- QNT delivers scales and quantised elements. -/
def Obligations.QuantiserRowsScaleRoundAndClamp : Prop :=
  Spec.QuantiserScalesFollowTheirRules ∧ Spec.QuantiserElementsRoundAndClamp

/-- LUTIX delivers an index, LUT and LUTSEL evaluate an entry. -/
def Obligations.TableRowsIndexAndEvaluate : Prop :=
  Spec.LutIndexStaysInRange ∧ Spec.LutRowsEvaluateTheirEntry

/-! ## Element rows: control and routing -/

namespace Sys2Proof.Spec

/-- The row may issue as far as its link and control destinations go; it is no arm under a poisoned predicate and records no tape. -/
def clear (i : Instr) (s : State) : Prop :=
  let r := s.row i
  s.fab.armP = false ∧ r.tape = none ∧ r.room (Route.links r.wr.route) = true ∧ r.ctlRoom r.cout = true

/-- A source is a value source, or a lane outside discard whose head is a data token. -/
def present (r : Row) (l : Option LaneNo) : Prop :=
  ∀ k, l = some k → r.discarding k = false ∧ ∃ t, r.head k = some t ∧ t.kind = .data

/-- The lane of a control input (R147). -/
def inputLane (sel : Nat) : List LaneNo :=
  match sel with
  | 1 => [8] | 2 => [9] | 3 => [10] | 4 => [11]
  | _ => []

/-- The lanes that A and B give up: none for an operand that the route word peeks (R37). -/
def takenA (r : Row) : List LaneNo := if r.wr.route.mode = 1 then [] else r.laneA.toList
def takenB (r : Row) : List LaneNo := if r.wr.route.mode = 2 then [] else r.laneB.toList

/-- The row delivers a typed value, pushes a control value on the edges of cout, and takes the heads of some lanes; `base` is its slot but
for what delivery changes. -/
def emits (i : Instr) (s : State) (base : Slot) (pops : List LaneNo) (v : TV) (c : Bool) : Prop :=
  let r := s.row i
  ∃ t, exec i s = .next t ∧ t.agenda = s.agenda ∧
    r.Effect (r.slotWith base v 0 r.sl.emr) pops
      ((r.linksOut (Route.links r.wr.route) fun ty => linkToken ty v).and (Row.ctlOut r.cout c false)) t.fab

/-- The row takes the heads of some lanes and pushes a control value; nothing is delivered. -/
def signals (i : Instr) (s : State) (pops : List LaneNo) (cout : BitVec 4) (c : Bool) : Prop :=
  let r := s.row i
  ∃ t, exec i s = .next t ∧ t.agenda = s.agenda ∧ r.Effect r.sl pops (Row.ctlOut cout c false) t.fab

/-- The control values of R156-R158 with the lanes they take, where the inputs are there and none is poison. -/
def controlValue (i : Instr) (r : Row) (v : Bool) (pops : List LaneNo) : Prop :=
  match i with
  | .ctest _ m _ => present r r.laneA ∧ r.a.p = false ∧ pops = takenA r ∧
      v = (let a := r.a.v
        let n := m.toNat % 32
        match m.toNat / 32 with
        | 0 => a != 0
        | 1 => a == 0
        | 2 => decide (a.toInt < 0)
        | 3 => decide (0 ≤ a.toInt)
        | 4 => decide (0 < a.toInt)
        | 5 => decide (a.toInt ≤ 0)
        | 6 => a.getLsbD n
        | _ => !a.getLsbD n)
  | .cemit c _ m _ => present r r.laneA ∧
      if c ≠ 0 then r.pred c.toNat = some (v, false) ∧ pops = takenA r ++ inputLane c.toNat
      else if r.wr.route.a = 15 then v = (m == 1) ∧ pops = []
      else r.a.p = false ∧ v = (r.a.v != 0) ∧ pops = takenA r
  | .cand c _ m _ => c ≠ 0 ∧ m ≠ 0 ∧ c.toNat ≠ m.toNat ∧ pops = inputLane c.toNat ++ inputLane m.toNat ∧
      ∃ p q, r.pred c.toNat = some (p, false) ∧ r.pred m.toNat = some (q, false) ∧ v = (p && q)
  | .cor c _ m _ => c ≠ 0 ∧ m ≠ 0 ∧ c.toNat ≠ m.toNat ∧ pops = inputLane c.toNat ++ inputLane m.toNat ∧
      ∃ p q, r.pred c.toNat = some (p, false) ∧ r.pred m.toNat = some (q, false) ∧ v = (p || q)
  | .cnot c _ _ => c ≠ 0 ∧ pops = inputLane c.toNat ∧ ∃ p, r.pred c.toNat = some (p, false) ∧ v = !p
  | .eosq _ m _ => ∃ l t, r.laneA = some l ∧ r.discarding l = false ∧ r.head l = some t ∧ v = (t.kind == .eos) ∧ (t.kind = .data → r.a.p = false) ∧
      pops = (if t.kind = .eos ∧ m = 1 then [l] else [])
  | _ => False

/-- The counter after a step that goes, and v (R159). -/
def counterStep (k : Counter) : Counter × Bool :=
  let limit := if k.limit = 0 then 2 ^ 32 else k.limit.toNat
  if limit ≤ k.count.toNat + 1 then (⟨0, k.limit, true⟩, true) else (⟨k.count + 1, k.limit, false⟩, false)

/-- The 32-bit values that the query rows deliver, with their type where no destination declares one (R159, R161). -/
def queried (i : Instr) (r : Row) : Option (W32 × Ty) :=
  let n (v : W32) : W32 × Ty := (v, .n32)
  let own := r.g - r.sh.stage * r.sh.ii
  let upTo (n : Nat) : W32 := BitVec.ofNat 32 (min n 4294967295)
  match i with
  | .cntl m _ => some <| n (if m.getLsbD 2 then (r.sl.cnt.get (Fin.ofNat 4 (m.toNat % 4))).limit else (r.sl.cnt.get (Fin.ofNat 4 (m.toNat % 4))).count)
  | .rowq m _ => some <| n (match m.toNat with
      | 0 => BitVec.ofNat 32 r.g
      | 1 => BitVec.ofNat 32 (r.g / 2 ^ 32)
      | 2 => upTo r.cp.stall
      | _ => upTo r.cp.pre)
  | .iofq m _ => some (match m.toNat with
      | 0 => (BitVec.ofNat 32 r.copyNo * r.sh.step, .i32)
      | 1 => n (BitVec.ofNat 32 r.copyNo)
      | 2 => n (BitVec.ofNat 32 r.sh.copies)
      | _ => n r.sh.step)
  | .frmq m _ => Option.map n (match m.toNat with
      | 0 => some (BitVec.ofNat 32 (own / max r.sh.ii 1))
      | 1 => some (BitVec.ofNat 32 r.run.n)
      | 2 => some (BitVec.ofNat 32 r.sh.stage)
      | 3 => some (BitVec.ofNat 32 r.sh.ii)
      | 4 => some (BitVec.ofNat 32 r.sh.stages)
      | 5 => some (BitVec.ofNat 32 (own % max r.sh.ii 1))
      | _ => none)
  | _ => none

/-- The elements are as `f` has them but for some slots' keys, which `g` gives. -/
def keysOf (f t : Fab) (g : ElemId → Ctx → Slot → Slot) : Prop :=
  t.rest = f.rest ∧ (∀ a, memGet t.mem a = memGet f.mem a) ∧
    (∀ x k, t.slot x k = g x k (f.slot x k)) ∧ ∀ x, ∃ ss, t.elem x = { f.elem x with slots := ss }

end Sys2Proof.Spec

/-- R156-R158: CEMIT, CTEST, CAND, COR, CNOT and EOSQ form a control value, deliver it and push it on every edge of cout; a control input
on an edge is taken, a data token of EOSQ stays. -/
def Sys2Proof.Spec.ControlRowsEmitTheirValue : Prop :=
  ∀ (i : Instr) (s : State) (v : Bool) (pops : List LaneNo), Spec.clear i s → Spec.controlValue i (s.row i) v pops →
    Spec.emits i s (s.row i).sl pops ⟨bit 32 v, false, (s.row i).resTy .i32⟩ v

/-- R151, R157: under a poisoned predicate CEMIT, CAND, COR and CNOT deliver poison of cause CTLPOISON, which FB holds; one poisoned input of
CAND or COR suffices. -/
def Sys2Proof.Spec.PoisonedPredicatesPoisonControlValues : Prop :=
  ∀ (i : Instr) (s : State) (v : Bool), Spec.clear i s →
    let r := s.row i
    ((∃ c o m wr, i = .cemit c o m wr ∧ c ≠ 0 ∧ Spec.present r r.laneA ∧ r.pred c.toNat = some (v, true)) ∨
     (∃ c o wr, i = .cnot c o wr ∧ c ≠ 0 ∧ r.pred c.toNat = some (v, true)) ∨
     (∃ c o m wr q, (i = .cand c o m wr ∨ i = .cor c o m wr) ∧ c ≠ 0 ∧ m ≠ 0 ∧ c.toNat ≠ m.toNat ∧
        ((r.pred c.toNat = some (v, true) ∧ r.pred m.toNat = some q) ∨ (r.pred c.toNat = some q ∧ r.pred m.toNat = some (v, true))))) →
    ∃ t, exec i s = .next t ∧ (t.fab.slot r.e r.c).fb = ⟨poisonOf 8 r.e, true, r.resTy .i32⟩ ∧
      (r.wr.route.reg = true → (t.fab.slot r.e r.c).regs.get r.wr.reg.rd.toFin = ⟨poisonOf 8 r.e, true⟩)

/-- R152: STEER takes its predicate and A, delivers A to the true side where the predicate is 1 and to the links of the false mask where it
is 0, and pushes the predicate on cout; on EOS at A it takes no predicate and pushes EOS on both sides. -/
def Sys2Proof.Spec.SteerSendsToTheChosenSide : Prop :=
  ∀ (c o m : BitVec 4) (wr : Wires) (s : State),
    let i := Instr.steer c o m wr
    let r := s.row i
    (∀ p, Spec.present r r.laneA → c ≠ 0 → r.pred c.toNat = some (p, false) → s.fab.armP = false → r.tape = none →
      r.ctlRoom o = true → r.room (Route.links wr.route ||| m) = true →
      (p = true → Spec.emits i s r.sl (Spec.takenA r ++ Spec.inputLane c.toNat) r.a true) ∧
      (p = false → ∃ t, exec i s = .next t ∧ t.agenda = s.agenda ∧
        r.Effect { r.sl with fb := ⟨contained r.a.ty r.a, r.a.p, r.a.ty⟩ } (Spec.takenA r ++ Spec.inputLane c.toNat)
          ((r.linksOut m fun ty => linkToken ty r.a).and (Row.ctlOut o false false)) t.fab)) ∧
    (∀ l t, r.laneA = some l → r.discarding l = false → r.head l = some t → t.kind = .eos →
      r.room (Route.links wr.route ||| m) = true → r.ctlRoom o = true →
      ∃ t, exec i s = .next t ∧ t.agenda = s.agenda ∧
        r.Effect r.sl [l] (r.linksOut (Route.links wr.route ||| m) fun ty => { kind := .eos, ty := ty }) t.fab)

/-- R153, R154: MERGE takes the arm that its predicate names, MERGEA the arm whose token reached the head of its lane first, A on the same
tick; the taken token is delivered and cout carries the predicate, or 1 for A and 0 for B. -/
def Sys2Proof.Spec.MergesDeliverTheTakenArm : Prop :=
  (∀ (c o : BitVec 4) (wr : Wires) (s : State) (p : Bool),
    let i := Instr.merge c o wr
    let r := s.row i
    Spec.clear i s → c ≠ 0 → r.pred c.toNat = some (p, false) →
    Spec.present r (if p then r.laneA else r.laneB) →
    (∀ l, (if p then r.laneB else r.laneA) = some l → r.discarding l = false) →
    Spec.emits i s r.sl ((if p then Spec.takenA r else Spec.takenB r) ++ Spec.inputLane c.toNat) (if p then r.a else r.b) p) ∧
  (∀ (o : BitVec 4) (wr : Wires) (s : State) (l m : LaneNo),
    let i := Instr.mergea o wr
    let r := s.row i
    Spec.clear i s → r.laneA = some l → r.laneB = some m → r.discarding l = false → r.discarding m = false →
    let data (k : LaneNo) := ∃ t, r.head k = some t ∧ t.kind = .data
    (data l → (r.head m = none ∨ data m ∧ (r.sl.lane l).headAt ≤ (r.sl.lane m).headAt) →
      Spec.emits i s r.sl (Spec.takenA r) r.a true) ∧
    (data m → (r.head l = none ∨ data l ∧ (r.sl.lane m).headAt < (r.sl.lane l).headAt) →
      Spec.emits i s r.sl (Spec.takenB r) r.b false))

/-- R155: GATE takes its predicate, pushes it on cout, and lets A pass where the predicate xor inv is 1; DROP takes A away without a
predicate, or where the predicate xor inv is 1; otherwise A stays. -/
def Sys2Proof.Spec.GateAndDropActOnTheirPredicate : Prop :=
  (∀ (c o : BitVec 4) (m : BitVec 1) (wr : Wires) (s : State) (p : Bool),
    let i := Instr.gate c o m wr
    let r := s.row i
    Spec.clear i s → c ≠ 0 → r.pred c.toNat = some (p, false) →
    ((p ^^ (m == 1)) = true → Spec.present r r.laneA →
      Spec.emits i s r.sl (Spec.takenA r ++ Spec.inputLane c.toNat) r.a p) ∧
    ((p ^^ (m == 1)) = false → (∀ l t, r.laneA = some l → r.discarding l = false → r.head l = some t → t.kind ≠ .eos) →
      Spec.signals i s (Spec.inputLane c.toNat) o p)) ∧
  (∀ (c o : BitVec 4) (m : BitVec 1) (wr : Wires) (s : State) (l : LaneNo),
    let i := Instr.drop c o m wr
    let r := s.row i
    r.laneA = some l → r.ctlRoom o = true →
    (c = 0 → r.discarding l = false → (r.head l).isSome = true → Spec.signals i s [l] 0 false) ∧
    (∀ p, c ≠ 0 → r.pred c.toNat = some (p, false) →
      ((p ^^ (m == 1)) = true → r.discarding l = false → (r.head l).isSome = true →
        Spec.signals i s (l :: Spec.inputLane c.toNat) o p) ∧
      ((p ^^ (m == 1)) = false → Spec.signals i s (Spec.inputLane c.toNat) o p)))

/-- R158: EOSE pushes one EOS on every link of its mask, on every issue without a predicate and where the predicate xor inv is 1 with one. -/
def Sys2Proof.Spec.EoseEmitsEndOfStream : Prop :=
  ∀ (c : BitVec 4) (m : BitVec 1) (wr : Wires) (s : State),
    let i := Instr.eose c m wr
    let r := s.row i
    let sends (pops : List LaneNo) (mask : BitVec 4) := ∃ t, exec i s = .next t ∧ t.agenda = s.agenda ∧
      r.Effect r.sl pops (r.linksOut mask fun ty => { kind := .eos, ty := ty }) t.fab
    r.room (Route.links wr.route) = true →
    (c = 0 → sends [] (Route.links wr.route)) ∧
    (∀ p, c ≠ 0 → r.pred c.toNat = some (p, false) →
      ((p ^^ (m == 1)) = true → sends (Spec.inputLane c.toNat) (Route.links wr.route)) ∧
      ((p ^^ (m == 1)) = false → sends (Spec.inputLane c.toNat) 0))

/-- R159: CNTI sets a counter's limit and clears its count and wrap bit; CNTS steps it where its predicate is 1 and, chained, where the
counter before it wrapped, else clears its wrap bit, and delivers whether it wrapped. -/
def Sys2Proof.Spec.CountersStepAndWrap : Prop :=
  (∀ (m : BitVec 2) (wr : Wires) (s : State),
    let i := Instr.cnti m wr
    let r := s.row i
    s.executes i → r.a.p = false →
    ∃ t, exec i s = .next t ∧ t.agenda = s.agenda ∧
      r.Effect { r.sl with cnt := r.sl.cnt.set m.toFin ⟨0, r.a.v, false⟩ } r.consumed Out.none t.fab) ∧
  (∀ (c o : BitVec 4) (m : BitVec 3) (wr : Wires) (s : State) (p : Bool),
    let i := Instr.cnts c o m wr
    let r := s.row i
    Spec.clear i s → (c = 0 ∨ r.pred c.toNat = some (p, false)) →
    let n : Fin 4 := Fin.ofNat 4 (m.toNat % 4)
    let k := r.sl.cnt.get n
    let go := (c == 0 || p) && (!m.getLsbD 2 || (r.sl.cnt.get (n - 1)).wrap)
    let w := if go then Spec.counterStep k else ({ k with wrap := false }, false)
    Spec.emits i s { r.sl with cnt := r.sl.cnt.set n w.1 } (Spec.inputLane c.toNat) ⟨bit 32 w.2, false, r.resTy .i32⟩ w.2)

/-- R159, R161: CNTL, ROWQ, IOFQ and FRMQ deliver the count, limit, row counter, stall count, offset or frame that they select; the
offset is signed. -/
def Sys2Proof.Spec.QueryRowsDeliverTheirValue : Prop :=
  ∀ (i : Instr) (s : State) (v : W32) (ty : Ty), Spec.queried i (s.row i) = some (v, ty) → s.executes i →
    Spec.delivers i s ⟨v, false, (s.row i).resTy ty⟩ 0 (s.row i).sl.emr

/-- R162: DLY delivers the oldest value of its queue and appends A's, with its poison bit. -/
def Sys2Proof.Spec.DelayRowsShiftTheirQueue : Prop :=
  ∀ (m : BitVec 4) (wr : Wires) (s : State) (x : Val) (xs : List Val),
    let i := Instr.dly m wr
    let r := s.row i
    s.executes i → r.sl.dly = x :: xs →
    let v : TV := ⟨x.v, x.p, r.a.ty⟩
    ∃ t, exec i s = .next t ∧ t.agenda = s.agenda ∧
      r.Effect (r.slotWith { r.sl with dly := xs ++ [⟨r.a.v, r.a.p⟩] } v 0 r.sl.emr) r.consumed
        (r.linksOut (Route.links wr.route) fun ty => linkToken ty v) t.fab

/-- R160: CTXP sets the own context's level in every element of the region and delivers the level before; PHASE clears the own H bit
and, handing over, sets the target's where the target has an active run. -/
def Sys2Proof.Spec.ContextRowsChangeTheFiringKeys : Prop :=
  (∀ (c : BitVec 4) (m : BitVec 2) (wr : Wires) (s : State) (p : Bool),
    let i := Instr.ctxp c m wr
    let r := s.row i
    Spec.clear i s → (c = 0 ∨ r.pred c.toNat = some (p, false)) →
    let v : TV := ⟨r.sl.lvl.zeroExtend 32, false, r.resTy .n32⟩
    ∃ t f, exec i s = .next t ∧ t.agenda = s.agenda ∧
      r.Effect (r.slotWith r.sl v 0 r.sl.emr) (Spec.inputLane c.toNat)
        (r.linksOut (Route.links wr.route) fun ty => linkToken ty v) f ∧
      Spec.keysOf f t.fab fun x k y => if (c = 0 ∨ p = true) ∧ x ∈ r.cp.elems ∧ k = r.c then { y with lvl := m } else y) ∧
  (∀ (c : BitVec 4) (m : BitVec 3) (wr : Wires) (s : State) (p : Bool),
    let i := Instr.phase c m wr
    let r := s.row i
    (c = 0 ∨ r.pred c.toNat = some (p, false)) →
    let target : Ctx := Fin.ofNat 4 (m.toNat % 4)
    ∃ t f, exec i s = .next t ∧ t.agenda = s.agenda ∧ r.Effect r.sl (Spec.inputLane c.toNat) Out.none f ∧
      Spec.keysOf f t.fab fun x k y =>
        if (c = 0 ∨ p = true) ∧ x ∈ r.cp.elems then
          (if k = r.c then { y with h := false }
           else if k = target ∧ m.getLsbD 2 = true ∧ y.run.isSome = true then { y with h := true } else y)
        else y)

/-- R163: ARMX takes its predicate, pushes it on cout, and the row of the chosen arm issues next in its place. -/
def Sys2Proof.Spec.ArmxIssuesTheChosenArm : Prop :=
  ∀ (c o : BitVec 4) (m : BitVec 3) (wr : Wires) (s : State) (p : Bool),
    let i := Instr.armx c o m wr
    let r := s.row i
    s.fab.armP = false → r.tape = none → c ≠ 0 → r.pred c.toNat = some (p, false) →
    ∃ t, exec i s = .next t ∧
      t.agenda = .arm r.e r.c (r.sh.arms.getD (2 * m.toNat + if p then 1 else 0) 0) false :: s.agenda ∧
      r.Effect r.sl (Spec.inputLane c.toNat) (Row.ctlOut o p false) t.fab

/-- Control rows emit their value, or poison under a poisoned predicate. -/
def Obligations.ControlValueRowsEmitOrPoison : Prop :=
  Spec.ControlRowsEmitTheirValue ∧ Spec.PoisonedPredicatesPoisonControlValues

/-- STEER, MERGE, MERGEA, GATE and DROP choose their token. -/
def Obligations.RoutingRowsChooseTheirToken : Prop :=
  Spec.SteerSendsToTheChosenSide ∧ Spec.MergesDeliverTheTakenArm ∧ Spec.GateAndDropActOnTheirPredicate

/-- EOSE, counters, queries, delays, firing keys and ARMX. -/
def Obligations.CountersQueriesKeysAndArms : Prop :=
  Spec.EoseEmitsEndOfStream ∧ Spec.CountersStepAndWrap ∧ Spec.QueryRowsDeliverTheirValue ∧ Spec.DelayRowsShiftTheirQueue ∧ Spec.ContextRowsChangeTheFiringKeys ∧ Spec.ArmxIssuesTheChosenArm

/-! ## Tile accesses, window accesses, atomics -/

namespace Sys2Proof.Spec

/-- The slot after a row of queue C, issued at row counter g, has made the push it reserved (R169). -/
def pushedAt (r : Row) (g : Nat) (sl : Slot) : Slot :=
  match r.pushFifo with
  | some k => slotPush k r.now (BitVec.ofNat 16 g) sl
  | none => sl

/-- The slot after a row of queue C that retires as it issues (R169). -/
def pushed (r : Row) (sl : Slot) : Slot := pushedAt r r.g sl

/-- The handle operand of a tile or window access: rd for a store or FESET, A otherwise (R177). -/
def handle (i : Instr) (r : Row) : TV :=
  match i with
  | .stt .. | .sttf .. | .feset .. | .gst .. | .gstf .. => r.d
  | _ => r.a

/-- The operands that the access names its place with, and FESET's value, are no poison (R385). -/
def placed (i : Instr) (r : Row) : Prop := (handle i r).p = false ∧ r.b.p = false

/-- The item's offset in the tile: i × s with i = u(b) + imm7 (R177). -/
def itemOffset (r : Row) : Nat := (r.b.v.toNat + r.imm7) * 2 ^ r.size

/-- An item zero- or sign-extended to 32 bits (R178). -/
def extended (r : Row) (item : Nat) : W32 :=
  if r.sx = true ∧ r.size = 0 then (BitVec.ofNat 8 item).signExtend 32
  else if r.sx = true ∧ r.size = 1 then (BitVec.ofNat 16 item).signExtend 32
  else BitVec.ofNat 32 item

/-- What a load delivers: the item, or poison of cause UNCORR where the word is poison. -/
def loaded (r : Row) (item tag : Nat) : TV :=
  if tag / 2 % 2 = 1 then ⟨poisonOf 2 r.e, true, r.resTy .i32⟩ else ⟨extended r item, false, r.resTy .i32⟩

/-- What the tile accesses do at E, where their word is in the state that they wait for (R178): the value delivered, the bytes stored, the
word's tag after (bit 0 set: empty; bit 1: poison). -/
def localAccess (i : Instr) (r : Row) (item tag : Nat) : Option (Option TV × List Byte × Nat) :=
  let bytes := leBytes (2 ^ r.size) r.a.v.toNat
  match i with
  | .ldt .. => some (some (loaded r item tag), [], tag)
  | .ldts .. => if tag % 2 = 0 then some (some (loaded r item tag), [], tag) else none
  | .ldte .. => if tag % 2 = 0 then some (some (loaded r item tag), [], tag + 1) else none
  | .feq .. => some (some ⟨BitVec.ofNat 32 ((1 - tag % 2) + 2 * (tag / 2 % 2)), false, r.resTy .n32⟩, [], tag)
  | .stt .. => if r.a.p = false ∧ r.size < 3 then some (none, bytes, tag) else none
  | .sttf .. => if r.a.p = false ∧ r.size < 3 ∧ tag % 2 = 1 then some (none, bytes, tag - 1) else none
  | .feset .. => if r.a.p then none else
      some (none, [], (if r.a.v.getLsbD 0 then 0 else 1) + (if r.a.v.getLsbD 1 then 0 else tag / 2 * 2))
  | _ => none

/-- Bytes at a place and the tag of its word changed; every other byte and tag of memory stays. -/
def stored (f t : Fab) (loc : Nat) (bytes : List Byte) (tag : Nat) : Prop :=
  (∀ a, memGet t.mem a = if loc ≤ a ∧ a < loc + bytes.length then bytes.getD (a - loc) 0 else memGet f.mem a) ∧
  (∀ a, t.tag a = if a / 8 = loc / 8 then tag else f.tag a)

/-- No cut of the row's copy is open or kept, and no page moves. -/
def uncut (r : Row) : Prop := r.cp.cutOpen = none ∧ r.cp.cutDone = none ∧ r.f.migs = []

/-- The instructions that address a window (R191, R229). -/
def windowed : Instr → Bool
  | .gld .. | .gst .. | .glds .. | .gstf .. | .aadd .. | .amin .. | .amax .. | .aand .. | .aor .. | .axch .. | .acas .. | .afadd .. => true
  | _ => false

/-- The slot after a row's poison has also reached the second register of a 64-bit atomic (R229, R385). -/
def paired (i : Instr) (r : Row) (p : W32) (sl : Slot) : Slot :=
  match i with
  | .aadd .. | .amin .. | .amax .. | .aand .. | .aor .. | .axch .. | .acas .. =>
    if r.size = 3 ∧ r.wr.reg.we = true then { sl with regs := sl.regs.set (r.wr.reg.rd + 1).toFin ⟨p, true⟩ } else sl
  | _ => sl

/-- The tile instructions of R178. -/
def tiled : Instr → Bool
  | .ldt .. | .stt .. | .ldts .. | .sttf .. | .ldte .. | .feset .. | .feq .. => true
  | _ => false

/-- The operands that are no address and must not be poison for the access to be sent: FESET's value, an atomic's v and c (R229, R385). -/
def valued (i : Instr) (r : Row) : Prop :=
  match i with
  | .feset .. => r.a.p = false
  | .aadd .. | .amin .. | .amax .. | .aand .. | .aor .. | .axch .. | .acas .. | .afadd .. =>
    ∀ x ∈ r.atomOperands, x.p = false
  | _ => True

/-- An atomic's new value of n bits from old, v and c (R230). -/
def atomicValue (opc n : Nat) (unsigned : Bool) (old v c : Nat) : Option Nat :=
  let less (a b : Nat) : Prop := if unsigned then a < b else (BitVec.ofNat n a).toInt < (BitVec.ofNat n b).toInt
  have : ∀ a b, Decidable (less a b) := fun a b => by unfold less; split <;> infer_instance
  match opc with
  | 0x8B => some ((old + v) % 2 ^ n)
  | 0x8C => some (if less v old then v else old)
  | 0x8D => some (if less v old then old else v)
  | 0x8E => some (old &&& v)
  | 0x8F => some (old ||| v)
  | 0x90 => some v
  | 0x91 => some (if old = c then v else old)
  | _ => none

end Sys2Proof.Spec

/-- R177, R178: at E, an access whose word is in the state it waits for is performed on its issue tick: loads deliver the item, stores write
exactly its bytes, F and poison change as stated; no other byte of memory, no other register and no flag changes. -/
def Sys2Proof.Spec.LocalAccessesActOnTheirItem : Prop :=
  ∀ (i : Instr) (s : State) (t : Tile) (res : Option TV) (bytes : List Byte) (tag : Nat),
    let r := s.row i
    let h := handleOf (Spec.handle i r).v
    let loc := elemBase r.e + 512 * t.loc + Spec.itemOffset r
    let frame := (s.fab.rowOf r.e r.c).2
    Spec.tiled i = true → s.executes i → Spec.placed i r → Spec.uncut r →
    s.fab.tileOf r.e r.c h = some t → t.lvl = 1 → Spec.itemOffset r + 2 ^ r.size ≤ t.byteLen →
    s.fab.tag loc < 4 → s.fab.chainOk r.e r.c r.runId r.copyNo frame r.wave = true →
    r.run.regen = none → Spec.localAccess i r (s.fab.load loc (2 ^ r.size)) (s.fab.tag loc) = some (res, bytes, tag) →
    let new := match res with
      | some v => r.slotWith (Spec.pushed r (r.tokens r.sl)) v 0 r.sl.emr
      | none => Spec.pushed r (r.tokens r.sl)
    let out := match res with
      | some v => r.linksOut (Route.links r.wr.route) fun ty => linkToken ty v
      | none => Out.none
    ∃ t', exec i s = .next t' ∧ t'.agenda = s.agenda ∧ Spec.stored s.fab t'.fab loc bytes tag ∧
      ({ r with f := { (s.fab.useTile r.e h).perform r.e r.runId r.copyNo frame r.wave with
          mem := t'.fab.mem, tags := t'.fab.tags } } : Row).Effect new r.consumed out t'.fab

/-- R171, R177: an access through an invalid handle, or to an item outside its tile, writes nothing and does not wait; a load delivers
poison of cause ELEMFAULT, a 64-bit atomic to both its registers. -/
def Sys2Proof.Spec.InvalidHandlesFaultTheAccess : Prop :=
  ∀ (i : Instr) (s : State),
    let r := s.row i
    Spec.tiled i = true ∨ Spec.windowed i = true → s.executes i → Spec.placed i r → Spec.valued i r →
    (∀ t, s.fab.tileOf r.e r.c (handleOf (Spec.handle i r).v) = some t →
      if Spec.windowed i then t.lvl ≠ 3 ∨ t.homeg = false else t.byteLen < Spec.itemOffset r + 2 ^ r.size) →
    let base := Spec.pushed r (r.tokens r.sl)
    let v : TV := ⟨poisonOf 9 r.e, true, r.resTy .i32⟩
    let store := match i with | .stt .. | .sttf .. | .feset .. | .gst .. | .gstf .. => true | _ => false
    ∃ t, exec i s = .next t ∧ t.agenda = s.agenda ∧
      r.Effect (if store then base else Spec.paired i r v.v (r.slotWith base v 0 r.sl.emr)) r.consumed
        (if store then Out.none else r.linksOut (Route.links r.wr.route) fun ty => linkToken ty v) t.fab

/-- R385: an access with a poison address operand makes no access; its destinations, both registers of a 64-bit atomic among them, receive the payload of the first
one, in the order A, B, rd; one that would change memory is a poison-consumed event. -/
def Sys2Proof.Spec.PoisonAddressesMakeNoAccess : Prop :=
  ∀ (i : Instr) (s : State) (p : TV),
    let r := s.row i
    Spec.tiled i = true ∨ Spec.windowed i = true → s.executes i →
    let store := match i with | .stt .. | .sttf .. | .feset .. | .gst .. | .gstf .. => true | _ => false
    (if store then [r.b, r.d] else [r.a, r.b]).find? (·.p) = some p →
    ∃ t, exec i s = .next t ∧ t.agenda = s.agenda ∧ (∀ a, memGet t.fab.mem a = memGet s.fab.mem a ∧ t.fab.tag a = s.fab.tag a) ∧
      (t.fab.slot r.e r.c).fb = (if store then r.sl.fb else ⟨p.v, true, r.resTy .i32⟩) ∧
      (r.wr.route.reg = true → store = false → (t.fab.slot r.e r.c).regs.get r.wr.reg.rd.toFin = ⟨p.v, true⟩) ∧
      (Spec.paired i r p.v r.sl ≠ r.sl → (t.fab.slot r.e r.c).regs.get (r.wr.reg.rd + 1).toFin = ⟨p.v, true⟩)

/-- R177, R191, R230: an access at D or through a window issues, and holds its element until the tick on which it completes: 16 t later at
D, 44 t at G, 48 t for an atomic. -/
def Obligations.DistantAccessesHoldTheirElement : Prop :=
  ∀ (i : Instr) (s : State) (t : Tile),
    let r := s.row i
    let h := handleOf (Spec.handle i r).v
    Spec.tiled i = true ∨ Spec.windowed i = true → s.executes i → Spec.placed i r → Spec.valued i r →
    s.fab.tileOf r.e r.c h = some t →
    (if Spec.windowed i then t.lvl = 3 ∧ t.homeg = true else t.lvl ≠ 1 ∧ Spec.itemOffset r + 2 ^ r.size ≤ t.byteLen) →
    let ticks := if t.lvl = 2 then 16 else if 0x8B ≤ r.opc then 48 else 44
    let held : Hold :=
      { kind := .scalar, c := r.c, run := r.runId, copy := r.copyNo, frame := (s.fab.rowOf r.e r.c).2, g := r.g
        op := r.op, wr := r.wr, armP := false, a := r.a, b := r.b, d := r.d, h := h, isG := t.lvl == 3
        va := t.loc + Spec.itemOffset r, loc := t.base r.e + Spec.itemOffset r, placed := t.lvl != 3, due := r.now + ticks }
    ∃ t', exec i s = .next t' ∧ t'.agenda = s.agenda ∧ (t'.fab.elem r.e).hold = some held ∧
      (⟨r.now + ticks, 0, .instr (.scalarAccessCompletion r.e)⟩ : Ev) ∈ t'.fab.evq ∧
      ({ r with f := (s.fab.useTile r.e h).modElem r.e fun x => { x with hold := some held } } : Row).Effect
        (r.tokens r.sl) r.consumed Out.none t'.fab

/-- R178, R191, R230: on its completion tick an access through a window is translated and performed at its word: GLD delivers the item, GST
writes it, an atomic writes its new value and delivers the old one; the element is free again. -/
def Obligations.WindowAccessesActOnCompletion : Prop :=
  ∀ (e : ElemId) (s : State) (h : Hold) (a : Nat) (f : Fab),
    let r := h.row s.fab e
    let n := 2 ^ r.size
    let tag := s.fab.tag a
    let old := s.fab.load a n
    (s.fab.elem e).hold = some h → h.kind = .scalar → h.isG = true → h.placed = false → h.parked = false → h.aux ≠ [1] →
    h.armP = false → s.fab.armP = false → r.tape = none → (s.fab.run h.run).regen = none → s.fab.migs = [] →
    s.fab.elemTranslate e (accessKind r.opc) h.va = (.ok a, f) → a < 2 ^ 40 → tag < 2 →
    s.fab.chainOk e h.c h.run h.copy h.frame r.wave = true →
    let done (res : Option TV) (bytes : List Byte) (regs : Slot → Slot) (esr : W32) : Prop :=
      let base := match res with
        | some v => regs (r.slotWith r.sl v esr r.sl.emr)
        | none => r.sl
      let out := match res with
        | some v => r.linksOut (Route.links r.wr.route) fun ty => linkToken ty v
        | none => Out.none
      ∃ t, exec (.scalarAccessCompletion e) s = .next t ∧ t.agenda = s.agenda ∧ Spec.stored s.fab t.fab a bytes tag ∧
        (t.fab.elem e).hold = none ∧
        ({ r with f := { (((f.useTile e h.h).unhold e).perform e h.run h.copy h.frame r.wave) with
          mem := t.fab.mem, tags := t.fab.tags } } : Row).Effect (Spec.pushedAt r h.g base) [] out t.fab
    (r.opc = 0x80 → done (some (Spec.loaded r old tag)) [] id 0) ∧
    (r.opc = 0x81 → h.a.p = false → r.size < 3 → done none (leBytes n h.a.v.toNat) id 0) ∧
    (∀ v c x, r.size = 2 → Spec.atomicValue r.opc 32 (r.sh.regType r.wr.reg.rd = .n32) old v c = some x →
      v = (r.reg r.wr.reg.rd).v.toNat → c = (r.reg (r.wr.reg.rd ^^^ 1)).v.toNat →
      done (some ⟨BitVec.ofNat 32 old, false, r.resTy (r.sh.regType r.wr.reg.rd)⟩) (leBytes 4 x) id 0) ∧
    (∀ v c x, r.size = 3 → Spec.atomicValue r.opc 64 (r.sh.regType r.wr.reg.rd = .n32) old v c = some x →
      v = (r.reg r.wr.reg.rd).v.toNat + 2 ^ 32 * (r.reg (r.wr.reg.rd + 1)).v.toNat →
      c = (r.reg (r.wr.reg.rd + 2)).v.toNat + 2 ^ 32 * (r.reg (r.wr.reg.rd + 3)).v.toNat →
      done (some ⟨BitVec.ofNat 32 old, false, r.resTy (r.sh.regType r.wr.reg.rd)⟩) (leBytes 8 x)
        (fun sl => if r.wr.reg.we then writeReg r.sh (r.wr.reg.rd + 1) ⟨BitVec.ofNat 32 (old / 2 ^ 32), false, .untyped⟩ sl else sl) 0) ∧
    (r.opc = 0x92 → r.size = 2 →
      let b := (r.reg r.wr.reg.rd).v
      let x := Fmt.fp32.round .rne false 0 (Machine.Num.add false (Fmt.fp32.value old) (Fmt.fp32.value b.toNat)).1
      done (some ⟨BitVec.ofNat 32 old, false, r.resTy (r.sh.regType r.wr.reg.rd)⟩) (leBytes 4 x.1) id
        ({ x.2 with nv := x.2.nv || (Machine.Num.add false (Fmt.fp32.value old) (Fmt.fp32.value b.toNat)).2 || (Fmt.fp32.value old).isSig ||
          (Fmt.fp32.value b.toNat).isSig } : Flags).toEsr)

/-- A tile access acts on its item at E, faults, or makes no access. -/
def Obligations.TileAccessesActOrFault : Prop :=
  Spec.LocalAccessesActOnTheirItem ∧ Spec.InvalidHandlesFaultTheAccess ∧ Spec.PoisonAddressesMakeNoAccess

/-! ## Tiles and jobs -/

namespace Sys2Proof.Spec

/-- The row delivers an n32 value, or one of the type given, on a part that is `f` but for the row's own effect. -/
def answers (i : Instr) (s : State) (f : Fab → Fab) (v : Nat) (dflt : Ty := .n32) (esr : W32 := 0) : Prop :=
  let r := s.row i
  let w : TV := ⟨BitVec.ofNat 32 v, false, r.resTy dflt⟩
  ∃ t, exec i s = .next t ∧ t.agenda = s.agenda ∧
    ({ r with f := f t.fab } : Row).Effect (r.slotWith (pushed r (r.tokens r.sl)) w esr r.sl.emr) r.consumed
      (r.linksOut (Route.links r.wr.route) fun ty => linkToken ty w) t.fab

/-- The fields of a progress register; those of R199 are no fields of a copy's or fill's (R181, R199). -/
def progressWord (b : Job) (k : Nat) : Nat :=
  let code := match b.st with
    | .idle => 0 | .running => 1 | .stopped => 2 | .done => 3 | .aborted => 4
  if k = 0 then b.idx % 2 ^ 32
  else if b.opc = 0x7A ∨ b.opc = 0x7B then code * 2 ^ 29 + b.cause * 2 ^ 24 + b.opc * 2 ^ 16
  else code * 2 ^ 29 + b.cause * 2 ^ 24 + b.opc * 2 ^ 16 + b.xcause * 2 ^ 12 + (if b.idxph then 2 ^ 11 else 0) +
    (if b.oor then 2 ^ 10 else 0) + (if b.safe then 2 ^ 9 else 0)

/-- The address operands of a job row, and the cause that its admission check gives, 0 for none (R180, R196, R211, R212, R274, R288,
R294). -/
def admission (i : Instr) (r : Row) : Option (List TV × Nat) :=
  let tile (t : TV) := r.f.tileOf r.e r.c (handleOf t.v)
  let stream := smCheck { r.newJob with n := smN r.opc r.block } (tile r.a) (tile r.b)
  let pattern := match patOf r.op with
    | some k => { r.newJob with pat := r.sl.pats.get k }
    | none => r.newJob
  let moved := r.f.transferCheck r.e { pattern with n := pattern.count }
  let len := pword r.block 2
  match i with
  | .tcopy .. => some ([r.a, r.b], copyCheck r.block (tile r.a) (tile r.b))
  | .tfill .. => some ([r.b], fillCheck r.block (tile r.b))
  | .strmi .. | .strmo .. => some ([r.a], stream)
  | .gath .. | .scat .. => some ([r.a, r.b], stream)
  | .xfer .. =>
    let remote := (pword r.block 3).testBit 13
    let fits (t : Tile) (o : Nat) : Bool := decide (o + len ≤ t.byteLen)
    some (if remote then [r.a] else [r.a, r.b],
      match tile r.a, tile r.b with
      | none, _ => jcHandle
      | some s, d =>
        if !remote && d.isNone then jcHandle
        else if !fits s (bits (pword r.block 0) 0 26) || (!remote && !(d.all fun d => fits d (bits (pword r.block 1) 0 26))) then jcBounds
        else if remote && !r.f.beryl.up then jcLink
        else 0)
  | .mirr .. => some ([r.a], match tile r.a with
      | none => jcHandle
      | some t => if r.f.beryl.ssize / 2 - 64 < t.byteLen then jcBounds else if !r.f.beryl.up then jcLink else 0)
  | .xld .. => some (if r.sub = 1 then [r.b] else [], moved)
  | .xst .. | .cbld .. | .redx .. => some ([r.a], moved)
  | .trns .. | .fibp .. | .fibu .. | .compm .. | .expdm .. | .isect .. => some ([r.a, r.b], moved)
  | .dcmpj .. => some ([r.a, r.b], dcCheck r.newJob (tile r.a) (tile r.b))
  | .lzcp .. =>
    let d := r.f.tileOf r.e r.c (bits (pword r.block 0) 0 10)
    let src := r.f.tileOf r.e r.c (bits (pword r.block 0) 16 10)
    let bad := r.sub != 1 && (r.d.v == 0 || decide (r.a.v.toNat < r.d.v.toNat))
    let inside := (d.any fun t => decide (r.a.v.toNat + r.b.v.toNat ≤ t.byteLen)) &&
      (r.sub != 1 || src.any fun t => decide (r.d.v.toNat + r.b.v.toNat ≤ t.byteLen))
    some ([r.a, r.b, r.d], if r.b.v == 0 || bad || inside then 0 else jcHandle)
  | _ => none

/-- The job that a slot holds was admitted by the row: its op word, block, operands, context, run and frame, its place in the order of the
queue, and its first element due; or it ended at once with a cause (R170, R180). -/
def admitted (r : Row) (t : Fab) (j : Fin 4) (cause : Nat) : Prop :=
  let b := t.job r.e j
  b.live = true ∧ b.opc = r.opc ∧ b.op = r.op ∧ b.pb = r.block ∧ b.a = r.a ∧ b.b = r.b ∧ b.c = r.c ∧ b.run = r.runId ∧
    b.copy = r.copyNo ∧ b.frame = (r.f.rowOf r.e r.c).2 ∧ b.tag = r.run.tag ∧ b.idx = 0 ∧ b.push = r.pushFifo ∧
    b.seq = r.el.sseq ∧ (t.elem r.e).sseq = r.el.sseq + 1 ∧ b.cause = cause ∧ b.st = (if cause = 0 then .running else .aborted)

end Sys2Proof.Spec

/-- R166, R173: TALLOC places a tile at the lowest first-fit run of its level, or at GBASE, under the lowest free handle, writes every word
zero with F by INIT, and delivers the handle; with no handle or no room it delivers 0 and sets TFULL. -/
def Sys2Proof.Spec.AllocationPlacesAndZeroesItsTile : Prop :=
  ∀ (b : BitVec 6) (w sx : BitVec 1) (q : BitVec 2) (wr : Wires) (s : State),
    let i := Instr.talloc b w sx q wr
    let r := s.row i
    let t := allocTile r.block r.c r.now
    let init := bits (pword r.block 1) 2 2
    s.executes i → s.fab.migs = [] →
    (∀ h a, r.el.freeHandle = some h → (t.lvl = 1 ∨ t.lvl = 2) →
      firstFit (s.fab.storage r.e t.lvl).1 (s.fab.storage r.e t.lvl).2 (t.need t.lvl) = some a →
      let placed := { t with loc := a, len := t.need t.lvl }
      let lo := placed.base r.e
      let len := padTo 8 t.byteLen
      ∃ t', exec i s = .next t' ∧ t'.agenda = s.agenda ∧ mget h (t'.fab.elem r.e).tiles = some placed ∧
        (∀ k, k ≠ h → mget k (t'.fab.elem r.e).tiles = mget k r.el.tiles) ∧
        (∀ x, memGet t'.fab.mem x = if lo ≤ x ∧ x < lo + len then 0 else memGet s.fab.mem x) ∧
        (∀ x, t'.fab.tag x = if lo ≤ x ∧ x < lo + len then (if init = 0 then 0 else 1) else s.fab.tag x) ∧
        (t'.fab.slot r.e r.c).fb = ⟨deliver (r.resTy .hdl) (BitVec.ofNat 32 h), false, r.resTy .hdl⟩) ∧
    (∀ h, r.el.freeHandle = some h → t.lvl = 3 → init = 2 →
      Spec.answers i s (fun _ => s.fab.modElem r.e fun x =>
        { x with tiles := mput h t x.tiles, born := (x.born.filter fun p => p.1 == r.now) ++ [(r.now, h)] }) h .hdl) ∧
    ((r.el.freeHandle = none ∨ ((t.lvl = 1 ∨ t.lvl = 2) ∧
        firstFit (s.fab.storage r.e t.lvl).1 (s.fab.storage r.e t.lvl).2 (t.need t.lvl) = none ∧
        s.fab.prefixFor r.e t.lvl (t.need t.lvl) = none)) →
      Spec.answers i s (fun _ => s.fab) 0 .hdl 0x80)

/-- R171, R172, R174: TFREE frees a tile, its storage from the next tick on, and delivers 0; a busy tile stays and gives 1, an invalid handle 2. -/
def Sys2Proof.Spec.FreeReleasesIdleTiles : Prop :=
  ∀ (w sx : BitVec 1) (q : BitVec 2) (wr : Wires) (s : State),
    let i := Instr.tfree w sx q wr
    let r := s.row i
    let h := handleOf r.a.v
    s.executes i → r.a.p = false →
    (∀ t, s.fab.tileOf r.e r.c h = some t → s.fab.tileBusy r.e h = false →
      Spec.answers i s (fun _ => s.fab.modElem r.e fun x =>
        { x with tiles := mdel h x.tiles, gone := (x.gone.filter fun p => p.1 == r.now) ++ [(r.now, t)] }) 0) ∧
    (∀ t, s.fab.tileOf r.e r.c h = some t → s.fab.tileBusy r.e h = true → Spec.answers i s (fun _ => s.fab) 1) ∧
    (s.fab.tileOf r.e r.c h = none → Spec.answers i s (fun _ => s.fab) 2)

/-- R164, R175: TQRY delivers the field of a tile's entry, or the count of free storage as the tick found it, that sub selects; an invalid handle reads as a free
entry. -/
def Sys2Proof.Spec.TileQueriesReadTheirEntry : Prop :=
  ∀ (w sx : BitVec 1) (q v : BitVec 2) (u : BitVec 4) (wr : Wires) (s : State),
    let i := Instr.tqry w sx q v u wr
    let r := s.row i
    let h := handleOf r.a.v
    let gives := Spec.answers i s fun _ => s.fab
    s.executes i → r.a.p = false →
    (u.toNat < 8 → s.fab.tileOf r.e r.c h = none → gives 0) ∧
    (∀ t, s.fab.tileOf r.e r.c h = some t →
      (u = 0 → gives t.lvl) ∧ (u = 1 → gives t.rows) ∧ (u = 2 → gives t.cols) ∧
      (u = 3 → gives (t.fmt.ctorIdx + 32 * t.lay + (if t.spl then 128 else 0) + (if s.fab.tileBusy r.e h then 256 else 0) +
        (if t.homeg then 512 else 0))) ∧
      (4 ≤ u.toNat → u.toNat < 8 → gives (t.bits.toNat / 2 ^ (32 * (u.toNat - 4)) % 2 ^ 32))) ∧
    (u = 8 → gives (freeUnits 384 r.el.used)) ∧ (u = 9 → gives (longestRun 384 r.el.used)) ∧
    (u = 10 → gives (s.fab.dieFree (dieOf r.e)) ∧
      ((∀ p ∈ s.fab.elems, ∀ q ∈ p.2.born, q.1 ≠ s.fab.clock) → gives (freeUnits 16384 (s.fab.dieUsed (dieOf r.e))))) ∧
    (u = 11 → gives (if v = 2 then r.sl.lastM.toNat else r.sl.lastS.toNat))

/-- R176: TLEVEL changes SPL and answers 0; it answers 3 for an invalid handle, 4 for a window, 2 for a busy tile, 1 without room at the
target and 0 for the present level, changing nothing; otherwise it holds its element for the move's time. -/
def Sys2Proof.Spec.LevelChangesFollowTheirRules : Prop :=
  ∀ (w sx : BitVec 1) (q v : BitVec 2) (u : BitVec 4) (wr : Wires) (s : State),
    let i := Instr.tlevel w sx q v u wr
    let r := s.row i
    let h := handleOf r.a.v
    let unchanged := Spec.answers i s fun _ => s.fab
    s.executes i → r.a.p = false →
    (s.fab.tileOf r.e r.c h = none → unchanged 3) ∧
    (∀ t, s.fab.tileOf r.e r.c h = some t →
      (u ≠ 0 → Spec.answers i s (fun _ => s.fab.modTile r.e h fun t => { t with spl := u == 1 }) 0) ∧
      (u = 0 → t.homeg = true → unchanged 4) ∧
      (u = 0 → t.homeg = false → s.fab.tileBusy r.e h = true → unchanged 2) ∧
      (u = 0 → t.homeg = false → s.fab.tileBusy r.e h = false →
        (t.lvl = v.toNat → unchanged 0) ∧
        (t.lvl ≠ v.toNat →
          let store := s.fab.storage r.e v.toNat
          (firstFit store.1 store.2 (t.need v.toNat) = none → unchanged 1) ∧
          (∀ a, firstFit store.1 store.2 (t.need v.toNat) = some a →
            let n := (if v.toNat < t.lvl then t.lvl - v.toNat else v.toNat - t.lvl) * (16 + (t.byteLen + 63) / 64)
            ∃ t' x, exec i s = .next t' ∧ t'.agenda = s.agenda ∧ (t'.fab.elem r.e).hold = some x ∧ x.kind = .tile ∧ x.h = h ∧
              x.due = r.now + n ∧ (⟨r.now + n, 0, .instr (.tileMoveCompletion r.e)⟩ : Ev) ∈ t'.fab.evq ∧
              ∀ y, memGet t'.fab.mem y = memGet s.fab.mem y))))

/-- R181, R199, R204: SPRG delivers a word of a slot's progress register; SABT answers 0 and aborts a running or stopped job, 1 otherwise;
SRES answers 0 and resumes a stopped job 28 t later, 2 for one that is not resumable, 1 otherwise. -/
def Sys2Proof.Spec.ProgressRowsReadAbortAndResume : Prop :=
  ∀ (w sx : BitVec 1) (q v : BitVec 2) (wr : Wires) (s : State),
    let j : Fin 4 := v.toFin
    (∀ u : BitVec 4, u.toNat < 2 → let i := Instr.sprg w sx q v u wr
      s.executes i → Spec.answers i s (fun _ => s.fab) (Spec.progressWord (s.fab.job (s.row i).e j) u.toNat % 2 ^ 32)) ∧
    (let i := Instr.sabt w sx q v wr
     let r := s.row i
     let b := s.fab.job r.e j
     s.executes i →
     (b.st = .running →
       let stream := 0 < b.idx ∧ 0x84 ≤ b.opc ∧ b.opc ≤ 0x87
       ∃ t, exec i s = .next t ∧ (t.fab.slot r.e r.c).fb = ⟨deliver (r.resTy .n32) 0, false, r.resTy .n32⟩ ∧
         (t.fab.job r.e j).st = .running ∧ (t.fab.job r.e j).abort = true ∧
         (¬ stream → (t.fab.job r.e j).next = b.next) ∧ (stream → r.now + 44 ≤ (t.fab.job r.e j).next)) ∧
     (b.st = .stopped → ∃ t, exec i s = .next t ∧ (t.fab.slot r.e r.c).fb = ⟨deliver (r.resTy .n32) 0, false, r.resTy .n32⟩ ∧
       (t.fab.job r.e j).st = .aborted ∧ (t.fab.job r.e j).cause = 5) ∧
     (b.st ≠ .running → b.st ≠ .stopped → Spec.answers i s (fun _ => s.fab) 1)) ∧
    (let i := Instr.sres w sx q v wr
     let r := s.row i
     let b := s.fab.job r.e j
     s.executes i →
     (b.st ≠ .stopped → Spec.answers i s (fun _ => s.fab) 1) ∧
     (b.st = .stopped → b.safe = true → Spec.answers i s (fun _ => s.fab) 2) ∧
     (b.st = .stopped → b.safe = false →
       Spec.answers i s (fun _ => { s.fab.modJob r.e j fun b => { b with
         st := .running, cause := 0, xcause := 0, idxph := false, next := r.now + 28 } with
           evq := s.fab.evq ++ [⟨r.now + 28, 2, .instr (.jobElement r.e j)⟩] }) 0))

/-- R170, R180: a row that hands a job to queue S takes the lowest free slot; the job holds the row's op word, block, operands, frame and
push; one whose check fails ends at once with the cause; no other slot, register or byte of memory changes. -/
def Sys2Proof.Spec.JobRowsAreAdmitted : Prop :=
  ∀ (i : Instr) (s : State) (addr : List TV) (cause : Nat) (j : Fin 4),
    let r := s.row i
    Spec.admission i r = some (addr, cause) → s.executes i → (∀ x ∈ addr, x.p = false) →
    r.el.freeSlot = some j → Spec.uncut r →
    ∃ t, exec i s = .next t ∧ t.agenda = s.agenda ∧ Spec.admitted r t.fab j cause ∧
      (∀ k, k ≠ j → t.fab.job r.e k = s.fab.job r.e k) ∧
      (t.fab.slot r.e r.c).regs = r.sl.regs ∧ (t.fab.slot r.e r.c).fb = r.sl.fb ∧ (t.fab.slot r.e r.c).latch = r.sl.latch ∧
      (∀ x, x ≠ r.e → t.fab.elem x = s.fab.elem x) ∧ (∀ x, memGet t.fab.mem x = memGet s.fab.mem x)

/-- TALLOC, TFREE, TQRY and TLEVEL. -/
def Obligations.TileRowsManageTiles : Prop :=
  Spec.AllocationPlacesAndZeroesItsTile ∧ Spec.FreeReleasesIdleTiles ∧ Spec.TileQueriesReadTheirEntry ∧ Spec.LevelChangesFollowTheirRules

/-- Job rows are admitted; SPRG, SABT and SRES read, abort and resume. -/
def Obligations.JobRowsAreAdmittedAndControlled : Prop :=
  Spec.ProgressRowsReadAbortAndResume ∧ Spec.JobRowsAreAdmitted

/-! ## Matrix node, patterns, codebooks, ordering -/

namespace Sys2Proof.Spec

/-- The rows that hand a command to queue M, with the operands that name its tiles (R252, R258, R259). -/
def commandRow (i : Instr) (r : Row) : Option (List TV) :=
  let a := if r.wr.route.a = 15 then [] else [r.a]
  let b := if r.wr.route.b = 15 then [] else [r.b]
  match i with
  | .mma .. | .mmas .. | .mmav .. | .mmab .. => some (a ++ b)
  | .macc .. | .mdrn .. => some a
  | _ => none

/-- The words of the matrix progress register (R251). -/
def matrixWord (p : MProg) (k : Nat) : Nat :=
  let code := match p.st with
    | .idle => 0 | .feeding => 1 | .draining => 2 | .stopped => 3 | .done => 4 | .aborted => 5
  match k with
  | 0 => p.total % 2 ^ 16 * 2 ^ 16 + p.done % 2 ^ 16
  | 1 => p.fidx % 2 ^ 32
  | _ => code * 2 ^ 29 + p.cause * 2 ^ 24 + p.opc * 2 ^ 16 + p.xcause * 2 ^ 12 + (if p.opnd then 2 ^ 11 else 0) +
      (if p.sat then 2 ^ 10 else 0) + p.flags.toNat % 32 * 2 ^ 5 + (if p.psn then 2 ^ 4 else 0) + (if p.safe then 2 ^ 3 else 0)

/-- The rows that name a cinch, with their address operands (R236-R238). -/
def cinchRow (i : Instr) (r : Row) : Option (List TV) :=
  match i with
  | .cinit .. | .carr .. | .cqry .. | .cdrop .. => some []
  | .cexpb .. => some [r.a, r.b]
  | _ => none

end Sys2Proof.Spec

/-- R170, R252: a row of MMA, MMAS, MMAV, MMAB, MACC or MDRN that issues with its handle operands unpoisoned appends its command to queue M
with the row's op word, block, frame, handles and push, and takes the next sequence number; the commands before it, the registers and FB
stay. -/
def Sys2Proof.Spec.MatrixCommandsQueue : Prop :=
  ∀ (i : Instr) (s : State) (addr : List TV),
    let r := s.row i
    Spec.commandRow i r = some addr → s.executes i → (∀ x ∈ addr, x.p = false) →
    ∃ t m, exec i s = .next t ∧ t.agenda = s.agenda ∧ (t.fab.elem r.e).mq = r.el.mq ++ [m] ∧
      m.op = r.op ∧ m.pb = r.block ∧ m.c = r.c ∧ m.run = r.runId ∧ m.copy = r.copyNo ∧ m.frame = (s.fab.rowOf r.e r.c).2 ∧
      m.push = r.pushFifo ∧ m.seq = r.el.sseq ∧ (t.fab.elem r.e).sseq = r.el.sseq + 1 ∧
      m.ha = (if r.wr.route.a = 15 then bits (pword r.block 1) 0 10 else handleOf r.a.v) ∧
      (m.opc ≤ 0xA3 → m.hb = (if r.wr.route.b = 15 then bits (pword r.block 1) 16 10 else handleOf r.b.v)) ∧
      (t.fab.slot r.e r.c).regs = r.sl.regs ∧ (t.fab.slot r.e r.c).fb = r.sl.fb

/-- R251, R260: MPRG delivers a word of the matrix progress register; MRES answers 1 without a stopped command and 2 where the stop is
unserviceable, else the command goes on at DONE; MABT answers 1 for an empty queue, else it ends every command and clears the cells. -/
def Sys2Proof.Spec.MatrixRowsReadResumeAndAbort : Prop :=
  ∀ (wr : Wires) (s : State),
    (∀ u : BitVec 4, u.toNat < 3 → let i := Instr.mprg u wr
      let p := (s.row i).el.node.prg
      s.executes i → p.cause < 32 → p.opc < 256 → p.xcause < 16 →
      Spec.answers i s (fun _ => s.fab) (Spec.matrixWord p u.toNat)) ∧
    (let i := Instr.mres wr
     let r := s.row i
     let p := r.el.node.prg
     s.executes i →
     ((r.el.mq = [] ∨ p.st ≠ .stopped ∨ p.cause ≠ 4) → Spec.answers i s (fun _ => s.fab) 1) ∧
     (r.el.mq ≠ [] → p.st = .stopped → p.cause = 4 → p.safe = true → Spec.answers i s (fun _ => s.fab) 2) ∧
     (∀ m ms, r.el.mq = m :: ms → p.st = .stopped → p.cause = 4 → p.safe = false →
       ∃ t, exec i s = .next t ∧ (t.fab.slot r.e r.c).fb = ⟨deliver (r.resTy .n32) 0, false, r.resTy .n32⟩ ∧
         let q := (t.fab.elem r.e).node.prg
         q.st = (if m.opc ≤ 0xA3 then .feeding else .draining) ∧ q.cause = 0 ∧ q.done = p.done)) ∧
    (let i := Instr.mabt wr
     let r := s.row i
     s.executes i →
     (r.el.mq = [] → Spec.answers i s (fun _ => s.fab) 1) ∧
     (r.el.mq ≠ [] → ∃ t, exec i s = .next t ∧ (t.fab.slot r.e r.c).fb = ⟨deliver (r.resTy .n32) 0, false, r.resTy .n32⟩ ∧
       let n := (t.fab.elem r.e).node
       (t.fab.elem r.e).mq = [] ∧ n.cells = [] ∧ n.prg.st = .aborted ∧ n.prg.cause = 5 ∧ n.prg.flags = 0 ∧ n.prg.sat = false ∧
         n.prg.psn = false))

/-- R264: MSHP delivers 1 for a word that is no command of the image, or drains to MD in a type that its readers do not take, and admits nothing; a poison word passes on; a command is admitted as
its own row would be, and MSHP delivers 0. -/
def Sys2Proof.Spec.ShippedCommandsAreChecked : Prop :=
  ∀ (w sx : BitVec 1) (q : BitVec 2) (wr : Wires) (s : State),
    let i := Instr.mshp w sx q wr
    let r := s.row i
    let word := r.a.v.toNat
    let fb (t : State) := (t.fab.slot r.e r.c).fb
    let ty := r.resTy .n32
    let block := mget (word / 16 % 64) r.sh.params
    let legal (pb : BitVec 256) := word % 16 < 6 ∧ word < 2 ^ 16 ∧
      matrixErr (0xA0 + word % 16) (word / 2 ^ 10 % 4) (word / 2 ^ 12 % 16) pb true true r.sh.wave r.sh.ownsCb = 0 ∧
      (word % 16 = 5 → word / 2 ^ 10 % 4 = 1 → r.sh.mdFits (tyOf (bits (pword pb 4) 0 5)) = true)
    s.executes i →
    (r.a.p = true → ∃ t, exec i s = .next t ∧ (t.fab.elem r.e).mq = r.el.mq ∧ fb t = ⟨r.a.v, true, ty⟩) ∧
    (r.a.p = false → (∀ pb, block = some pb → ¬ legal pb) →
      ∃ t, exec i s = .next t ∧ (t.fab.elem r.e).mq = r.el.mq ∧ fb t = ⟨deliver ty 1, false, ty⟩) ∧
    (∀ pb, r.a.p = false → block = some pb → legal pb →
      ∃ t m, exec i s = .next t ∧ (t.fab.elem r.e).mq = r.el.mq ++ [m] ∧ m.pb = pb ∧ m.opc = 0xA0 + word % 16 ∧ m.c = r.c ∧
        m.push = r.pushFifo ∧ fb t = ⟨deliver ty 0, false, ty⟩)

/-- R269: LAYR and LAYW write the pattern register of their port with the handle and the block and deliver 0; an invalid handle changes
nothing and gives 1. -/
def Sys2Proof.Spec.PatternRowsWriteTheirPort : Prop :=
  ∀ (i : Instr) (k : Fin 3) (s : State),
    let r := s.row i
    let h := handleOf r.a.v
    ((∃ b wr, i = .layw b wr ∧ k = 2) ∨ (∃ b v wr, i = .layr b v wr ∧ ((v = 0 ∧ k = 0) ∨ (v = 1 ∧ k = 1)))) →
    s.executes i → r.a.p = false →
    (s.fab.tileOf r.e r.c h = none → Spec.answers i s (fun _ => s.fab) 1) ∧
    (∀ t, s.fab.tileOf r.e r.c h = some t →
      let w : TV := ⟨0, false, r.resTy .n32⟩
      ∃ t', exec i s = .next t' ∧ t'.agenda = s.agenda ∧
        r.Effect (r.slotWith { r.sl with pats := r.sl.pats.set k (h, r.block) } w 0 r.sl.emr) r.consumed
          (r.linksOut (Route.links r.wr.route) fun ty => linkToken ty w) t'.fab)

/-- R281, R293: VQX delivers a component of a codebook entry, poison where A or the entry is poison, an invalid one under PINV too; DCMPQ delivers 0 for a slot whose job is
no DCMPJ, and the bytes written by one that is. -/
def Sys2Proof.Spec.CodebookAndExpansionQueries : Prop :=
  (∀ (w sx : BitVec 1) (q v : BitVec 2) (u : BitVec 3) (wr : Wires) (s : State),
    let i := Instr.vqx w sx q v u wr
    let r := s.row i
    let ty := r.resTy .fp32
    let fmt : Ty := if r.sh.ownsCb ty u.toNat then ty else if r.sh.ownsCb .bf16 u.toNat then .bf16 else .fp8e4
    let x := s.fab.cbElt r.e fmt u.toNat (r.a.v.toNat % 256) v.toNat
    let gives (t : TV) (esr : W32) := ∃ t', exec i s = .next t' ∧ t'.agenda = s.agenda ∧
      r.Effect (r.slotWith (Spec.pushed r (r.tokens r.sl)) t esr r.sl.emr) r.consumed
        (r.linksOut (Route.links r.wr.route) fun y => linkToken y t) t'.fab
    let wide := convTo fmt ty .rne false 0 x.v
    s.executes i →
    (r.a.p = true → gives ⟨r.a.v, true, ty⟩ 0) ∧
    (r.a.p = false → x.p = true → gives ⟨poisonOf 2 r.e, true, ty⟩ 0) ∧
    (r.a.p = false → x.p = false → ty = fmt → gives ⟨x.v, false, ty⟩ 0) ∧
    (r.a.p = false → x.p = false → ty ≠ fmt → (wide.fl.nv && pinv r.sl.emr) = false → gives ⟨wide.v, false, ty⟩ wide.fl.toEsr) ∧
    (r.a.p = false → x.p = false → ty ≠ fmt → wide.fl.nv = true → pinv r.sl.emr = true →
      gives ⟨poisonOf 1 r.e, true, ty⟩ (wide.fl.toEsr ||| esrPsn))) ∧
  (∀ (w sx : BitVec 1) (q v : BitVec 2) (u : BitVec 4) (wr : Wires) (s : State),
    let i := Instr.dcmpq w sx q v u wr
    let r := s.row i
    let b := s.fab.job r.e v.toFin
    s.executes i →
    (b.opc ≠ 0xB9 → Spec.answers i s (fun _ => s.fab) 0) ∧
    (b.opc = 0xB9 → u = 0 → Spec.answers i s (fun _ => s.fab) b.idx))

/-- R232, R233: FENCE, RELS and ACQS with nothing to wait for take their issue tick; with jobs, the element holds while a job of the context
that writes in the scope, or a command of queue M, has not retired. -/
def Sys2Proof.Spec.FencesWaitForTheirJobs : Prop :=
  ∀ (i : Instr) (s : State) (scope : Nat) (jobs : Bool),
    let r := s.row i
    let waits := jobs = true ∧ ((r.el.mq.any fun m => m.c == r.c) = true ∨
      ∃ j, let b := s.fab.job r.e j
        b.live = true ∧ b.c = r.c ∧ (3 ≤ scope ∨
          (match b.dst with
            | some h => ∃ lvl, ((mget h r.el.tiles).getD { lvl := 3 }).lvl = lvl ∧ (lvl = 1 ∨ (1 ≤ scope ∧ lvl = 2))
            | none => False)))
    ((∃ wr, i = .acqs wr ∧ jobs = false) ∨ (∃ wr, i = .rels wr ∧ scope = 4 ∧ jobs = true) ∨
      (∃ u wr, i = .fence u wr ∧ u.toNat % 8 < 6 ∧ scope = min 4 (u.toNat % 8) ∧ jobs = (decide (8 ≤ u.toNat) || u.toNat % 8 == 5))) →
    s.executes i →
    (¬ waits → ∃ t, exec i s = .next t ∧ t.agenda = s.agenda ∧
      r.Effect (Spec.pushed r (r.tokens r.sl)) r.consumed Out.none t.fab) ∧
    (waits → ∃ t h, exec i s = .next t ∧ (t.fab.elem r.e).hold = some h ∧ h.kind = .fence ∧ h.c = r.c ∧
      (t.fab.slot r.e r.c).regs = r.sl.regs ∧ ∀ a, memGet t.fab.mem a = memGet s.fab.mem a)

/-- R235: a cinch row sends its request, which reaches the unit 4 t later on its own die and 16 t later on another, and its element holds
until the answer. -/
def Sys2Proof.Spec.CinchRowsSendTheirRequest : Prop :=
  ∀ (i : Instr) (s : State) (addr : List TV),
    let r := s.row i
    let k := bits (pword r.block 0) 8 3 * 256 + bits (pword r.block 0) 0 8
    let due := r.now + if dieOf r.e = k / 256 then 4 else 16
    Spec.cinchRow i r = some addr → s.executes i → (∀ x ∈ addr, x.p = false) →
    ∃ t h, exec i s = .next t ∧ t.agenda = s.agenda ∧ (t.fab.elem r.e).hold = some h ∧ h.kind = .cinch ∧ h.h = k ∧ h.op = r.op ∧
      h.a = r.a ∧ h.b = r.b ∧ h.c = r.c ∧ (∃ ph, (⟨due, ph, .instr (.cinchRequestArrival r.e)⟩ : Ev) ∈ t.fab.evq) ∧
      t.fab.cinches = s.fab.cinches ∧ (t.fab.slot r.e r.c).regs = r.sl.regs ∧ (t.fab.slot r.e r.c).fb = r.sl.fb

/-- R240, R242: COLL takes the lowest free slot of queue S, its contribution reaches the root 4 t later on the root's die and 28 t later
from another; a participant outside the group ends with BOUNDS, a second contribution with DUP. -/
def Sys2Proof.Spec.CollectiveRowsContribute : Prop :=
  ∀ (b : BitVec 6) (w sx : BitVec 1) (q : BitVec 2) (wr : Wires) (s : State) (j : Fin 4),
    let i := Instr.coll b w sx q wr
    let r := s.row i
    let p := r.cp.participant r.copyNo r.e
    let group := bits (pword r.block 0) 0 8
    let m := bits (pword r.block 1) 0 11 + 1
    let twice := s.fab.colls.any fun (_, x) => x.run == r.runId && x.group == group && x.p == p
    let due := r.now + if dieOf r.e = (s.fab.run r.runId).root then 4 else 28
    s.executes i → r.el.freeSlot = some j →
    (p < m → twice = false → ∃ t k, exec i s = .next t ∧ t.agenda = s.agenda ∧
      mget k t.fab.colls = some ⟨r.runId, group, p, r.e, j, r.a, due, false, r.block⟩ ∧
      (⟨due, 0, .instr (.collContributionArrival k)⟩ : Ev) ∈ t.fab.evq ∧
      (t.fab.job r.e j).live = true ∧ (t.fab.job r.e j).st = .running ∧ (t.fab.job r.e j).opc = 0x98) ∧
    (m ≤ p → ∃ t, exec i s = .next t ∧ (t.fab.job r.e j).st = .aborted ∧ (t.fab.job r.e j).cause = 1 ∧ t.fab.colls = s.fab.colls) ∧
    (p < m → twice = true →
      ∃ t, exec i s = .next t ∧ (t.fab.job r.e j).st = .aborted ∧ (t.fab.job r.e j).cause = 8 ∧ t.fab.colls = s.fab.colls)

/-- Matrix commands queue; MPRG, MRES, MABT and MSHP. -/
def Obligations.MatrixRowsQueueReadAndShip : Prop :=
  Spec.MatrixCommandsQueue ∧ Spec.MatrixRowsReadResumeAndAbort ∧ Spec.ShippedCommandsAreChecked

/-- LAYR and LAYW write a pattern register; VQX and DCMPQ answer. -/
def Obligations.PatternAndCodebookRows : Prop :=
  Spec.PatternRowsWriteTheirPort ∧ Spec.CodebookAndExpansionQueries

/-- Fences wait, cinch rows send their request, COLL contributes. -/
def Obligations.OrderingRowsWaitSendAndContribute : Prop :=
  Spec.FencesWaitForTheirJobs ∧ Spec.CinchRowsSendTheirRequest ∧ Spec.CollectiveRowsContribute

/-! ## Tapes, containment -/

namespace Sys2Proof.Spec

/-- The row's region belongs to an active run. -/
def running (r : Row) : Prop := mget r.runId r.f.runs = some r.run ∧ r.copyNo < r.run.copies.length

/-- FB holds an unpoisoned n32 result. -/
def leaves (i : Instr) (s t : State) (v : Nat) : Prop :=
  let r := s.row i
  (t.fab.slot r.e r.c).fb = ⟨deliver (r.resTy .n32) (BitVec.ofNat 32 v), false, r.resTy .n32⟩

end Sys2Proof.Spec

/-- R312, R313: TAPEB answers 3 in a regeneration or a run that already recorded, 2 for a tape open or replayed, else allocates the tape in
the die buffer and starts recording with the rows after its own; TAPEE ends the recording with its own row, and answers 1 outside one. -/
def Sys2Proof.Spec.TapeRowsStartAndEndRecording : Prop :=
  (∀ (b : BitVec 6) (wr : Wires) (s : State),
    let i := Instr.tapeb b wr
    let r := s.row i
    let n := bits (pword r.block 0) 0 4 + r.copyNo
    let key := 16 * r.cp.die + n
    let old := (mget key s.fab.tapes).getD {}
    s.executes i →
    ((r.run.regen.isSome = true ∨ r.cp.rec_.isSome = true) → Spec.answers i s (fun _ => s.fab) 3) ∧
    (r.run.regen = none → r.cp.rec_ = none → (old.openRec = true ∨ old.replayed = true) → Spec.answers i s (fun _ => s.fab) 2) ∧
    (∀ a, r.run.regen = none → r.cp.rec_ = none → old.openRec = false → old.replayed = false → Spec.running r →
      let f : Fab := { s.fab with tapes := mdel key s.fab.tapes }
      let list := r.cp.elems.flatMap fun e => ((s.fab.slot e r.c).share.getD {}).recList (r.cp.index e)
      let len := unitsAt 2 (tapeH list.length (r.cp.cols * r.cp.rows) +
        32 * (bits (pword r.block 1) 0 16 + bits (pword r.block 1) 16 16 + bits (pword r.block 2) 0 16) + 160 * bits (pword r.block 2) 16 8)
      firstFit (f.storage (fieldNo r.cp.ox r.cp.oy) 2).1 (f.storage (fieldNo r.cp.ox r.cp.oy) 2).2 len = some a →
      ∃ t tape, exec i s = .next t ∧ Spec.leaves i s t 0 ∧ mget key t.fab.tapes = some tape ∧ tape.lvl = 2 ∧ tape.loc = a ∧
        tape.len = len ∧ tape.openRec = true ∧
        ((t.fab.run r.runId).copy r.copyNo).rec_ =
          some { key := key, since := r.g, start := (s.fab.rowOf r.e r.c).2 })) ∧
  (∀ (wr : Wires) (s : State),
    let i := Instr.tapee wr
    let r := s.row i
    r.planDefault = .go → s.fab.armP = false →
    ((r.tape = none ∨ r.run.regen.isSome = true) → Spec.answers i s (fun _ => s.fab) 1) ∧
    (∀ k, r.tape = some k → r.run.regen = none → Spec.running r →
      ∃ t, exec i s = .next t ∧ Spec.leaves i s t 0 ∧
        ((t.fab.run r.runId).copy r.copyNo).rec_ = some { k with stop := some r.g }))

/-- R295, R314: TAPEV.v0 delivers A unchanged, and in a recording adds A as a record of its element. -/
def Sys2Proof.Spec.RecordedValuesPassOn : Prop :=
  ∀ (b : BitVec 6) (wr : Wires) (s : State),
    let i := Instr.tapev b 0 wr
    let r := s.row i
    r.planDefault = .go → s.fab.armP = false →
    (r.tape = none → Spec.delivers i s r.a 0 r.sl.emr) ∧
    (∀ k, r.tape = some k → k.ovf = none →
      ∃ t due, exec i s = .next t ∧ t.agenda = s.agenda ∧ r.now < due ∧
        (t.fab.slot r.e r.c).recq = r.sl.recq ++ [⟨false, r.a.v, r.a.p, due, (s.fab.rowOf r.e r.c).2⟩] ∧
        (t.fab.slot r.e r.c).fb = ⟨contained r.a.ty r.a, r.a.p, r.a.ty⟩)

/-- R304, R308, R315: TAPER answers 2 in a run that replays; on a match it answers 0 and the region replays the tape; on a mismatch it
answers 1 and taints the run. -/
def Sys2Proof.Spec.ReplayStartsOnAMatchingTape : Prop :=
  ∀ (b : BitVec 6) (wr : Wires) (s : State),
    let i := Instr.taper b wr
    let r := s.row i
    let key := 16 * r.cp.die + bits (pword r.block 0) 0 4 + r.copyNo
    let from_ := s.fab.tapeSlot r.cp (Fin.ofNat 4 (bits (pword r.block 0) 4 2))
    s.executes i →
    (r.cp.replay.isSome = true → Spec.answers i s (fun _ => s.fab) 2) ∧
    (r.cp.replay = none → r.tapeMatches key from_ s.fab = true → Spec.running r →
      ∃ t p, exec i s = .next t ∧ Spec.leaves i s t 0 ∧ ((t.fab.run r.runId).copy r.copyNo).replay = some p ∧ p.key = some key ∧
        p.div = false ∧ p.release = (pword r.block 0).testBit 6) ∧
    (r.cp.replay = none → r.tapeMatches key from_ s.fab = false → Spec.running r →
      ∃ t p, exec i s = .next t ∧ Spec.leaves i s t 1 ∧ ((t.fab.run r.runId).copy r.copyNo).replay = some p ∧ p.key = none ∧
        p.div = true ∧ 2 ≤ (t.fab.run r.runId).verdict)

/-- R305, R316, R317: TAPEP pushes the element's next value into its TR lane and delivers the count left; TAPEC delivers its next decision;
outside a replay both give poison of cause DIVERGE and taint the run. -/
def Sys2Proof.Spec.ReplayRowsPopTheTape : Prop :=
  (∀ (b : BitVec 6) (wr : Wires) (s : State),
    let i := Instr.tapep b wr
    let r := s.row i
    let tp := r.sl.tp
    let ty := tyOf (bits (pword r.block 0) 0 5)
    let pushes (t : State) (v : W32) (p : Bool) :=
      (t.fab.lane r.e r.c 15).pipe = (r.sl.lane 15).pipe ++ [⟨r.now, r.now + 1, { v := v, p := p, ty := ty }⟩]
    s.executes i → (r.sl.lane 15).occ r.now < 2 → (15 : LaneNo) ∉ r.consumed →
    (r.cp.replay = none → Spec.running r →
      ∃ t, exec i s = .next t ∧ pushes t (poisonOf 7 r.e) true ∧ Spec.leaves i s t (tp.v.n + tp.r.n) ∧
        2 ≤ (t.fab.run r.runId).verdict) ∧
    (∀ q key, r.cp.replay = some q → q.key = some key → q.div = false → q.ready ≤ r.now → tp.r.n = 0 → tp.v.n ≠ 0 →
      s.fab.tpOvf key = false →
      ∃ t, exec i s = .next t ∧ pushes t (s.fab.popValue key tp.v).1 false ∧ Spec.leaves i s t (tp.v.n - 1) ∧
        (t.fab.slot r.e r.c).tp.v = (s.fab.popValue key tp.v).2)) ∧
  (∀ (wr : Wires) (s : State),
    let i := Instr.tapec wr
    let r := s.row i
    let ty := r.resTy .n32
    s.executes i →
    (r.cp.replay = none → Spec.running r →
      ∃ t, exec i s = .next t ∧ (t.fab.slot r.e r.c).fb = ⟨poisonOf 7 r.e, true, ty⟩ ∧ 2 ≤ (t.fab.run r.runId).verdict) ∧
    (∀ q key, r.cp.replay = some q → q.key = some key → q.div = false → q.ready ≤ r.now → r.sl.tp.b.n ≠ 0 →
      ∃ t, exec i s = .next t ∧ (t.fab.slot r.e r.c).tp.b = (s.fab.popBranch key r.sl.tp.b).2 ∧
        Spec.leaves i s t (if 128 ≤ r.sl.tp.b.run then 1 else 0)))

/-- R318, R319: TAPEQ delivers the counts of the current recording or replay, 0 with neither; TAPEK asks for a key of the frame and answers
0, 1 outside a recording or where the frame is none of its multiples, 2 where the key area is full. -/
def Sys2Proof.Spec.TapeQueriesAndKeys : Prop :=
  (∀ (u : BitVec 4) (wr : Wires) (s : State),
    let i := Instr.tapeq u wr
    let r := s.row i
    s.executes i →
    (r.cp.replay = none → r.cp.rec_ = none → Spec.answers i s (fun _ => s.fab) 0) ∧
    ((r.cp.replay.isSome = true ∨ r.cp.rec_.isSome = true) →
      (u = 0 → Spec.answers i s (fun _ => s.fab) (r.sl.tp.v.n + r.sl.tp.r.n)) ∧
      (u = 1 → Spec.answers i s (fun _ => s.fab) r.sl.tp.b.n) ∧ (u = 5 → Spec.answers i s (fun _ => s.fab) r.sl.tapeIdx) ∧
      (∀ q, u = 4 → r.cp.replay = some q → Spec.answers i s (fun _ => s.fab) q.regens))) ∧
  (∀ (b : BitVec 6) (wr : Wires) (s : State),
    let i := Instr.tapek b wr
    let r := s.row i
    let frame := (s.fab.rowOf r.e r.c).2
    let m := max (bits (pword r.block 1) 0 16) 1
    let pending := (r.cp.elems.map fun e => (s.fab.slot e r.c).keyq.length).foldl (· + ·) 0
    r.planDefault = .go → s.fab.armP = false →
    ((r.tape = none ∨ r.run.regen.isSome = true ∨ (frame + 1) % m ≠ 0) → ∃ t, exec i s = .next t ∧ Spec.leaves i s t 1) ∧
    (∀ k, r.tape = some k → r.run.regen = none → (frame + 1) % m = 0 →
      (s.fab.tpKeys k.key + pending < s.fab.tpKcap k.key → ∃ t, exec i s = .next t ∧ Spec.leaves i s t 0 ∧
        (t.fab.slot r.e r.c).keyq = r.sl.keyq ++ [{ tape := k.key, frame := frame, mask := BitVec.ofNat 32 (pword r.block 0)
                                                    incl := (pword r.block 1).testBit 16 }]) ∧
      (s.fab.tpKcap k.key ≤ s.fab.tpKeys k.key + pending → ∃ t, exec i s = .next t ∧ Spec.leaves i s t 2)))

/-- R356, R361, R370: SNAPQ delivers the cut's number, row, state or rollbacks, 0 without the snapshot flag; RTAG the run's request tag; POISN
a poison token of its cause; POISQ the payload of a poison A, else 0, and no poison; VERD the verdict, which it raises to at least V. -/
def Sys2Proof.Spec.ContainmentRowsDeliverTheirValue : Prop :=
  (∀ (u : BitVec 4) (wr : Wires) (s : State),
    let i := Instr.snapq u wr
    let r := s.row i
    s.executes i →
    (r.sh.flags.getLsbD 2 = false → Spec.answers i s (fun _ => s.fab) 0) ∧
    (r.sh.flags.getLsbD 2 = true →
      (∀ n g, r.cp.cutDone = some (n, g) →
        (u = 0 → Spec.answers i s (fun _ => s.fab) n.toNat) ∧ (u = 1 → Spec.answers i s (fun _ => s.fab) g)) ∧
      (r.cp.cutDone = none → u.toNat < 2 → Spec.answers i s (fun _ => s.fab) 0) ∧
      (u = 2 → Spec.answers i s (fun _ => s.fab) ((if r.cp.cutOpen.isSome then 1 else 0) +
        (if r.sl.snap.any fun h => h.st == 3 then 2 else 0) + (if r.cp.replayTo.isSome then 4 else 0) +
        (r.sl.lanes.toList.filter fun l => l.log.isSome).length % 16 * 256)) ∧
      (u = 3 → Spec.answers i s (fun _ => s.fab) (min r.run.rollbacks (2 ^ 32 - 1))))) ∧
  (∀ (wr : Wires) (s : State), let i := Instr.rtag wr
    s.executes i → Spec.answers i s (fun _ => s.fab) (s.row i).run.tag.toNat) ∧
  (∀ (u : BitVec 4) (wr : Wires) (s : State), let i := Instr.poisn u wr
    s.executes i → Spec.delivers i s ⟨BitVec.ofNat 32 (u.toNat * 2 ^ 24 + xOf (s.row i).e * 2 ^ 18 + yOf (s.row i).e * 2 ^ 13), true,
      (s.row i).resTy .n32⟩ 0 (s.row i).sl.emr) ∧
  (∀ (wr : Wires) (s : State), let i := Instr.poisq wr
    s.executes i → Spec.delivers i s ⟨if (s.row i).a.p then (s.row i).a.v else 0, false, (s.row i).resTy .n32⟩ 0 (s.row i).sl.emr) ∧
  (∀ (u : BitVec 4) (wr : Wires) (s : State),
    let i := Instr.verd u wr
    let r := s.row i
    s.executes i →
    Spec.answers i s (fun _ => s.fab.modRun r.runId fun x => { x with verdict := max x.verdict u.toNat }) r.run.verdict)

/-- R358, R361, R367, R368: MARK asks for a cut at the end of its tick; CMPV folds A into its element's signature, counts it and delivers A
unchanged. -/
def Sys2Proof.Spec.CutsAndSignaturesAreTaken : Prop :=
  (∀ (wr : Wires) (s : State),
    let i := Instr.mark wr
    let r := s.row i
    s.executes i → r.run.regen = none →
    ∃ t, exec i s = .next t ∧ t.agenda = s.agenda ∧
      ({ r with f := s.fab.modRun r.runId fun x => x.modCopy r.copyNo fun k => { k with mark := true } } : Row).Effect
        r.sl r.consumed Out.none t.fab) ∧
  (∀ (b : BitVec 6) (wr : Wires) (s : State),
    let i := Instr.cmpv b wr
    let r := s.row i
    let new := r.slotWith r.sl r.a 0 r.sl.emr
    s.executes i →
    ∃ t, exec i s = .next t ∧ t.agenda = s.agenda ∧
      r.Effect { new with sig := crcUpdate r.sl.sig (leBytes 4 r.a.v.toNat), sigN := r.sl.sigN + 1, sigP := r.sl.sigP || r.a.p }
        r.consumed (r.linksOut (Route.links wr.route) fun ty => linkToken ty r.a) t.fab)

/-- TAPEB, TAPEE, TAPEV, TAPEQ and TAPEK. -/
def Obligations.RecordingRowsOpenFillAndQueryTapes : Prop :=
  Spec.TapeRowsStartAndEndRecording ∧ Spec.RecordedValuesPassOn ∧ Spec.TapeQueriesAndKeys

/-- TAPER, TAPEP and TAPEC. -/
def Obligations.ReplayRowsMatchAndPopTapes : Prop :=
  Spec.ReplayStartsOnAMatchingTape ∧ Spec.ReplayRowsPopTheTape

/-- SNAPQ, RTAG, POISN, POISQ, VERD, MARK and CMPV. -/
def Obligations.ContainmentRowsAndCuts : Prop :=
  Spec.ContainmentRowsDeliverTheirValue ∧ Spec.CutsAndSignaturesAreTaken

/-! ## The task core -/

namespace Sys2Proof.Spec

/-- A register of Pommel; k0 reads as zero (R40). -/
def k (p : Pommel) (i : BitVec 5) : W64 := if i = 0 then 0 else p.k.get i.toFin

/-- Pommel after an instruction with a result in kd: a write of k0 is discarded; the result is there after the latency; the next word issues
a cycle later (R40, R94, R113). -/
def wrote (p : Pommel) (d : BitVec 5) (v : W64) (lat : Nat) : Pommel :=
  { p with
    k := if d = 0 then p.k else p.k.set d.toFin v
    ready := if d = 0 then p.ready else p.ready.set d.toFin (p.next + lat)
    pc := p.pc + 4, next := p.next + 1, first := false }

/-- Pommel after an instruction without a result. -/
def passed (p : Pommel) : Pommel := { p with pc := p.pc + 4, next := p.next + 1, first := false }

/-- Pommel after a jump of 3 c (R120). -/
def jumped (p : Pommel) (t : W64) : Pommel := { p with pc := t, next := p.next + 3, first := false }

/-- The next state is the state at hand but for Pommel, which becomes `p`, and what `f` changes. -/
def leads (i : Instr) (s : State) (f : Fab) (p : Pommel) : Prop := exec i s = .next { s with fab := { f with pom := p } }

/-- The instruction delivers v in kd after a latency; nothing else changes but what `f` changes. -/
def returns (i : Instr) (s : State) (d : BitVec 5) (v : W64) (lat : Nat) (f : Fab) : Prop := leads i s f (wrote f.pom d v lat)

/-- The results of the integer instructions on Pommel with their latency (R93, R94). -/
def taskResult : Instr → Option (BitVec 5 × Nat × (Pommel → W64))
  | .addTask d a b => some (d, 1, fun p => k p a + k p b)
  | .subTask d a b => some (d, 1, fun p => k p a - k p b)
  | .addiTask d a i => some (d, 1, fun p => k p a + i.signExtend 64)
  | .mulTask d a b => some (d, 4, fun p => k p a * k p b)
  | .mulhTask d a b => some (d, 4, fun p => BitVec.ofInt 64 ((k p a).toInt * (k p b).toInt / 2 ^ 64))
  | .mulhnTask d a b => some (d, 4, fun p => BitVec.ofNat 64 ((k p a).toNat * (k p b).toNat / 2 ^ 64))
  | .minTask d a b => some (d, 1, fun p => if (k p a).toInt ≤ (k p b).toInt then k p a else k p b)
  | .maxTask d a b => some (d, 1, fun p => if (k p a).toInt ≤ (k p b).toInt then k p b else k p a)
  | .minnTask d a b => some (d, 1, fun p => if (k p a).toNat ≤ (k p b).toNat then k p a else k p b)
  | .maxnTask d a b => some (d, 1, fun p => if (k p a).toNat ≤ (k p b).toNat then k p b else k p a)
  | .absTask d a => some (d, 1, fun p => if (k p a).toInt < 0 then -k p a else k p a)
  | .negTask d a => some (d, 1, fun p => -k p a)
  | .andTask d a b => some (d, 1, fun p => k p a &&& k p b)
  | .orTask d a b => some (d, 1, fun p => k p a ||| k p b)
  | .xorTask d a b => some (d, 1, fun p => k p a ^^^ k p b)
  | .andnTask d a b => some (d, 1, fun p => k p a &&& ~~~(k p b))
  | .notTask d a => some (d, 1, fun p => ~~~(k p a))
  | .shlTask d a b => some (d, 1, fun p => k p a <<< ((k p b).toNat % 64))
  | .shrTask d a b => some (d, 1, fun p => k p a >>> ((k p b).toNat % 64))
  | .shaTask d a b => some (d, 1, fun p => (k p a).sshiftRight ((k p b).toNat % 64))
  | .rotTask d a b => some (d, 1, fun p => (k p a).rotateRight ((k p b).toNat % 64))
  | .clzTask d a => some (d, 1, fun p => if k p a = 0 then 64 else BitVec.ofNat 64 (63 - (k p a).toNat.log2))
  | .popcTask d a => some (d, 1, fun p => BitVec.ofNat 64 ((List.range 64).countP fun n => (k p a).getLsbD n))
  | .selTask d a b => some (d, 1, fun p => if k p d ≠ 0 then k p a else k p b)
  | .cmpeqTask d a b => some (d, 1, fun p => if k p a = k p b then 1 else 0)
  | .cmpneTask d a b => some (d, 1, fun p => if k p a = k p b then 0 else 1)
  | .cmpltTask d a b => some (d, 1, fun p => if (k p a).toInt < (k p b).toInt then 1 else 0)
  | .cmpleTask d a b => some (d, 1, fun p => if (k p a).toInt ≤ (k p b).toInt then 1 else 0)
  | .cmpltnTask d a b => some (d, 1, fun p => if (k p a).toNat < (k p b).toNat then 1 else 0)
  | .cmplenTask d a b => some (d, 1, fun p => if (k p a).toNat ≤ (k p b).toNat then 1 else 0)
  | .moviTask d i => some (d, 1, fun _ => i.signExtend 64)
  | .movhiTask d i => some (d, 1, fun p => (k p d <<< 14) ||| i.zeroExtend 64)
  | .movTask d a => some (d, 1, fun p => k p a)
  | .sextTask d a b => some (d, 1, fun p =>
      (k p a <<< (63 - (k p b).toNat % 64)).sshiftRight (63 - (k p b).toNat % 64))
  | .bfxTask d a b => some (d, 1, fun p =>
      (k p a >>> ((k p b).toNat % 64)) &&& BitVec.ofNat 64 (2 ^ ((k p b).toNat / 64 % 64 + 1) - 1))
  | .bfiTask d a b => some (d, 1, fun p =>
      let lo := (k p b).toNat % 64
      let m : W64 := BitVec.ofNat 64 (2 ^ ((k p b).toNat / 64 % 64 + 1) - 1) <<< lo
      (k p d &&& ~~~m) ||| ((k p a <<< lo) &&& m))
  | .addsTask d a b => some (d, 1, fun p => BitVec.ofInt 64 (max (-2 ^ 63) (min (2 ^ 63 - 1) ((k p a).toInt + (k p b).toInt))))
  | .subsTask d a b => some (d, 1, fun p => BitVec.ofInt 64 (max (-2 ^ 63) (min (2 ^ 63 - 1) ((k p a).toInt - (k p b).toInt))))
  | _ => none

/-- Quotients and remainders (R93). -/
def quotient : Instr → Option (BitVec 5 × (Pommel → W64))
  | .div d a b => some (d, fun p => if k p b = 0 then -1 else BitVec.ofInt 64 ((k p a).toInt.tdiv (k p b).toInt))
  | .divn d a b => some (d, fun p => if k p b = 0 then -1 else BitVec.ofNat 64 ((k p a).toNat / (k p b).toNat))
  | .rem d a b => some (d, fun p => if k p b = 0 then k p a else BitVec.ofInt 64 ((k p a).toInt.tmod (k p b).toInt))
  | .remn d a b => some (d, fun p => if k p b = 0 then k p a else BitVec.ofNat 64 ((k p a).toNat % (k p b).toNat))
  | _ => none

/-- w0 of a trap message: source 1, the cause, channel and nesting of the task, the pc (R116). -/
def trapHead (p : Pommel) (cause : Nat) : W64 :=
  BitVec.ofNat 64 (2 ^ 56 + cause * 2 ^ 48 + p.chan * 2 ^ 40 + (if p.chan = 0 then 2 ^ 39 else 0) + p.pc.toNat % 2 ^ 32)

/-- A trap of this cause in these circumstances is a double fault (R119). -/
def doubleFaults (f : Fab) (cause : Nat) : Prop :=
  (f.pom.chan = 0 ∧ (f.pom.nested = true ∨ (f.pom.first = true ∧ cause = 5))) ∨ 16 ≤ (f.chan 0).q.length

/-- The trap of a cause: while an STIO of the task is outstanding the instruction is held; then the task ends without a register changed, and
channel 0 has the message; or, on a double fault, Pommel halts, DFREC holds the head, FAULT_N is low and the part's state is DOUBLEFAULT; task
SRAM, registers and channels stay (R115-R119). -/
def traps (i : Instr) (s : State) (cause : Nat) (word : Nat) (x : W64) (f : Fab := s.fab) : Prop :=
  let p := f.pom
  let m : Msg := ⟨trapHead p cause, BitVec.ofNat 64 word, x, BitVec.ofNat 64 p.next⟩
  (p.next < p.stio → leads i s f { p with next := p.stio }) ∧
  (p.stio ≤ p.next → ¬ doubleFaults f cause → leads i s { f with chans := f.chans.set 0 { f.chan 0 with q := (f.chan 0).q ++ [m] } }
    { p with running := false }) ∧
  (p.stio ≤ p.next → doubleFaults f cause → ∃ h : HostIf, exec i s = .next { s with fab := { f with host := h, pom := { p with halted := true, running := false } } } ∧
    h.dfrec = trapHead p cause ∧ h.fault = true ∧ h.partState = 3 ∧ h.log = f.host.log)

/-- The word of task SRAM at the pc. -/
def wordAt (f : Fab) : Nat := f.load (sramBase + f.pom.pc.toNat) 4

/-- The 32 bytes at an address lie in the user region (R116). -/
def user (a : W64) (n : Nat) : Prop := a.toNat + n ≤ 0x38000

/-- A 64-bit word of task SRAM. -/
def sramWord (f : Fab) (a : Nat) : W64 := BitVec.ofNat 64 (f.load (sramBase + a) 8)

/-- The fabric with a channel replaced. -/
def withChan (f : Fab) (c : Fin 64) (k : Chan) : Fab := { f with chans := f.chans.set c k }

end Sys2Proof.Spec

/-- R93, R94, R40: the integer instructions on Pommel write their result in kd, with latency 1 c, 4 c for a multiplication and 36 c for a
division, and go on at the next word; NOP only goes on; a write of k0 is discarded; nothing else changes. -/
def Sys2Proof.Spec.TaskIntegerInstructionsDeliverTheirResults : Prop :=
  ∀ (i : Instr) (s : State),
    (i = .nopTask → Spec.leads i s s.fab (Spec.passed s.fab.pom)) ∧
    (∀ d lat v, Spec.taskResult i = some (d, lat, v) → Spec.returns i s d (v s.fab.pom) lat s.fab) ∧
    (∀ d v, Spec.quotient i = some (d, v) →
      Spec.leads i s s.fab { Spec.wrote s.fab.pom d (v s.fab.pom) 36 with div := s.fab.pom.next + 36 })

/-- R40, R120: BR, BRZ, BRNZ and CALL go to pc + 4 × sext(off19) in 3 c, BRZ and BRNZ only where their condition holds; CALL leaves pc + 4 in
k31; RET goes to k31; a branch not taken goes on in 1 c; TEND ends the task. -/
def Sys2Proof.Spec.BranchesMoveThePc : Prop :=
  ∀ (s : State) (a : BitVec 5) (o : BitVec 19),
    let p := s.fab.pom
    let t := p.pc + 4 * o.signExtend 64
    Spec.leads (.br o) s s.fab (Spec.jumped p t) ∧
    (Spec.k p a = 0 → Spec.leads (.brz a o) s s.fab (Spec.jumped p t) ∧ Spec.leads (.brnz a o) s s.fab (Spec.passed p)) ∧
    (Spec.k p a ≠ 0 → Spec.leads (.brz a o) s s.fab (Spec.passed p) ∧ Spec.leads (.brnz a o) s s.fab (Spec.jumped p t)) ∧
    Spec.leads (.call o) s s.fab { Spec.jumped p t with k := p.k.set 31 (p.pc + 4), ready := p.ready.set 31 (p.next + 1) } ∧
    ((Spec.k p 31).toNat % 4 = 0 → Spec.leads .ret s s.fab (Spec.jumped p (Spec.k p 31))) ∧
    Spec.leads .tend s s.fab { p with running := false, next := p.next + 1 }

/-- R115-R120: TRAPS, an illegal word, a failed fetch, the watchdog and a RET to an address that is no multiple of 4 take their trap: no
effect of the instruction, the task ended, its message on channel 0, or a double fault that halts Pommel; none is taken while an STIO of the
task is outstanding. -/
def Sys2Proof.Spec.TrapsEndTheTaskWithAMessage : Prop :=
  ∀ (s : State), s.alive = true →
    (∀ n : BitVec 9, Spec.traps (.traps n) s 7 (Spec.wordAt s.fab) (n.zeroExtend 64)) ∧
    Spec.traps .illegalInstruction s 1 (Spec.wordAt s.fab) 0 ∧ Spec.traps .watchdog s 6 0 0 ∧
    Spec.traps .fetchFault s 5 0 s.fab.pom.pc ∧
    ((Spec.k s.fab.pom 31).toNat % 4 ≠ 0 → Spec.traps .ret s 5 0 (Spec.k s.fab.pom 31))

/-- R121, R122, R126: LDK and STK move 64 bits between kd and task SRAM; LDIO reads an I/O register and STIO's write is performed when the
latency of its block has elapsed, in order; an address that is no multiple of 8 raises MISALIGN, one outside the user region or the
register map BUSERR, an uncorrectable word ECC under LDK. -/
def Sys2Proof.Spec.TaskLoadsAndStoresReachTheirPlace : Prop :=
  ∀ (d a : BitVec 5) (o : BitVec 14) (s : State), s.alive = true →
    let f := s.fab
    let x := Spec.k f.pom a + o.signExtend 64
    let at_ := sramBase + x.toNat
    let io := f.ioRead x.toNat
    let lat := if x.toNat / 2 ^ 16 = 8 then 6 else 24
    (x.toNat % 8 ≠ 0 → ∀ i, i = .ldk d a o ∨ i = .stk d a o ∨ i = .ldio d a o ∨ i = .stio d a o →
      Spec.traps i s 2 (Spec.wordAt f) x) ∧
    (x.toNat % 8 = 0 → ¬ Spec.user x 8 → ∀ i, i = .ldk d a o ∨ i = .stk d a o → Spec.traps i s 3 (Spec.wordAt f) x) ∧
    (x.toNat % 8 = 0 → Spec.user x 8 →
      (f.tag at_ / 4 % 2 = 1 → Spec.traps (.ldk d a o) s 4 (Spec.wordAt f) x) ∧
      (f.tag at_ < 4 → Spec.returns (.ldk d a o) s d (Spec.sramWord f x.toNat) 3 f) ∧
      (∃ t, exec (.stk d a o) s = .next t ∧ t.agenda = s.agenda ∧ Spec.sramWord t.fab x.toNat = Spec.k f.pom d ∧
        (∀ y, y < at_ ∨ at_ + 8 ≤ y → memGet t.fab.mem y = memGet f.mem y) ∧ t.fab.tag at_ = 0 ∧
        (∀ y, y / 8 ≠ at_ / 8 → t.fab.tag y = f.tag y) ∧
        t.fab = { f with mem := t.fab.mem, tags := t.fab.tags, pom := Spec.passed f.pom })) ∧
    (x.toNat % 8 = 0 → (2 ^ 24 ≤ x.toNat ∨ io = none) → ∀ i, i = .ldio d a o ∨ i = .stio d a o → Spec.traps i s 3 (Spec.wordAt f) x) ∧
    (∀ v, x.toNat % 8 = 0 → x.toNat < 2 ^ 24 → io = some v →
      Spec.returns (.ldio d a o) s d v lat f ∧
      Spec.leads (.stio d a o) s
        { f with evq := f.evq ++ [⟨(f.pom.next + lat) / 3, 0, .io (BitVec.ofNat 24 x.toNat) (Spec.k f.pom d)⟩] }
        { Spec.passed f.pom with stio := f.pom.next + lat })

/-- R109, R116, R123: SEND queues 32 bytes, their single-bit errors fixed, with the sender's channel in w0, RECV takes a polled channel's head into task SRAM; both check the
buffer. -/
def Sys2Proof.Spec.MessagesAreSentAndTaken : Prop :=
  ∀ (d a : BitVec 5) (c : BitVec 6) (s : State), s.alive = true →
    let f := s.fab
    let x := Spec.k f.pom a
    let q := f.chan c.toNat
    let w (n : Nat) := Spec.sramWord f (x.toNat + 8 * n)
    let depth := if c = 0 then 16 else 8
    let g := f.fixSrams x.toNat 4
    (x.toNat % 8 ≠ 0 → ∀ i, i = .send d a c ∨ i = .recv d a c → Spec.traps i s 2 (Spec.wordAt f) x) ∧
    (x.toNat % 8 = 0 → ¬ Spec.user x 32 → ∀ i, i = .send d a c ∨ i = .recv d a c → Spec.traps i s 3 (Spec.wordAt f) x) ∧
    (x.toNat % 8 = 0 → Spec.user x 32 →
      (depth ≤ q.q.length → Spec.returns (.send d a c) s d 1 4 g) ∧
      (q.q.length < depth → Spec.returns (.send d a c) s d 0 4 (Spec.withChan g c.toFin
        { q with q := q.q ++ [⟨BitVec.ofNat 64 ((w 0).toNat % 2 ^ 48 + f.pom.chan % 2 ^ 16 * 2 ^ 48), w 1, w 2, w 3⟩] })) ∧
      (q.bind ≠ .polled → Spec.returns (.recv d a c) s d 2 4 f) ∧
      (q.bind = .polled → q.q = [] → Spec.returns (.recv d a c) s d 0 4 f) ∧
      (∀ m ms, q.bind = .polled → q.q = m :: ms →
        ∃ t, exec (.recv d a c) s = .next t ∧ t.agenda = s.agenda ∧
          (Spec.sramWord t.fab x.toNat = m.w0 ∧ Spec.sramWord t.fab (x.toNat + 8) = m.w1 ∧
            Spec.sramWord t.fab (x.toNat + 16) = m.w2 ∧ Spec.sramWord t.fab (x.toNat + 24) = m.w3) ∧
          (∀ y, y < sramBase + x.toNat ∨ sramBase + x.toNat + 32 ≤ y → memGet t.fab.mem y = memGet f.mem y) ∧
          (∀ y, t.fab.tag y = if sramBase + x.toNat ≤ y ∧ y < sramBase + x.toNat + 32 then 0 else f.tag y) ∧
          t.fab = { Spec.withChan f c.toFin { q with q := ms } with mem := t.fab.mem, tags := t.fab.tags, pom := Spec.wrote f.pom d 1 4 }))

/-- R111, R122-R124: TBIND binds or frees a channel, refusing as its status says; CHPRI sets a priority and delivers the old one; TIMEQ
delivers a partition's tick counter and arms or disarms a slot; SYSX delivers what its number names, or is ILLEGAL. -/
def Obligations.ChannelsTimersAndQueriesAnswer : Prop :=
  ∀ (d a b : BitVec 5) (s : State), s.alive = true →
    let f := s.fab
    let x := Spec.k f.pom a
    let y := Spec.k f.pom b
    (∀ c : BitVec 6,
      let q := f.chan c.toNat
      let bindable := c ≠ 1 ∧ c ≠ 2 ∧ c ≠ 7
      let pri (v : W64) := if c = 0 then 0 else max 1 (v.toNat % 16)
      let i := Instr.tbind d a b c
      (32 ≤ y.toNat → Spec.returns i s d 3 4 f) ∧
      (y.toNat < 32 → ¬ bindable → Spec.returns i s d 2 4 f) ∧
      (y.toNat < 16 → bindable → Spec.returns i s d 0 4 (Spec.withChan f c.toFin { q with bind := .polled })) ∧
      (16 ≤ y.toNat → y.toNat < 32 → bindable →
        ((x.toNat % 4 ≠ 0 ∨ ¬ Spec.user x 4) → Spec.returns i s d 1 4 f) ∧
        (x.toNat % 4 = 0 → Spec.user x 4 →
          Spec.returns i s d 0 4 (Spec.withChan f c.toFin { q with bind := .task (x.setWidth 32), pri := pri y }))) ∧
      Spec.returns (.chpri d a c) s d (BitVec.ofNat 64 q.pri) 4 (Spec.withChan f c.toFin { q with pri := pri x })) ∧
    (let i := Instr.timeq d a b
     let part := x.toNat / 2 ^ 12 % 8
     let slot : Fin 16 := Fin.ofNat 16 (x.toNat / 2 ^ 8 % 16)
     let armed (t : Option Timer) : Fab := { f with pom := { f.pom with timers := f.pom.timers.set slot t } }
     let now := BitVec.ofNat 64 (f.ctr part)
     (f.pmode ≤ part → Spec.returns i s d 0 4 f) ∧
     (part < f.pmode →
       ((slot = 15 ∨ (x.getLsbD 16 = false ∧ x.getLsbD 17 = false)) → Spec.returns i s d now 4 f) ∧
       (slot ≠ 15 → x.getLsbD 17 = true → Spec.returns i s d now 4 (armed none)) ∧
       (slot ≠ 15 → x.getLsbD 17 = false → x.getLsbD 16 = true →
         Spec.returns i s d now 4 (armed (some ⟨part, x.toNat % 64, y.toNat⟩))))) ∧
    (∀ n : BitVec 9,
      let i := Instr.sysx d a n
      let c : Fin 64 := Fin.ofNat 64 x.toNat
      let q := f.chan (x.toNat % 64)
      let p := f.pom
      (n = 0 → Spec.returns i s d (BitVec.ofNat 64 p.next) 2 f) ∧
      (n = 1 → Spec.returns i s d (BitVec.ofNat 64 (p.chan + 2 ^ 8 * (f.chan p.chan).pri)) 2 f) ∧
      (n = 2 → q.q.length < 16 → Spec.returns i s d (BitVec.ofNat 64 ((if q.bind = .polled then 0 else 1) +
        (if c = 1 ∨ c = 2 ∨ c = 7 then 2 else 0) + 2 ^ 8 * q.pri + 2 ^ 16 * q.q.length + 2 ^ 24 * q.lost)) 2 f) ∧
      (n = 3 → Spec.returns i s d (BitVec.ofNat 64 q.lost) 2 (Spec.withChan f c { q with lost := 0 })) ∧
      (n = 4 → (q.bind = .polled → Spec.returns i s d 0xFFFFFFFF 2 f) ∧
        (∀ e, q.bind = .task e → Spec.returns i s d (e.zeroExtend 64) 2 f)) ∧
      (n = 5 → Spec.returns i s d (BitVec.ofNat 64 p.corrected) 2 f) ∧
      (n = 6 → Spec.returns i s d (BitVec.ofNat 64 (24000 - (p.next - p.start))) 2 f) ∧
      (7 ≤ n.toNat → Spec.traps i s 1 (Spec.wordAt f) 0))

/-- The integer instructions of Pommel; branches, CALL, RET and TEND. -/
def Obligations.TaskIntegersAndBranches : Prop :=
  Spec.TaskIntegerInstructionsDeliverTheirResults ∧ Spec.BranchesMoveThePc

/-- Traps send their message or halt Pommel; LDK, STK, LDIO and STIO reach their place. -/
def Obligations.TaskMemoryAccessesAndTraps : Prop :=
  Spec.TrapsEndTheTaskWithAMessage ∧ Spec.TaskLoadsAndStoresReachTheirPlace

/-! ## The task core at level G -/

namespace Sys2Proof.Spec

/-- The result of an atomic on Pommel from the old word, v = kb and kd (R231). -/
def taskAtomic (i : Instr) (p : Pommel) (old : Nat) : Option (BitVec 5 × BitVec 5 × Nat) :=
  let o : W64 := BitVec.ofNat 64 old
  match i with
  | .aaddTask d a b => some (d, a, (o + k p b).toNat)
  | .aminTask d a b => some (d, a, (if (k p b).toInt < o.toInt then k p b else o).toNat)
  | .amaxTask d a b => some (d, a, (if (k p b).toInt < o.toInt then o else k p b).toNat)
  | .aandTask d a b => some (d, a, (o &&& k p b).toNat)
  | .aorTask d a b => some (d, a, (o ||| k p b).toNat)
  | .axchTask d a b => some (d, a, (k p b).toNat)
  | .acasTask d a b => some (d, a, (if o = k p d then k p b else o).toNat)
  | _ => none

/-- Only the translation units' entries differ. -/
def onlyTlb (f g : Fab) : Prop := g = { f with tlb := g.tlb }

/-- Memory and tags of the next state beside those of `g`: bytes stored at a place, the tag of its word set; the rest as `g` has it, with Pommel
as `p`. -/
def storesAt (i : Instr) (s : State) (g : Fab) (loc : Nat) (bytes : List Byte) (tag : Nat) (p : Pommel) : Prop :=
  ∃ t, exec i s = .next t ∧ t.agenda = s.agenda ∧ stored g t.fab loc bytes tag ∧
    t.fab = { g with mem := t.fab.mem, tags := t.fab.tags, pom := p }

/-- Two results, in the registers of an even pair (R193). -/
def wrote2 (p : Pommel) (d : BitVec 4) (v w : W64) (lat : Nat) : Pommel :=
  let q := wrote p (d ++ 0#1) v lat
  { q with k := q.k.set (d ++ 1#1).toFin w, ready := q.ready.set (d ++ 1#1).toFin (p.next + lat) }

end Sys2Proof.Spec

/-- R193, R221, R231, R232, R233: Pommel's loads deliver the word of their address, GLDS with its acquire bit where F is 1, GSTF stores where
F is 0, GST goes into the store buffer, an atomic stores its new value and delivers the old one; poison raises ECC under a load; FENCE,
RELS and ACQS issue with the buffer empty and go on. -/
def Sys2Proof.Spec.TaskGlobalAccessesReachTheirWord : Prop :=
  ∀ (d a : BitVec 5) (d2 : BitVec 4) (o : BitVec 14) (s : State) (at_ : Nat) (g : Fab), s.alive = true → s.fab.migs = [] →
    let f := s.fab
    let p := f.pom
    let x := Spec.k p a + o.signExtend 64
    let tag := f.tag at_
    let w := BitVec.ofNat 64 (f.load at_ 8)
    (x.toNat % 8 = 0 → f.sysTranslate .read x.toNat = (.ok at_, g) → tag < 4 →
      (tag / 2 = 0 → Spec.returns (.gldTask d a o) s d w 108 g) ∧
      (tag / 2 = 1 → Spec.traps (.gldTask d a o) s 4 (Spec.wordAt f) x g)) ∧
    (x.toNat % 8 = 0 → f.sysTranslate .write x.toNat = (.ok at_, g) → tag < 8 →
      Spec.leads (.gstTask d a o) s
        { g with evq := if p.sbuf = [] then f.evq ++ [⟨f.clock + 1, 0, .instr .pommelStoreDrain⟩] else f.evq }
        { Spec.passed p with sbuf := p.sbuf ++ [(x, at_, Spec.k p d)] }) ∧
    (x.toNat % 8 = 0 → d2 ≠ 0 → f.sysTranslate .acq x.toNat = (.ok at_, g) → tag < 4 →
      (tag = 0 → Spec.leads (.gldsTask d2 a o) s g (Spec.wrote2 p d2 w 1 108)) ∧
      (tag % 2 = 1 → Spec.leads (.gldsTask d2 a o) s g (Spec.wrote2 p d2 0 0 108)) ∧
      (tag = 2 → Spec.traps (.gldsTask d2 a o) s 4 (Spec.wordAt f) x g)) ∧
    (x.toNat % 8 = 0 → d2 ≠ 0 → f.sysTranslate .sync x.toNat = (.ok at_, g) → tag < 4 →
      (tag % 2 = 0 → Spec.leads (.gstfTask d2 a o) s g (Spec.wrote p (d2 ++ 1#1) 0 108)) ∧
      (tag % 2 = 1 → at_ % 8 = 0 → Spec.storesAt (.gstfTask d2 a o) s g at_ (leBytes 8 (Spec.k p (d2 ++ 0#1)).toNat) (tag - 1)
        (Spec.wrote p (d2 ++ 1#1) 1 108))) ∧
    (∀ i n b, Spec.taskAtomic i p (f.load at_ 8) = some (d, b, n) → (Spec.k p b).toNat % 8 = 0 →
      f.sysTranslate .sync (Spec.k p b).toNat = (.ok at_, g) → at_ % 8 = 0 → tag < 4 →
      (tag / 2 = 0 → Spec.storesAt i s g at_ (leBytes 8 n) tag (Spec.wrote p d w 120)) ∧
      (tag / 2 = 1 → Spec.traps i s 4 (Spec.wordAt f) (Spec.k p b) g)) ∧
    (∀ b : BitVec 5, (Spec.k p a).toNat % 4 = 0 → f.sysTranslate .sync (Spec.k p a).toNat = (.ok at_, g) → at_ % 4 = 0 → tag < 2 →
      let v := Fmt.fp32.round .rne false 0
        (Machine.Num.add false (Fmt.fp32.value (f.load at_ 4)) (Fmt.fp32.value ((Spec.k p b).toNat % 2 ^ 32))).1
      Spec.storesAt (.afaddTask d a b) s g at_ (leBytes 4 v.1) tag (Spec.wrote p d (BitVec.ofNat 64 (f.load at_ 4)) 120)) ∧
    (∀ n, Spec.leads (.fenceTask n) s f { Spec.passed p with next := p.next + 2 }) ∧
    Spec.leads .relsTask s f (Spec.passed p) ∧ Spec.leads .acqsTask s f (Spec.passed p)

/-- R116, R193, R231: an access of Pommel at G whose address is no multiple of its word raises MISALIGN; one that does not translate raises
BUSERR with the address. -/
def Sys2Proof.Spec.TaskGlobalFaultsTrap : Prop :=
  ∀ (d a b : BitVec 5) (d2 : BitVec 4) (o : BitVec 14) (s : State), s.alive = true →
    let f := s.fab
    let x := Spec.k f.pom a + o.signExtend 64
    let y := Spec.k f.pom a
    (∀ i v n kind, ((i = .gldTask d a o ∧ v = x ∧ n = 8 ∧ kind = .read) ∨ (i = .gstTask d a o ∧ v = x ∧ n = 8 ∧ kind = .write) ∨
        (i = .gldsTask d2 a o ∧ v = x ∧ n = 8 ∧ kind = .acq) ∨ (i = .gstfTask d2 a o ∧ v = x ∧ n = 8 ∧ kind = .sync) ∨
        ((i = .aaddTask d a b ∨ i = .aminTask d a b ∨ i = .amaxTask d a b ∨ i = .aandTask d a b ∨ i = .aorTask d a b ∨
          i = .axchTask d a b ∨ i = .acasTask d a b) ∧ v = y ∧ n = 8 ∧ kind = .sync) ∨
        (i = .afaddTask d a b ∧ v = y ∧ n = 4 ∧ kind = GKind.sync)) →
      (v.toNat % n ≠ 0 → Spec.traps i s 2 (Spec.wordAt f) v) ∧
      (∀ c g, v.toNat % n = 0 → f.sysTranslate kind v.toNat = (.error c, g) → Spec.traps i s 3 (Spec.wordAt f) v g))

/-- R193, R221: the store buffer's oldest store is performed at the place that it was translated to, one a tick, until the buffer is empty. -/
def Sys2Proof.Spec.StoreBufferDrainsInOrder : Prop :=
  ∀ (s : State) (va v : W64) (q : List (W64 × Nat × W64)) (at_ : Nat),
    s.fab.pom.sbuf = (va, at_, v) :: q → s.fab.migs = [] →
    ∃ t, exec .pommelStoreDrain s = .next t ∧ t.agenda = s.agenda ∧
      (∀ y, memGet t.fab.mem y = if at_ ≤ y ∧ y < at_ + 8 then (leBytes 8 v.toNat).getD (y - at_) 0 else memGet s.fab.mem y) ∧
      t.fab = { s.fab with
        pom := { s.fab.pom with sbuf := q }, mem := t.fab.mem
        evq := if q = [] then s.fab.evq else s.fab.evq ++ [⟨s.fab.clock + 1, 0, .instr .pommelStoreDrain⟩] }

/-- R125, R213, R379: XFER, MIRR, HASHB and SIGV of Pommel check their descriptor buffer, and answer 0 with the job queued, 1 where four jobs
wait, 2 for an invalid descriptor; a job to the partner needs feature 0, for which the model's choice of answer is 2 (log 14). -/
def Sys2Proof.Spec.TaskJobsAreQueued : Prop :=
  ∀ (d a : BitVec 5) (s : State), s.alive = true →
    let f := s.fab
    let p := f.pom
    let x := Spec.k p a
    let w (n : Nat) := Spec.sramWord f (x.toNat + 8 * n)
    let field (off n : Nat) := f.load (sramBase + x.toNat + off) n
    let g := f.fixSrams x.toNat 4
    (∀ i, i = .xferTask d a ∨ i = .mirrTask d a ∨ i = .hashb d a ∨ i = .sigv d a ∨ i = .pagem d a →
      (x.toNat % 8 ≠ 0 → Spec.traps i s 2 (Spec.wordAt f) x) ∧
      (x.toNat % 8 = 0 → ¬ Spec.user x 32 → Spec.traps i s 3 (Spec.wordAt f) x)) ∧
    (x.toNat % 8 = 0 → Spec.user x 32 → ∀ mirr : Bool,
      let i := if mirr then Instr.mirrTask d a else .xferTask d a
      let j : PJob := { mirr := mirr, words := [w 0, w 1, w 2, w 3], ch := field 20 1, tag := BitVec.ofNat 16 (field 22 2), arr := f.clock }
      let out := mirr = true ∨ j.remote = true
      let ok := j.ok = true ∧ (out → (f.host.features.getD 0).getLsbD 0 = true)
      (¬ ok → Spec.returns i s d 2 4 g) ∧
      (ok → 4 ≤ p.jobs.length → Spec.returns i s d 1 4 g) ∧
      (ok → p.jobs.length < 4 → out → ∃ t res, exec i s = .next t ∧ t.agenda = s.agenda ∧
        mget f.seq t.fab.pom.jobs = some { j with res := res } ∧ (∀ n, n ≠ f.seq → mget n t.fab.pom.jobs = mget n p.jobs) ∧
        t.fab.pom.k = (Spec.wrote p d 0 4).k ∧
        ((p.jobs = [] ∨ f.beryl.up = false) →
          (⟨f.clock + if f.beryl.up then 32 + (j.len + 63) / 64 else 1, 0, .instr (.pommelJobCompletion f.seq)⟩ : Ev) ∈ t.fab.evq)) ∧
      (ok → p.jobs.length < 4 → ¬ out → (w 1).getLsbD 63 = true →
        ∃ t, exec i s = .next t ∧ t.agenda = s.agenda ∧ mget f.seq t.fab.pom.jobs = some j ∧
          (∀ n, n ≠ f.seq → mget n t.fab.pom.jobs = mget n p.jobs) ∧ t.fab.pom.k = (Spec.wrote p d 0 4).k ∧
          t.fab.mem = f.mem ∧ (p.jobs = [] →
            (⟨f.clock + 32 + (j.len + 63) / 64, 0, .instr (.pommelJobCompletion f.seq)⟩ : Ev) ∈ t.fab.evq))) ∧
    (x.toNat % 8 = 0 → Spec.user x 32 → ∀ sigv : Bool,
      let i := if sigv then Instr.sigv d a else .hashb d a
      let ptr (v n : Nat) : Prop := v % 8 = 0 ∧ v < 0x38000 ∧ v + n ≤ 0x38000
      let job : CJob := ⟨sigv, w 0, field 8 8, field 16 4, field 24 4, field 20 1, BitVec.ofNat 16 (field 22 2)⟩
      let valid := job.len ≤ 2 ^ 40 ∧ job.ch < 64 ∧ field 21 1 = 0 ∧ field 28 4 = 0 ∧
        ((w 0).getLsbD 63 = true ∨ ptr (w 0).toNat job.len) ∧
        (if sigv then ptr job.dst 32 ∧ ptr job.sig 64 else ptr job.dst 64 ∧ job.sig = 0)
      (¬ valid → Spec.returns i s d 2 4 g) ∧
      (valid → 4 ≤ p.crypto.length → Spec.returns i s d 1 4 g) ∧
      (valid → p.crypto.length < 4 →
        let c := 200 + 64 * ((job.len + 17 + 127) / 128) + (if sigv then 72000 else 0)
        Spec.leads i s { g with evq := if p.crypto = [] then f.evq ++ [⟨f.clock + (c + 2) / 3, 0, .instr (.cryptoCompletion 0)⟩] else f.evq }
          { Spec.wrote g.pom d 0 4 with crypto := p.crypto ++ [job] }))

/-- R215-R217: PAGEM answers 2 without feature 5 or for an invalid descriptor, 1 with eight operations in progress, 3 for a page that may not
migrate, changing nothing; a migration marks its leaf and sweeps; an invalidation drops the entries of its range. A completed operation
sends its message, once no access under the old entry is left. -/
def Obligations.PageOperationsStartSweepAndEnd : Prop :=
  (∀ (d a : BitVec 5) (s : State), s.alive = true →
    let f := s.fab
    let x := Spec.k f.pom a
    let w (n : Nat) := (Spec.sramWord f (x.toNat + 8 * n)).toNat
    let root := if w 2 % 256 = 255 then none else some (w 2 % 256)
    let i := Instr.pagem d a
    let g := f.fixSrams x.toNat 4
    x.toNat % 8 = 0 → Spec.user x 32 →
    (f.pagemOk w = false → Spec.returns i s d 2 4 g) ∧
    (f.pagemOk w = true → 8 ≤ f.migs.length → Spec.returns i s d 1 4 g) ∧
    (f.pagemOk w = true → f.migs.length < 8 →
      (w 2 / 2 ^ 8 % 256 = 0 →
        (∀ c, f.walkRoot root (w 0) = .error c → Spec.returns i s d 3 4 g) ∧
        (∀ leaf size pte, f.walkRoot root (w 0) = .ok (leaf, size, pte) →
          ((w 0 % 2 ^ size ≠ 0 ∨ leaf.getLsbD 3 = true ∨ leaf.getLsbD 4 = true ∨ leaf.getLsbD 6 = true ∨
              (w 1 < leafPA leaf + 2 ^ size ∧ leafPA leaf < w 1 + 2 ^ size)) → Spec.returns i s d 3 4 g) ∧
          (w 0 % 2 ^ size = 0 → leaf.getLsbD 3 = false → leaf.getLsbD 4 = false → leaf.getLsbD 6 = false →
            (w 1 + 2 ^ size ≤ leafPA leaf ∨ leafPA leaf + 2 ^ size ≤ w 1) → w 1 % 2 ^ size = 0 → w 1 + 2 ^ size ≤ f.cap →
            ∃ t m, exec i s = .next t ∧ t.fab.pom = Spec.wrote g.pom d 0 4 ∧ mget f.seq t.fab.migs = some m ∧ m.inval = false ∧
              m.old = leafPA leaf ∧ m.new = w 1 ∧ m.va = w 0 ∧ m.size = size ∧ m.next = 0 ∧
              t.fab.pte pte = BitVec.ofNat 64 ((f.pte pte).toNat + 64) ∧
              (⟨f.clock + 1, 0, .instr (.migrationSweep f.seq)⟩ : Ev) ∈ t.fab.evq))) ∧
      (w 2 / 2 ^ 8 % 256 = 1 →
        ∃ t, exec i s = .next t ∧ t.fab.pom = Spec.wrote g.pom d 0 4 ∧
          (∀ u y, y ∈ (mget u t.fab.tlb).getD [] ↔ y ∈ (mget u f.tlb).getD [] ∧
            ¬ (y.root = root ∧ y.va < w 0 + w 1 ∧ w 0 < y.va + 2 ^ y.size)) ∧
          (⟨f.clock + 4, 0, .instr (.pagemCompletion f.seq)⟩ : Ev) ∈ t.fab.evq))) ∧
  (∀ (n : Nat) (m : Mig) (s : State), mget n s.fab.migs = some m → m.inval = false →
    (64 * (m.next + 1) ≤ 2 ^ m.size → (m.new + 2 ^ m.size ≤ m.old ∨ m.old + 2 ^ m.size ≤ m.new) → m.old % 64 = 0 → m.new % 64 = 0 →
      ∃ t, exec (.migrationSweep n) s = .next t ∧
        (∀ y, memGet t.fab.mem y =
          if m.new + 64 * m.next ≤ y ∧ y < m.new + 64 * (m.next + 1) then memGet s.fab.mem (y - m.new + m.old) else memGet s.fab.mem y) ∧
        (∀ y, t.fab.tag y =
          if m.new + 64 * m.next ≤ y ∧ y < m.new + 64 * (m.next + 1) then s.fab.tag (y - m.new + m.old) else s.fab.tag y) ∧
        (⟨s.fab.clock + 1, 0, .instr (if 64 * (m.next + 1) < 2 ^ m.size then .migrationSweep n else .migrationSwitch n)⟩ : Ev) ∈ t.fab.evq) ∧
    (let x := (s.fab.pte m.pte).toNat
     x.testBit 6 = true →
      ∃ t, exec (.migrationSwitch n) s = .next t ∧
        t.fab.pte m.pte = BitVec.ofNat 64 (x % 2 ^ 16 - 64 + m.new) ∧
        (∀ u y, y ∈ (mget u t.fab.tlb).getD [] → ¬ (y.root = m.root ∧ y.va < m.va + 2 ^ m.size ∧ m.va < y.va + 2 ^ y.size)) ∧
        mget n t.fab.migs = some { m with switched := true } ∧ (⟨s.fab.clock, 0, .instr (.pagemCompletion n)⟩ : Ev) ∈ t.fab.evq) ∧
    (s.fab.pendingAt m.old (2 ^ m.size) = true → exec (.pagemCompletion n) s = .next { s with
      fab := { s.fab with evq := s.fab.evq ++ [⟨s.fab.clock + 1, 0, .instr (.pagemCompletion n)⟩] } }) ∧
    (s.fab.pendingAt m.old (2 ^ m.size) = false → s.alive = true → (s.fab.chan m.ch).q.length < chanDepth m.ch →
      ∃ t, exec (.pagemCompletion n) s = .next t ∧ mget n t.fab.migs = none ∧
        (t.fab.chan m.ch).q = (s.fab.chan m.ch).q ++
          [{ w0 := BitVec.ofNat 64 (6 * 2 ^ 56 + 3 * 2 ^ 48 + m.tag.toNat * 2 ^ 32), w1 := BitVec.ofNat 64 (2 ^ m.size) }]))

/-- R125, R213: a completed hash stands in task SRAM, a completed transfer has moved its words; each sends its message on its channel. -/
def Sys2Proof.Spec.TaskJobsCompleteWithAMessage : Prop :=
  (∀ (s : State) (j : CJob) (js : List CJob), s.fab.pom.crypto = j :: js → j.sigv = false → j.src.getLsbD 63 = false →
    s.alive = true → (s.fab.chan j.ch).q.length < chanDepth j.ch → j.dst % 8 = 0 →
    (∀ y, y < j.len → s.fab.tag (sramBase + j.src.toNat + y) < 2) →
    ∃ t, exec (.cryptoCompletion 0) s = .next t ∧ t.fab.pom.crypto = js ∧
      t.fab.bytes (sramBase + j.dst) 64 = sha512 (s.fab.bytes (sramBase + j.src.toNat) j.len) ∧
      (t.fab.chan j.ch).q = (s.fab.chan j.ch).q ++
        [{ w0 := BitVec.ofNat 64 (4 * 2 ^ 56 + 2 ^ 48 + j.tag.toNat * 2 ^ 32), w1 := BitVec.ofNat 64 j.len }]) ∧
  (∀ (n : Nat) (s : State) (j : PJob) (w : W64), s.fab.pom.jobs = [(n, j)] → j.mirr = false → j.remote = false → j.res = none → j.len = 8 →
    s.alive = true → (s.fab.chan j.ch).q.length < chanDepth j.ch → (j.w 0).testBit 63 = true → (j.w 1).testBit 63 = true →
    w = Spec.sramWord s.fab (j.w 0 % 2 ^ 48) → s.fab.tag (sramBase + j.w 0 % 2 ^ 48) < 4 →
    ∃ t, exec (.pommelJobCompletion n) s = .next t ∧ t.fab.pom.jobs = [] ∧ Spec.sramWord t.fab (j.w 1 % 2 ^ 48) = w ∧
      (t.fab.chan j.ch).q = (s.fab.chan j.ch).q ++
        [{ w0 := BitVec.ofNat 64 (6 * 2 ^ 56 + 2 ^ 48 + j.tag.toNat * 2 ^ 32), w1 := 1 }])

/-- Accesses of Pommel at G: words, faults, the store buffer. -/
def Obligations.TaskGlobalAccesses : Prop :=
  Spec.TaskGlobalAccessesReachTheirWord ∧ Spec.TaskGlobalFaultsTrap ∧ Spec.StoreBufferDrainsInOrder

/-- XFER, MIRR, HASHB and SIGV of Pommel are queued and complete. -/
def Obligations.TaskJobsAreQueuedAndComplete : Prop :=
  Spec.TaskJobsAreQueued ∧ Spec.TaskJobsCompleteWithAMessage

/-! ## Sequencing instructions, dispatch, timers, monitors, time -/

namespace Sys2Proof.Spec

/-- The sequencing instructions: opcode, kd, ka, kb, latency, whether the result comes back from the sequencer (R343, R353, R366, R370). -/
def sequencing : Instr → Option (Nat × BitVec 5 × BitVec 5 × BitVec 5 × Nat × Bool)
  | .lnch d a b => some (0xE0, d, a, b, 4, false)
  | .lnchi d a b => some (0xE1, d, a, b, 4, false)
  | .tblsw d a => some (0xE2, d, a, 0, 4, false)
  | .ctxld d a b => some (0xE3, d, a, b, 4, false)
  | .ctxsw d a b => some (0xE4, d, a, b, 24, true)
  | .drnq d a b => some (0xE5, d, a, b, 24, true)
  | .ovrq d a => some (0xE6, d, a, 0, 24, true)
  | .fbsel d a b => some (0xE7, d, a, b, 4, false)
  | .teard d a b => some (0xE8, d, a, b, 4, false)
  | .partm d a b => some (0xE9, d, a, b, 4, false)
  | .doff d a b => some (0xEA, d, a, b, 4, false)
  | .spare d a b => some (0xEB, d, a, b, 4, false)
  | .verdTask d a b => some (0xD9, d, a, b, 24, true)
  | .purge d a => some (0xDA, d, a, 0, 4, false)
  | .keepc d a => some (0xDB, d, a, 0, 4, false)
  | _ => none

/-- The entry that a reference names: [8:0] entry, [11:9] mode, [14:12] partition (R342). -/
def entryOf (f : Fab) (ka : Nat) : Option Entry := f.entry (ka / 2 ^ 12 % 8) (ka / 2 ^ 9 % 8) (ka % 512)

/-- What a launch checks (R343, R344): its reference and count, its tag, busy, the active table, a triggered entry. -/
def launchStatus (byVa : Bool) (f : Fab) (ka kb : Nat) (st : Nat) : Prop :=
  let p := ka / 2 ^ 12 % 8
  let m := ka / 2 ^ 9 % 8
  let e := ka % 512
  let count (x : Entry) : Prop := if byVa then kb % 8 = 0 ∧ kb < 2 ^ 48 ∧ (kb ≠ 0 ∨ ∃ t, f.table p m = some t ∧ x.cnt < t.cnts.length) else kb < 2 ^ 32
  let valid := ka < 2 ^ 32 ∧ ∃ x, entryOf f ka = some x ∧ count x ∧ f.launchTag p m e (BitVec.ofNat 16 (ka / 2 ^ 16)) ≠ 0
  (¬ valid ∧ st = 2) ∨ (valid ∧ f.entryBusy p m e = true ∧ st = 1) ∨
  (valid ∧ f.entryBusy p m e = false ∧ ((f.part p).active ≠ some m ∨ ∃ x, entryOf f ka = some x ∧ x.trig = false) ∧ st = 3) ∨
  (valid ∧ f.entryBusy p m e = false ∧ (f.part p).active = some m ∧ (∃ x, entryOf f ka = some x ∧ x.trig = true) ∧ st = 0)

/-- The statuses that a sequencing instruction returns, from the operands and the part (R339-R341, R343, R353, R366). -/
def status (i : Instr) (f : Fab) (ka kb st : Nat) : Prop :=
  let entry := (entryOf f ka).isSome = true ∧ ka < 2 ^ 15
  match i with
  | .lnch .. => launchStatus false f ka kb st
  | .lnchi .. => launchStatus true f ka kb st
  | .tblsw .. =>
    let p := ka % 8
    let m := ka / 2 ^ 8 % 8
    let valid := ka < 2 ^ 11 ∧ ka / 8 % 32 = 0 ∧ kb = 0 ∧ p < f.pmode ∧ (f.part p).active ≠ none
    (¬ valid ∧ st = 2) ∨ (valid ∧ f.table p m = none ∧ st = 1) ∨ (valid ∧ f.table p m ≠ none ∧ st = 0)
  | .ctxld .. =>
    let valid := entry ∧ kb < 2 ^ 14 ∧ kb / 8 % 32 = 0
    (¬ valid ∧ st = 2) ∨ (valid ∧ (∃ x, entryOf f ka = some x ∧ mget x.block f.images = none) ∧ st = 3)
  | .fbsel .. => ¬ (entry ∧ kb < 2 ^ 18) ∧ st = 2
  | .teard .. =>
    (¬ (entry ∧ kb < 2) ∧ st = 2) ∨ (entry ∧ kb < 2 ∧ f.activeRun ka = none ∧ st = 1) ∨ (entry ∧ kb < 2 ∧ f.activeRun ka ≠ none ∧ st = 0)
  | .partm .. =>
    let valid := (ka = 1 ∨ ((ka = 2 ∨ ka = 3 ∨ ka = 6) ∧ (f.host.features.getD 0).getLsbD 7 = true)) ∧ kb < 64
    (¬ valid ∧ st = 2) ∨ (valid ∧ f.fieldIdle = false ∧ st = 1) ∨ (valid ∧ f.fieldIdle = true ∧ st = 0)
  | .doff .. =>
    let valid := ka % 8 < 6 ∧ ka / 8 % 32 = 0 ∧ ka < 2 ^ 9 ∧ kb < 64 ∧ mget (ka % 8) f.dies ≠ some 2 ∧
      (f.host.features.getD 0).getLsbD 9 = true
    (¬ valid ∧ st = 2) ∨ (valid ∧ f.opBusy = true ∧ st = 1) ∨ (valid ∧ f.opBusy = false ∧ st = 0)
  | .spare .. =>
    let valid := ka % 64 < 60 ∧ ka / 64 % 4 = 0 ∧ ka < 2 ^ 13 ∧ kb < 64
    let used := (mget (dieOf (fieldNo (ka % 64) (ka / 2 ^ 8 % 32))) f.spares).isSome
    (¬ valid ∧ st = 2) ∨ (valid ∧ f.opBusy = true ∧ st = 3) ∨ (valid ∧ f.opBusy = false ∧ used = true ∧ st = 1) ∨
      (valid ∧ f.opBusy = false ∧ used = false ∧ st = 0)
  | .purge .. => (ka = 0 ∨ 2 ^ 16 ≤ ka) ∧ st = 2 ^ 63
  | .keepc .. =>
    let k := ka / 2 ^ 8 % 32
    let w := ka / 2 ^ 16 % 64
    let valid := ka < 2 ^ 22 ∧ ka % 8 < 6 ∧ ka / 8 % 32 = 0 ∧ ka / 2 ^ 13 % 8 = 0 ∧ (k = 0 ∨ (10 ≤ k ∧ k ≤ 30)) ∧ k + 5 ≤ w ∧ w ≤ 40
    (¬ valid ∧ st = 2) ∨ (valid ∧ (f.host.features.getD 0).getLsbD 3 = false ∧ st = 3) ∨
      (valid ∧ (f.host.features.getD 0).getLsbD 3 = true ∧ st = 0)
  | _ => False

/-- The statuses with which an instruction is carried out (R341, R343). -/
def carriedOut (i : Instr) (st : Nat) : Prop := st = 0 ∨ (st = 1 ∧ ∃ d a b, i = .spare d a b)

/-- The instruction performed at the sequencer leads to a state that keeps Pommel's registers. -/
def performs (i : Instr) (s t : State) : Prop := exec i s = .next t ∧ t.fab.pom.perf = none ∧ t.fab.pom.k = s.fab.pom.k

/-- A query performed: its result goes to kd where that still waits for it (R342). -/
def answersQuery (i : Instr) (s : State) (d : BitVec 5) (done v : Nat) (f : Fab) : Prop :=
  leads i s f { f.pom with
    perf := none
    k := if d ≠ 0 ∧ f.pom.ready.get d.toFin = done then f.pom.k.set d.toFin (BitVec.ofNat 64 v) else f.pom.k }

end Sys2Proof.Spec

/-- R342, R343: a sequencing instruction answers its status after its latency, and goes to the sequencer, where it is performed 4 t later,
with the status on which it is carried out; a query goes there always. -/
def Obligations.SequencingInstructionsIssue : Prop :=
  ∀ (i : Instr) (s : State) (opc : Nat) (d a b : BitVec 5) (lat : Nat) (query : Bool),
    Spec.sequencing i = some (opc, d, a, b, lat, query) → s.fab.pom.perf = none →
    (∀ x ∈ s.fab.evq, ∀ w u v n, x.w ≠ .seq w u v n) →
    let f := s.fab
    let ka := Spec.k f.pom a
    let kb := Spec.k f.pom b
    let ph := if opc = 0xE7 then 2 else 0
    let sent : Fab := { f with evq := f.evq ++
      [⟨f.clock + 4, ph, .seq (BitVec.ofNat 8 opc ++ d ++ a ++ b ++ 0#9) ka kb (f.pom.next + lat)⟩] }
    (query = true → Spec.returns i s d 0 lat sent) ∧
    (∀ st, query = false → Spec.status i f ka.toNat kb.toNat st →
      (Spec.carriedOut i st → Spec.returns i s d (BitVec.ofNat 64 st) lat sent) ∧
      (¬ Spec.carriedOut i st → Spec.returns i s d (BitVec.ofNat 64 st) lat f))

/-- R335, R344-R346, R353, R366: performed at the sequencer, LNCH and LNCHI start an instance 12 t and the entry's offset later, or arm the entry; TBLSW asks for a
switch; FBSEL keeps a fallback; TEARD tears the run down; PURGE ends the tag's instances; KEEPC sets a die's keepers. -/
def Sys2Proof.Spec.SequencingInstructionsActOnRuns : Prop :=
  ∀ (s : State) (d a b : BitVec 5) (ka kb : W64) (done : Nat), s.fab.pom.perf = some (ka, kb, done) →
    let f := s.fab
    let r := ka.toNat
    let p := r / 2 ^ 12 % 8
    let m := r / 2 ^ 9 % 8
    let e := r % 512
    (∀ byVa x, let i := if byVa then Instr.lnchi d a b else .lnch d a b
      Spec.status i f r kb.toNat 0 → Spec.entryOf f r = some x →
      (ka.getLsbD 15 = true → ∃ t, Spec.performs i s t ∧ t.fab.insts = f.insts ∧
        (t.fab.ent p m e).armed = some (kb, BitVec.ofNat 16 (r / 2 ^ 16), byVa)) ∧
      (ka.getLsbD 15 = false → ∃ t j, Spec.performs i s t ∧ mget f.seq t.fab.insts = some j ∧ j.part = p ∧ j.mode = m ∧ j.entry = e ∧
        j.start = f.ctr p + 12 + x.start ∧ j.dl = j.start + x.dline ∧
        (x.tagSrc = 1 → j.tag = BitVec.ofNat 16 (r / 2 ^ 16)) ∧
        (byVa = false → x.indirect = false → j.n = (if kb = 0 then x.frames else kb.toNat) ∧ j.cnt = .known false) ∧
        (byVa = true → kb ≠ 0 → j.cnt = .take kb.toNat))) ∧
    (Spec.status (.tblsw d a) f r kb.toNat 0 → ∃ t, Spec.performs (.tblsw d a) s t ∧
      (t.fab.part (r % 8)).pend =
        (if (f.part (r % 8)).active = some (r / 2 ^ 8 % 8) then none else some (r / 2 ^ 8 % 8))) ∧
    (∀ x t, Spec.entryOf f r = some x → r < 2 ^ 15 → kb.toNat < 2 ^ 18 → f.table p m = some t →
      let fb := (kb.toNat % 256, kb.toNat / 256 % 256, (Fin.ofNat 4 (kb.toNat / 2 ^ 16) : Fin 4))
      let new := f.tableWithFallbacks p m t e fb
      f.tableCheck p new new.badFallback none = none →
      ∃ u, Spec.performs (.fbsel d a b) s u ∧ (u.fab.ent p m e).fb = some fb) ∧
    (∀ n x, Spec.status (.teard d a b) f r kb.toNat 0 → f.activeRun r = some (n, x) → mget n f.runs = some x → mget n f.insts = none →
      ∃ t, Spec.performs (.teard d a b) s t ∧ (t.fab.run n).torn = .teard) ∧
    (r ≠ 0 → r < 2 ^ 16 → (∀ n j, (n, j) ∈ f.insts → mget n f.runs = none) → ∃ t, Spec.performs (.purge d a) s t ∧
      ∀ n j, (n, j) ∈ f.insts → f.instTag j = BitVec.ofNat 16 r → mget n t.fab.insts = none) ∧
    (Spec.status (.keepc d a) f r kb.toNat 0 → ∃ t, Spec.performs (.keepc d a) s t ∧
      ∀ row, row < 16 → mget (16 * (r % 8) + row) t.fab.keepers =
        (if r / 2 ^ 8 % 32 = 0 then none else some { k := r / 2 ^ 8 % 32, w := r / 2 ^ 16 % 64, col := 0 }))

/-- R338-R341, R345-R349, R370: performed at the sequencer, CTXLD loads the slots of a placement; CTXSW exchanges two slots of it or answers why not; DRNQ, OVRQ and VERD answer;
PARTM discards what the field holds and zeroes memory; DOFF makes its die drain-only; SPARE gives an element's place to the hot spare of its
die, or marks it failed. -/
def Sys2Proof.Spec.SequencingInstructionsActOnTheField : Prop :=
  ∀ (s : State) (d a b : BitVec 5) (ka kb : W64) (done : Nat), s.fab.pom.perf = some (ka, kb, done) →
    let f := s.fab
    let r := ka.toNat
    let entry := (Spec.entryOf f r).isSome = true ∧ r < 2 ^ 15
    (∀ x t, Spec.entryOf f r = some x → r < 2 ^ 15 → kb.toNat < 2 ^ 14 → kb.toNat / 8 % 32 = 0 → (mget x.block f.images).isSome = true →
      f.table (r / 2 ^ 12 % 8) (r / 2 ^ 9 % 8) = some t →
      let l : Fin 4 := if kb.getLsbD 2 then Fin.ofNat 4 kb.toNat else x.slot
      let cells := f.cells t { img := x.block, place := x.place, slot := l }
      let ready (c : Cell) : Prop :=
        (f.slot c.elem ((f.elem c.elem).smap.get l)).st ≠ .running ∧ (f.slot c.elem ((f.elem c.elem).smap.get l)).st ≠ .loading ∧
        f.engaged c.elem ((f.elem c.elem).smap.get l) = false ∧ f.usable c.elem = true ∧ f.ownerClash c.elem ((f.elem c.elem).smap.get l) c.sh = false
      (∀ c ∈ cells, ready c) → cells ≠ [] → (cells.map (·.elem)).Nodup →
      ∃ u, Spec.performs (.ctxld d a b) s u ∧ ∀ c ∈ cells,
        (u.fab.slot c.elem ((f.elem c.elem).smap.get l)).st = .loading ∧
        (⟨f.clock + 40 + (c.sh.bytes + 31) / 32, 0, .instr (.ctxldDone f.seq)⟩ : Ev) ∈ u.fab.evq) ∧
    (∀ o n : Fin 4, entry → kb.toNat = o.val + n.val * 2 ^ 8 →
      let dr := f.drainOf (f.slotCells r o)
      let ready := o ≠ n ∧ ∀ c ∈ f.slotCells r n, (f.slot c.1 c.2).st = .resident
      let i := Instr.ctxsw d a b
      let word (st : Nat) := st + dr.tokens * 2 ^ 16 + dr.locator * 2 ^ 32
      (¬ ready → Spec.answersQuery i s d done (word 4) f) ∧
      (ready → dr.retired = false ∨ dr.queues = false → Spec.answersQuery i s d done (word 1) f) ∧
      (ready → dr.retired = true → dr.queues = true → dr.held = [] → (((f.slotCells r o).map (·.1)).Nodup →
        ∃ t, exec i s = .next t ∧ ∀ c ∈ f.slotCells r o,
          (t.fab.elem c.1).smap.get o = (f.elem c.1).smap.get n ∧ (t.fab.elem c.1).smap.get n = (f.elem c.1).smap.get o))) ∧
    (∀ l : Fin 4, entry → kb.toNat = l.val →
      let dr := f.drainOf (f.slotCells r l)
      Spec.answersQuery (.drnq d a b) s d done
        ((if dr.retired = true ∧ dr.held = [] ∧ dr.queues = true ∧ dr.replay = false then 1 else 0) + (if dr.retired then 2 else 0) +
          (if dr.held = [] then 4 else 0) + (if dr.queues then 8 else 0) + dr.tokens * 2 ^ 16 + dr.locator * 2 ^ 32) f) ∧
    (entry → kb = 0 → (∀ n x, (n, x) ∈ f.runs → ¬ (x.part = r / 2 ^ 12 % 8 ∧ x.mode = r / 2 ^ 9 % 8 ∧ x.entry = r % 512)) →
      (∀ n x, (n, x) ∈ f.insts → ¬ (x.part = r / 2 ^ 12 % 8 ∧ x.mode = r / 2 ^ 9 % 8 ∧ x.entry = r % 512)) →
      let y := f.ent (r / 2 ^ 12 % 8) (r / 2 ^ 9 % 8) (r % 512)
      Spec.answersQuery (.ovrq d a) s d done
        (y.last % 256 * 2 ^ 32 + (if y.lastOver then 2 ^ 41 else 0) + min y.overs 65535 * 2 ^ 48) f ∧
      Spec.answersQuery (.verdTask d a b) s d done (y.last + 256) f) ∧
    (Spec.status (.partm d a b) f r kb.toNat 0 → ∃ t, Spec.performs (.partm d a b) s t ∧ t.fab.tables = [] ∧ t.fab.images = [] ∧
      t.fab.tapes = [] ∧ t.fab.cinches = [] ∧ t.fab.tlb = [] ∧ (∀ e c, (t.fab.slot e c).st = .empty) ∧ t.fab.pmode = f.pmode ∧
      t.fab.mem = f.mem ∧ (⟨f.clock + f.zeroTicks, 0, .instr (.partmDone f.seq)⟩ : Ev) ∈ t.fab.evq) ∧
    (Spec.status (.doff d a b) f r kb.toNat 0 → r < 8 → ∃ t, Spec.performs (.doff d a b) s t ∧ mget r t.fab.dies = some 1 ∧
      (∀ n, n ≠ r → mget n t.fab.dies = mget n f.dies) ∧ t.fab.runs = f.runs ∧
      (⟨f.clock + 1, 0, .instr (.doffDone f.seq)⟩ : Ev) ∈ t.fab.evq) ∧
    (let e := fieldNo (r % 64) (r / 2 ^ 8 % 32)
     (Spec.status (.spare d a b) f r kb.toNat 0 → ∃ t, Spec.performs (.spare d a b) s t ∧ mget (dieOf e) t.fab.spares = some e ∧
       (⟨f.clock + 3400, 0, .instr (.spareDone f.seq)⟩ : Ev) ∈ t.fab.evq) ∧
     (Spec.status (.spare d a b) f r kb.toNat 1 → (f.elem e).slots.toList.all (fun x => x.run.isNone) = true →
       ∃ t, Spec.performs (.spare d a b) s t ∧ (t.fab.elem e).failed = true))

/-- R111, R113: the dispatcher takes the head of a bound channel of the least priority number that has one, in a level the next in
round-robin order; a task starts with the message in k1 to k4 and the channel in k5 after 8 c, Bridle's channels are handled at once. -/
def Obligations.DispatchTakesTheHighestPriority : Prop :=
  ∀ (s : State) (c : Fin 64) (m : Msg) (ms : List Msg),
    let f := s.fab
    let q := f.chan c.val
    let waits (d : Nat) : Prop := d < 64 ∧ (f.chan d).bind ≠ .polled ∧ (f.chan d).q ≠ []
    let last := f.pom.rr.toList.getD q.pri 63
    let same (d : Nat) : Prop := waits d ∧ (f.chan d).pri = q.pri
    q.q = m :: ms → q.bind ≠ .polled → q.pri < 16 → (∀ d, waits d → q.pri ≤ (f.chan d).pri) →
    ((last < c.val ∧ ∀ d, same d → last < d → c.val ≤ d) ∨ ((∀ d, same d → d ≤ last) ∧ ∀ d, same d → c.val ≤ d)) →
    let taken := Spec.withChan f c { q with q := ms }
    let p : Pommel := { f.pom with rr := f.pom.rr.set (Fin.ofNat 16 q.pri) c.val, next := f.pom.next + 8 }
    (∀ e, q.bind = .task e → ∃ t, exec .taskDispatch s = .next t ∧ t.agenda = s.agenda ∧ t.fab = { taken with pom := t.fab.pom } ∧
      t.fab.pom = { p with
        k := t.fab.pom.k, ready := t.fab.pom.ready, pc := e.zeroExtend 64, running := true, chan := c.val, first := true
        start := f.pom.next + 8, nested := c.val == 0 && m.w0.toNat / 2 ^ 56 == 1 && m.w0.getLsbD 39 } ∧
      Spec.k t.fab.pom 1 = m.w0 ∧ Spec.k t.fab.pom 2 = m.w1 ∧ Spec.k t.fab.pom 3 = m.w2 ∧ Spec.k t.fab.pom 4 = m.w3 ∧
      Spec.k t.fab.pom 5 = BitVec.ofNat 64 c.val ∧ (∀ n : BitVec 5, 6 ≤ n.toNat → Spec.k t.fab.pom n = 0) ∧
      ∀ n : Fin 32, t.fab.pom.ready.get n = 0) ∧
    (q.bind = .bridle →
      (c = 1 → exec .taskDispatch s = .next { fab := { taken with pom := p }, agenda := .command :: s.agenda }) ∧
      (c = 2 ∨ c = 7 → exec .taskDispatch s = .next { s with fab := { taken with pom := p } }) ∧
      (c ≠ 1 → c ≠ 2 → c ≠ 7 →
        exec .taskDispatch s = .next { s with fab := { taken with pom := p, host := { f.host with log := f.host.log ++ [m] } } }))

/-- R110, R112, R124: a compare slot that fires is disarmed and its message stands on its channel; a full channel loses it and counts the
loss. -/
def Sys2Proof.Spec.TimersFireOnce : Prop :=
  ∀ (slot : BitVec 4) (s : State) (t : Timer), s.alive = true → s.fab.pom.timers.get slot.toFin = some t → t.ch < 64 →
    let f := s.fab
    let c : Fin 64 := Fin.ofNat 64 t.ch
    let q := f.chan t.ch
    let depth := if t.ch = 0 then 16 else 8
    let off : Fab := { f with pom := { f.pom with timers := f.pom.timers.set slot.toFin none } }
    let m : Msg :=
      { w0 := BitVec.ofNat 64 (2 * 2 ^ 56 + 2 ^ 48 + slot.toNat * 2 ^ 40 + t.part * 2 ^ 32), w1 := BitVec.ofNat 64 t.tick
        w2 := BitVec.ofNat 64 (f.ctr t.part) }
    (q.q.length < depth → exec (.timerCompare slot) s = .next { s with fab := Spec.withChan off c { q with q := q.q ++ [m] } }) ∧
    (depth ≤ q.q.length → exec (.timerCompare slot) s = .next { s with fab := Spec.withChan off c { q with lost := min 255 (q.lost + 1) } })

/-- R127-R129: a sample stands in the block's registers; a reading at the threshold raises ALRT with one message, one at the trip threshold
TRIP, level 7 on a fabric die, and its message; LVL stays while TRIP is 1; ALERTST clears what is written as 1; a changed level applies. -/
def Sys2Proof.Spec.MonitorsAlertTripAndThrottle : Prop :=
  ∀ (n : BitVec 4) (v : W64) (s : State), n.toNat < 10 →
    let f := s.fab
    let b := f.block n.toNat
    let at_ : Fin 10 := Fin.ofNat 10 n.toNat
    let is (i : Instr) (k : Block) : Prop := exec i s = .next { s with fab := { f with blocks := f.blocks.set at_ k } }
    let (nt, nv, np) := sensorCounts n.toNat
    (∀ xs : List W32, xs.length = nt + nv + np → s.alive = true → (f.chan 5).q.length < 7 →
      let temps := (xs.take nt).map fun x => x.extractLsb' 0 16
      let hot (thr : Int) : Bool := temps.any fun t => decide (thr ≤ t.toInt)
      let alert := b.alertcfg.getLsbD 31 && !b.alrt && hot (b.alertcfg.extractLsb' 0 16).toInt
      let trip := hot b.tripcfg.toInt
      ∃ t, exec (.monitorSample n xs) s = .next t ∧ t.agenda = s.agenda ∧
        (t.fab.block n.toNat).temp = (xs.take nt).map (fun x => 0x80000000 ||| (x &&& 0xFFFF)) ∧
        (t.fab.block n.toNat).volt = ((xs.drop nt).take nv).map (fun x => 0x80000000 ||| (x &&& 0xFFFF)) ∧
        (t.fab.block n.toNat).proc = (xs.drop (nt + nv)).map (fun x => 0x80000000 ||| (x &&& 0xFFFFFF)) ∧
        (t.fab.block n.toNat).alrt = (b.alrt || alert) ∧ (t.fab.block n.toNat).trip = (b.trip || trip) ∧
        (t.fab.block n.toNat).lvl = (if trip = true ∧ n.toNat < 6 then 7 else b.lvl) ∧
        (t.fab.chan 5).q.length = (f.chan 5).q.length + (if alert then 1 else 0) + (if trip then 1 else 0)) ∧
    is (.thrlvlWrite n v) (if b.trip then b else { b with lvl := v.toNat % 8 }) ∧
    is (.alertstWrite n v) { b with alrt := b.alrt && !v.getLsbD 0, trip := b.trip && !v.getLsbD 1 } ∧
    is (.registerWrite (BitVec.ofNat 24 (n.toNat * 2 ^ 16 + 0x418)) v) { b with alertcfg := v.extractLsb' 0 32 &&& 0x8000FFFF } ∧
    is (.registerWrite (BitVec.ofNat 24 (n.toNat * 2 ^ 16 + 0x420)) v) { b with tripcfg := v.extractLsb' 0 16 }

/-- R28, R320, R321, R377: a fabric clock adds 2^32 and the rate word to the accumulator of every partition, and its carry to the counter; a servo
adjusts the rate within the limit, 0 where the partition runs free; the synchronisation stands in the partition. -/
def Sys2Proof.Spec.TickCountersAdvance : Prop :=
  ∀ (s : State),
    (s.fab.runs = [] → s.fab.insts = [] → s.fab.tables = [] → s.fab.elems = [] →
      ∃ t, exec .tickCounterAdvance s = .next t ∧ t.agenda = s.agenda ∧ t.fab.clock = s.fab.clock + 1 ∧ t.fab.mem = s.fab.mem ∧
        ∀ p q, mget p s.fab.parts = some q →
          let acc := ((q.frac : Int) + 2 ^ 32 + q.rate).toNat
          ∃ x, mget p t.fab.parts = some x ∧ x.ctr = (q.ctr + acc / 2 ^ 32) % 2 ^ 64 ∧ x.frac = acc % 2 ^ 32 ∧ x.rate = q.rate) ∧
    (∀ (p : Nat) (q : Part), mget p s.fab.parts = some q →
      (∀ rate : W32, exec (.ptpServoAdjust p rate) s = .next { s with fab := { s.fab with parts := mput p { q with
        rate := if q.disciplined then max (-(min q.alim 858993 : Nat) : Int) (min (min q.alim 858993 : Nat) rate.toInt) else 0 } s.fab.parts } }) ∧
      (∀ y : Bool, exec (.ptpSynchronisation p y) s = .next { s with fab := { s.fab with parts := mput p { q with sync := y } s.fab.parts } }))

/-- SEND and RECV move messages; a compare slot fires once. -/
def Obligations.MessagesAndTimers : Prop :=
  Spec.MessagesAreSentAndTaken ∧ Spec.TimersFireOnce

/-- Sequencing instructions act on runs and on the field. -/
def Obligations.SequencingInstructionsAct : Prop :=
  Spec.SequencingInstructionsActOnRuns ∧ Spec.SequencingInstructionsActOnTheField

/-- Monitors alert, trip and throttle; tick counters advance. -/
def Obligations.MonitorsAndTickCounters : Prop :=
  Spec.MonitorsAlertTripAndThrottle ∧ Spec.TickCountersAdvance

/-! ## Commands of the host -/

namespace Sys2Proof.Spec

/-- A response record with tag, status and result (R131). -/
def response (c : Cmd) (status : Nat) (result : List Byte) : List Byte :=
  leBytes 2 c.tag.toNat ++ [BitVec.ofNat 8 status, 0] ++ result.take 28 ++ List.replicate (28 - result.length) 0

/-- The command answers, on a part that is otherwise `f`. -/
def replies (i : Instr) (s : State) (c : Cmd) (f : Fab) (status : Nat) (result : List Byte) : Prop :=
  exec i s = .next { s with fab := { f with host := { f.host with resp := response c status result, msix := f.host.msix ++ [0] } } }

/-- A command does not answer yet. -/
def silent (s t : State) : Prop := t.fab.host.resp = s.fab.host.resp ∧ t.fab.host.msix = s.fab.host.msix

/-- A number of a command's inline arguments, by its offset in the record (R131). -/
def arg (c : Cmd) (off n : Nat) : Nat := ofLE ((c.inl.drop (off - 16)).take n)

/-- The commands that need READY (R133). -/
noncomputable def needsReady (c : Cmd) : List Instr :=
  [.featnegRead c, .featnegWrite c, .loadimg c, .loadtbl c, .startMode c, .startEntry c, .modesw c, .qrec c, .purgeCmd c, .mircfg c,
   .timecfg c, .partmode c, .dieoff c, .attest c, .throttle c, .keyinst c, .sysmapMap c, .sysmapUnmap c]

/-- A feature is accepted (R134). -/
def feature (f : Fab) (k : Nat) : Prop := (f.host.features.getD 0).getLsbD k = true

/-- The bytes of a command's payload. -/
def payload (f : Fab) (c : Cmd) : List Byte := memBytes f.mem (hostBase + c.addr.toNat) c.len.toNat

/-- The record of an accepted image or table: cause 0, no ring, no element (R52). -/
def acceptedRecord : List Byte := [0, 0, 0xFF, 0xFF] ++ List.replicate 12 0

end Sys2Proof.Spec

/-- R131-R133: before READY every command but IDENT and STATUS answers NOTREADY and changes nothing; in READY an unknown code answers BADCODE;
STATUS answers the state, the event-log count and the self-tests; IDENT answers capacity, version, record hash and key. -/
def Sys2Proof.Spec.CommandsAnswerByTheirState : Prop :=
  ∀ (c : Cmd) (s : State),
    (∀ i ∈ Spec.needsReady c, s.fab.host.partState ≠ 1 → Spec.replies i s c s.fab 1 []) ∧
    (∀ code, Spec.replies (.unknownCommandCode code c) s c s.fab (if s.fab.host.partState = 1 then 6 else 1) []) ∧
    (let h := s.fab.host
     let code (o : SelfTest) : Nat := match o with
       | .good => 0
       | .replaced e => 2 ^ 15 + e % 2 ^ 15
       | .failed => 2 ^ 16 - 1
     Spec.replies (.status c) s c s.fab 0 (leBytes 4 h.partState ++ leBytes 4 h.log.length ++ h.selfTest.flatMap fun o => leBytes 2 (code o))) ∧
    (let id := leBytes 8 ((if s.fab.big then 192 else 96) * 2 ^ 30) ++ leBytes 4 Config.bridleVersion.toNat ++
       leBytes 64 Config.partRecordHash.toNat ++ leBytes 32 Config.identityKey.toNat
     Spec.replies (.ident c) s c (s.fab.store (hostBase + c.addr.toNat) id) 0 id)

/-- R134, R135: FEATNEG reads the offered or the accepted vector and writes it once, before any image, as a subset of what is offered; KEYINST installs
a key record with a valid signature once, before any load; else BADARG or AUTH with nothing changed. -/
def Sys2Proof.Spec.FeaturesAndKeysAreSetOnce : Prop :=
  ∀ (c : Cmd) (s : State), s.fab.host.partState = 1 →
    let f := s.fab
    let h := f.host
    let v := BitVec.ofNat 128 (Spec.arg c 24 16)
    let bs := Spec.payload f c
    let early := h.keys = none ∧ h.imgLoaded = false ∧ h.tblLoaded = false
    let form := bs.length = 160 ∧ ofLE (bs.take 4) = 0x5359454B ∧ ofLE ((bs.drop 4).take 2) = 1 ∧ ofLE ((bs.drop 6).take 2) = 0 ∧
      ∀ x ∈ (bs.drop 80).take 16, x = 0
    let ok := edVerify (leBytes 32 Config.productKey.toNat) (sha512 (bs.take 96)) ((bs.drop 96).take 64) = 0
    Spec.replies (.featnegRead c) s c f 0 (leBytes 16 (h.features.getD 0x7FF).toNat) ∧
    (h.features = none → h.imgLoaded = false → v &&& ~~~0x7FF = 0 →
      Spec.replies (.featnegWrite c) s c { f with host := { h with features := some v } } 0 (leBytes 16 v.toNat)) ∧
    (h.features.isSome = true ∨ h.imgLoaded = true ∨ v &&& ~~~0x7FF ≠ 0 → Spec.replies (.featnegWrite c) s c f 2 []) ∧
    (early → form → ok → Spec.replies (.keyinst c) s c { f with host := { h with keys := some bs } } 0 ((sha512 bs).take 28)) ∧
    (¬ (early ∧ form) → Spec.replies (.keyinst c) s c f 2 []) ∧
    (early → form → ¬ ok → Spec.replies (.keyinst c) s c f 4 [])

/-- R52, R130, R131, R190, R325: LOADIMG puts an accepted image into the store and answers OK with a record of cause 0; a rejected one answers its record, AUTH for a
signature, and changes no image; LOADTBL loads an accepted table for a partition and mode, whose settings the partition takes. -/
def Obligations.LoadsAcceptOrReject : Prop :=
  ∀ (c : Cmd) (s : State), s.fab.host.partState = 1 →
    let f := s.fab
    let bs := Spec.payload f c
    let status (r : Reject) := if r.cause = 5 ∨ r.cause = 0x21 then 4 else 3
    (let k := Spec.arg c 16 2
     let h := { f.host with imgLoaded := true }
     ofLE (bs.take 4) ≠ 0x4B534154 →
      (256 ≤ k → Spec.replies (.loadimg c) s c { f with host := h } 2 []) ∧
      (k < 256 → f.storeUsed k + bs.length ≤ 768 * 2 ^ 20 →
        (∀ r, loadImage h k bs = .error r → Spec.replies (.loadimg c) s c { f with host := h } (status r) r.bytes) ∧
        (∀ im, loadImage h k bs = .ok im →
          ((∃ b ∈ im.needs, ¬ Spec.feature f b) → Spec.replies (.loadimg c) s c { f with host := h } 5 []) ∧
          ((∀ b ∈ im.needs, Spec.feature f b) → ∃ t, exec (.loadimg c) s = .next t ∧ t.agenda = s.agenda ∧
            mget k t.fab.images = some im ∧ (∀ n, n ≠ k → mget n t.fab.images = mget n f.images) ∧
            t.fab.host = { h with resp := Spec.response c 0 Spec.acceptedRecord, msix := f.host.msix ++ [0] } ∧
            t.fab = { f with images := t.fab.images, dieRes := t.fab.dieRes, host := t.fab.host })))) ∧
    (let p := Spec.arg c 16 1
     let m := Spec.arg c 17 1
     let h := { f.host with tblLoaded := true }
     let g : Fab := { f with host := h }
     ((f.pmode ≤ p ∨ 8 ≤ m ∨ (f.part p).active = some m) → Spec.replies (.loadtbl c) s c g 2 []) ∧
     (p < f.pmode → m < 8 → (f.part p).active ≠ some m →
        (∀ r, g.loadTable p m bs = .error r → Spec.replies (.loadtbl c) s c g (status r) r.bytes) ∧
        (∀ x, g.loadTable p m bs = .ok x → x.safety = false → ¬ Spec.feature f 4 → Spec.replies (.loadtbl c) s c g 5 []) ∧
        (∀ x, g.loadTable p m bs = .ok x → (x.safety = true ∨ Spec.feature f 4) → ∃ t, exec (.loadtbl c) s = .next t ∧ t.fab.table p m = some x ∧
          (∀ q n, n < 8 → q ≠ p ∨ n ≠ m → t.fab.table q n = f.table q n) ∧ (t.fab.part p).root = some x.root ∧
          (t.fab.part p).safety = x.safety ∧ t.fab.host.resp = Spec.response c 0 Spec.acceptedRecord ∧ t.fab.mem = f.mem)))

/-- R31, R327, R335, R339, R340, R344, R353: START begins a mode's loads or issues the launch of an entry, which the I/O die performs itself for an armed one; MODESW asks
for a switch; PARTMODE and DIEOFF begin and answer at their end; PURGE issues the purge of a tag, BADARG for tag 0. -/
def Obligations.StartsAndChangesAreIssued : Prop :=
  ∀ (c : Cmd) (s : State), s.fab.host.partState = 1 →
    let f := s.fab
    let p := Spec.arg c 16 1
    let e := Spec.arg c 18 2
    let sent (opc ka : Nat) : Fab := { f with evq := f.evq ++
      [⟨f.clock + 4, 0, .seq (BitVec.ofNat 8 opc ++ 0#24) (BitVec.ofNat 64 ka) 0 0⟩] }
    ((f.pmode ≤ p ∨ 8 ≤ e ∨ f.table p e = none ∨ (f.part p).rising.isSome = true) → Spec.replies (.startMode c) s c f 2 []) ∧
    (p < f.pmode → e < 8 → (f.table p e).isSome = true → (f.part p).rising = none → f.runs = [] →
      ∃ t, exec (.startMode c) s = .next t ∧ (∃ x, (t.fab.part p).rising = some (e, x)) ∧ t.fab.host.resp = Spec.response c 0 []) ∧
    (f.host.ioStart = true → Spec.replies (.startEntry c) s c f 0 []) ∧
    (f.host.ioStart = false → p < f.pmode → p < 8 → e < 512 → ∀ m, m < 8 → (f.part p).active = some m →
      let ka := e + m * 2 ^ 9 + p * 2 ^ 12 + Spec.arg c 20 2 * 2 ^ 16
      (Spec.launchStatus false f ka 0 0 → Spec.replies (.startEntry c) s c (sent 0xE0 ka) 0 [0]) ∧
      (Spec.launchStatus false f ka 0 1 → Spec.replies (.startEntry c) s c f 0 [1]) ∧
      (Spec.launchStatus false f ka 0 2 ∨ Spec.launchStatus false f ka 0 3 → Spec.replies (.startEntry c) s c f 2 [])) ∧
    (∀ m kb tag x, (f.part p).active = some m → (f.ent p m e).armed = some (kb, tag, false) → tag ≠ 0 → f.entry p m e = some x →
      f.entryBusy p m e = false → f.launchTag p m e tag ≠ 0 →
      ∃ t j, exec (.hostLaunch c) s = .next t ∧ t.agenda = s.agenda ∧ mget f.seq t.fab.insts = some j ∧ j.part = p ∧ j.mode = m ∧ j.entry = e ∧
        j.start = f.ctr p + 12 + x.start ∧ j.dl = j.start + x.dline ∧ Spec.silent s t) ∧
    (let m := Spec.arg c 17 1
     let q := f.part p
     (Spec.arg c 17 1 < 8 → p < f.pmode → q.active ≠ none → (f.table p m).isSome = true →
       ∃ t, exec (.modesw c) s = .next t ∧ (t.fab.part p).pend = (if q.active = some m then none else some m) ∧
         t.fab.host.resp = Spec.response c 0 (leBytes 8 ((f.pointAfter p q.ctr).getD 0))) ∧
     (f.pmode ≤ p ∨ 8 ≤ m ∨ q.active = none ∨ f.table p m = none → Spec.replies (.modesw c) s c f 2 [])) ∧
    (Spec.arg c 16 2 = 0 → Spec.replies (.purgeCmd c) s c f 2 []) ∧
    (Spec.arg c 16 2 ≠ 0 → Spec.replies (.purgeCmd c) s c (sent 0xDA (Spec.arg c 16 2)) 0 []) ∧
    ((p = 1 ∨ ((p = 2 ∨ p = 3 ∨ p = 6) ∧ Spec.feature f 7)) → f.fieldIdle = true →
      ∃ t, exec (.partmode c) s = .next t ∧ Spec.silent s t ∧ t.fab.images = [] ∧ t.fab.tables = [] ∧
        mget f.seq t.fab.ops = some (.partm p none (some c.tag)) ∧
        (⟨f.clock + f.zeroTicks, 0, .instr (.partmDone f.seq)⟩ : Ev) ∈ t.fab.evq) ∧
    ((p = 2 ∨ p = 3 ∨ p = 6) → ¬ Spec.feature f 7 → Spec.replies (.partmode c) s c f 5 []) ∧
    (let forced := Spec.arg c 17 1
     (¬ Spec.feature f 9 → Spec.replies (.dieoff c) s c f 5 []) ∧
     (Spec.feature f 9 → 6 ≤ p ∨ 2 ≤ forced ∨ mget p f.dies = some 2 → Spec.replies (.dieoff c) s c f 2 []) ∧
     (Spec.feature f 9 → p < 6 → forced = 0 → mget p f.dies ≠ some 2 → f.opBusy = false →
       ∃ t, exec (.dieoff c) s = .next t ∧ Spec.silent s t ∧ mget p t.fab.dies = some 1 ∧
         (⟨f.clock + 1, 0, .instr (.doffDone f.seq)⟩ : Ev) ∈ t.fab.evq))

/-- R128, R132, R321, R333, R379: THROTTLE sets a die's floor; TIMECFG its partitions' servo; MIRCFG the mirror areas and heartbeats; ATTEST answers the signed report; QREC
answers the newest record by DMA; an argument out of range answers BADARG and changes nothing. -/
def Sys2Proof.Spec.SettingsTakeTheirArguments : Prop :=
  ∀ (c : Cmd) (s : State), s.fab.host.partState = 1 →
    let f := s.fab
    let a := Spec.arg c
    (a 16 1 < 6 → a 17 1 < 8 →
      Spec.replies (.throttle c) s c { f with blocks := f.blocks.set (Fin.ofNat 10 (a 16 1)) { f.block (a 16 1) with floor := a 17 1 } } 0 []) ∧
    ((6 ≤ a 16 1 ∨ 8 ≤ a 17 1) → Spec.replies (.throttle c) s c f 2 []) ∧
    (let step := (BitVec.ofNat 64 (a 24 8)).toInt
     let alim := a 32 4
     let ok := a 16 1 < 2 ∧ a 17 1 < 2 ^ f.pmode ∧ step % 4096 = 0 ∧ alim ≤ 858993
     (¬ ok → Spec.replies (.timecfg c) s c f 2 []) ∧
     (ok → ∃ t, exec (.timecfg c) s = .next t ∧ t.agenda = s.agenda ∧ t.fab.host.resp = Spec.response c 0 [] ∧ t.fab.clock = f.clock ∧
       ∀ p, p < f.pmode →
         t.fab.part p = if (a 17 1).testBit p then { f.part p with
             disciplined := a 16 1 = 1, alim := alim, step := if step = 0 then (f.part p).step else step
             rate := if a 16 1 = 1 then max (-(alim : Int)) (min alim (f.part p).rate) else 0 }
           else f.part p)) ∧
    (let ok := f.mirrorBusy = false ∧ a 16 8 % 64 = 0 ∧ a 24 4 % 128 = 0 ∧ a 24 4 ≠ 0 ∧ 1 ≤ a 28 2 ∧ a 28 2 ≤ 1024 ∧ a 30 1 < 4 ∧
       a 31 1 / 8 % 16 = 0 ∧ a 48 1 < 64
     (¬ ok → Spec.replies (.mircfg c) s c f 2 []) ∧
     (ok → ∃ t, exec (.mircfg c) s = .next t ∧ t.fab = { f with beryl := t.fab.beryl, host := t.fab.host } ∧
       t.fab.host.resp = Spec.response c 0 [] ∧ t.fab.beryl = { t.fab.beryl with
         mva := BitVec.ofNat 64 (a 16 8), ssize := a 24 4, nslot := a 28 2, hbSend := (a 30 1).testBit 0, hbWatch := (a 30 1).testBit 1 })) ∧
    (let r := c.inl.take 32 ++ leBytes 64 Config.bridleHash.toNat ++ leBytes 64 f.host.taskHash.toNat ++
       (match f.host.keys with
         | some k => sha512 k
         | none => leBytes 64 0) ++ f.tables.flatMap (fun (_, t) => leBytes 64 t.hash.toNat) ++ leBytes 16 (f.host.features.getD 0).toNat
     let signed := r ++ leBytes 64 (Config.identitySign (BitVec.ofNat 512 (ofLE (sha512 r)))).toNat
     Spec.replies (.attest c) s c (f.store (hostBase + c.addr.toNat) signed) 0 signed) ∧
    (f.pmode ≤ a 16 1 → Spec.replies (.qrec c) s c f 2 []) ∧
    (∀ m x bs g, a 16 1 < f.pmode → (f.part (a 16 1)).active = some m → f.table (a 16 1) m = some x → a 18 2 = 1 →
      0 < (f.part (a 16 1)).records →
      f.readSys (x.recva + 64 * (((f.part (a 16 1)).records - 1) % 2 ^ x.recn)) 64 = (some bs, g) →
      Spec.replies (.qrec c) s c (g.store (hostBase + c.addr.toNat) bs) 0 [])

/-- R190: SYSMAP writes the leaf of a page whose tables are there, or clears it and drops its translations, and answers the pages written; a
bad argument answers BADARG, a host page without feature 6 NOTNEG, and nothing changes. -/
def Sys2Proof.Spec.SystemPagesAreMapped : Prop :=
  ∀ (c : Cmd) (s : State), s.fab.host.partState = 1 →
    let f := s.fab
    let va := Spec.arg c 16 8
    let target := Spec.arg c 24 8
    let fl := Spec.arg c 41 1
    let host := fl.testBit 2 = true ∧ ¬ Spec.feature f 6
    (∀ i, i = .sysmapMap c ∨ i = .sysmapUnmap c →
      (host → Spec.replies i s c f 5 []) ∧
      (¬ host → (4 ≤ Spec.arg c 40 1 ∨ 16 ≤ fl ∨ Spec.arg c 42 6 ≠ 0 ∨ Spec.arg c 32 8 = 0 ∨ 2 ^ 48 < va + Spec.arg c 32 8) →
        Spec.replies i s c f 2 [])) ∧
    (∀ root at_, ¬ host → f.sysmapBad c = false → Spec.arg c 40 1 = 0 → Spec.arg c 32 8 = 65536 → f.sysRoot = some root →
      f.leafPlace none va 4 root = some at_ →
      ((f.pte at_).getLsbD 0 = false → ∃ t, exec (.sysmapMap c) s = .next t ∧ t.agenda = s.agenda ∧
        t.fab.pte at_ = BitVec.ofNat 64 (target + 3 + fl % 8 * 4) ∧
        (∀ y, y < at_ ∨ at_ + 8 ≤ y → memGet t.fab.mem y = memGet f.mem y) ∧ t.fab.host.resp = Spec.response c 0 (leBytes 8 1)) ∧
      ((f.pte at_).getLsbD 0 = true → (f.pte at_).getLsbD 1 = true → Spec.replies (.sysmapMap c) s c f 2 [])) ∧
    (∀ leaf at_, ¬ host → f.sysmapBad c = false → Spec.arg c 40 1 = 0 → Spec.arg c 32 8 = 65536 → f.walkRoot none va = .ok (leaf, 16, at_) →
      f.pom.sbuf = [] → ∃ t, exec (.sysmapUnmap c) s = .next t ∧ t.agenda = s.agenda ∧ t.fab.pte at_ = 0 ∧
        (∀ y, y < at_ ∨ at_ + 8 ≤ y → memGet t.fab.mem y = memGet f.mem y) ∧ t.fab.host.resp = Spec.response c 0 (leBytes 8 1) ∧
        ∀ u y, y ∈ (mget u t.fab.tlb).getD [] → ¬ (y.root = none ∧ y.va < va + 65536 ∧ va < y.va + 2 ^ y.size))

/-- Host commands: states, features, keys, settings and system pages. -/
def Obligations.HostCommandsAnswer : Prop :=
  Spec.CommandsAnswerByTheirState ∧ Spec.FeaturesAndKeysAreSetOnce ∧ Spec.SettingsTakeTheirArguments ∧ Spec.SystemPagesAreMapped

/-! ## What lanes, accesses and jobs do outside rows -/

namespace Sys2Proof.Spec

/-- Only a lane differs. -/
def laneBecomes (i : Instr) (s : State) (e : ElemId) (c : Ctx) (l : LaneNo) (x : Lane) : Prop :=
  exec i s = .next { s with fab := s.fab.modLane e c l fun _ => x }

/-- A lane whose head has been taken on a tick. -/
def popped (l : Lane) (now : Nat) : Lane :=
  { l with buf := l.buf.tail, popAt := now, pops := (if l.popAt = now then l.pops else 0) + 1, headAt := now + 1
           log := match l.log, l.buf with
             | some xs, t :: _ => some (if t.kind = .marker then xs else xs ++ [t])
             | x, _ => x }

/-- The head of a lane may be taken on this tick: none was taken yet. -/
def headIs (l : Lane) (now : Nat) (t : Token) : Prop := l.buf.head? = some t ∧ ¬ (l.popAt = now ∧ l.pops ≠ 0)

end Sys2Proof.Spec

/-- R136, R137, R141-R143, R146, R43, R358: the oldest token on the way enters its lane when it is due; a bypassed token goes on where the next lane has room;
a lane in discard drops the token at its head, and an EOS ends the discard; a marker leaves its lane and ends discard and log. -/
def Sys2Proof.Spec.LanesMoveTheirTokens : Prop :=
  (∀ (e : ElemId) (c : Ctx) (l : LaneNo) (s : State) (x : Flying) (xs : List Flying) (i : Instr),
    i = .linkTokenArrival e c l ∨ i = .controlTokenArrival e c l →
    let y := s.fab.lane e c l
    y.pipe = x :: xs →
    (x.due ≤ s.fab.clock → Spec.laneBecomes i s e c l
      { y with pipe := xs, buf := y.buf ++ [x.tok], headAt := if y.buf = [] then max s.fab.clock y.headAt else y.headAt }) ∧
    (s.fab.clock < x.due → Spec.laneBecomes i s e c l y)) ∧
  (∀ (e x : ElemId) (c : Ctx) (d o : Dir) (s : State) (t : Token) (sh : Share),
    let from_ := dataLane d 1
    let into := dataLane (oppDir o) 1
    let f := s.fab
    (f.slot e c).share = some sh → sh.bypass d = some o → neighbour e o = some x → x ≠ e →
    Spec.headIs (f.lane e c from_) f.clock t → t.kind ≠ .marker →
    ((f.lane x c into).occ f.clock < linkCap e o → ∃ u, exec (.bypassHop e c d) s = .next u ∧ u.agenda = s.agenda ∧
      u.fab.lane e c from_ = Spec.popped (f.lane e c from_) f.clock ∧
      u.fab.lane x c into = { f.lane x c into with pipe := (f.lane x c into).pipe ++ [⟨f.clock, f.clock + hop e o, t⟩] } ∧
      (⟨f.clock + hop e o, 0, .instr (.linkTokenArrival x c into)⟩ : Ev) ∈ u.fab.evq ∧ u.fab.mem = f.mem) ∧
    (linkCap e o ≤ (f.lane x c into).occ f.clock → exec (.bypassHop e c d) s = .next s)) ∧
  (∀ (e : ElemId) (c : Ctx) (l : LaneNo) (s : State) (t : Token),
    let y := s.fab.lane e c l
    let now := s.fab.clock
    let i := Instr.laneDiscardDrop e c l
    Spec.headIs y now t →
    (y.discard = false → Spec.laneBecomes i s e c l y) ∧
    (y.discard = true → t.kind = .data → Spec.laneBecomes i s e c l (Spec.popped y now)) ∧
    (y.discard = true → t.kind = .eos → Spec.laneBecomes i s e c l { Spec.popped y now with discard := false }) ∧
    (y.discard = true → t.kind = .marker → Spec.laneBecomes i s e c l { y with discard := false })) ∧
  (∀ (e : ElemId) (c : Ctx) (l : LaneNo) (s : State) (t : Token) (ts : List Token),
    let y := s.fab.lane e c l
    y.buf = t :: ts → t.kind = .marker →
    (∀ rn k, (s.fab.slot e c).run = some (rn, k) → ((s.fab.run rn).copy k).cutOpen = none) →
    Spec.laneBecomes (.markerTaken e c l) s e c l { y with buf := ts, headAt := s.fab.clock + 1, discard := false, log := none })

/-- R26, R332: where the teardown token has been sent and no access of the context is outstanding, the slot drops its tokens, counted in the run, and is
RESIDENT without a run; the element's other slots stay. -/
def Sys2Proof.Spec.TeardownFreesTheSlot : Prop :=
  ∀ (e : ElemId) (c : Ctx) (s : State) (rn k : Nat) (r : Run),
    let x := s.fab.elem e
    let sl := s.fab.slot e c
    sl.run = some (rn, k) → mget rn s.fab.runs = some r → (r.copy k).passed = true → x.hold = none → x.mq = [] →
    (∀ j, (s.fab.job e j).live = false) →
    ∃ t, exec (.teardownToken e c) s = .next t ∧ t.agenda = s.agenda ∧ (t.fab.slot e c).st = .resident ∧ (t.fab.slot e c).run = none ∧
      (t.fab.slot e c).regs = sl.regs ∧ (t.fab.slot e c).h = false ∧ (∀ l, (t.fab.lane e c l).buf = []) ∧ (∀ q, q ≠ c → t.fab.slot e q = s.fab.slot e q) ∧
      (∀ y, y ≠ e → t.fab.elem y = s.fab.elem y) ∧ t.fab.mem = s.fab.mem ∧
      (t.fab.run rn).discard = r.discard + (sl.lanes.toList.map fun l => l.buf.length).foldl (· + ·) 0

/-- R177, R191, R192, R285: a parked access stays parked while its word is not in the state it waits for, and is performed and delivered on the test
that finds it so; a fault of a window ends the access with poison, or without a write; the element goes on. -/
def Sys2Proof.Spec.HeldAccessesEnd : Prop :=
  (∀ (e : ElemId) (s : State) (h : Hold), (s.fab.elem e).hold = some h → h.kind = .scalar → h.parked = true →
    let r := h.row s.fab e
    (r.opc = 0x75 → s.fab.tag h.loc % 2 = 1 → exec (.parkedAccessRetest e) s = .next s) ∧
    (r.opc = 0x75 → s.fab.tag h.loc < 4 → s.fab.tag h.loc % 2 = 0 → h.isG = false → 2 ^ 41 ≤ h.loc →
      s.fab.chainOk e h.c h.run h.copy h.frame r.wave = true → s.fab.armP = false → h.armP = false → r.tape = none → s.fab.migs = [] →
      ∃ t, exec (.parkedAccessRetest e) s = .next t ∧ t.agenda = s.agenda ∧ (t.fab.elem e).hold = none ∧ t.fab.mem = s.fab.mem ∧
        let v := Spec.loaded r (s.fab.load h.loc (2 ^ r.size)) (s.fab.tag h.loc)
        (t.fab.slot e h.c).fb = ⟨contained v.ty v, v.p, v.ty⟩)) ∧
  (∀ (e : ElemId) (s : State) (h : Hold) (xc : Nat) (f : Fab), (s.fab.elem e).hold = some h → h.kind = .scalar →
    h.placed = false → h.armP = false →
    let r := h.row s.fab e
    0x80 ≤ r.opc →
    r.tape = none → s.fab.elemTranslate e (accessKind r.opc) h.va = (.error xc, f) →
    ∃ t, exec (.scalarAccessCompletion e) s = .next t ∧ t.agenda = s.agenda ∧ (t.fab.elem e).hold = none ∧ t.fab.mem = s.fab.mem ∧
      (t.fab.slot e h.c).fb = if r.opc = 0x81 ∨ r.opc = 0x83 then (s.fab.slot e h.c).fb else ⟨poisonOf 9 e, true, r.resTy .i32⟩)

/-- R170, R173, R176, R285: a move of a tile that ends has placed its tile and answers 0; a held operation that may retire delivers its result, and its slot is
free. -/
def Sys2Proof.Spec.HeldOperationsDeliver : Prop :=
  (∀ (e : ElemId) (s : State) (h : Hold) (t : Tile) (a : Nat), (s.fab.elem e).hold = some h → h.kind = .tile → s.fab.armP = false → h.armP = false →
    let r := h.row s.fab e
    let store := s.fab.storage e r.var
    r.tape = none → r.opc = 0x7C → s.fab.tileOf e h.c h.h = some t → t.homeg = false → t.lvl ≠ r.var → (r.var = 1 ∨ r.var = 2) →
    (t.lvl = 1 ∨ t.lvl = 2) → s.fab.tileBusy e h.h = false →
    firstFit store.1 store.2 (t.need r.var) = some a →
    ∃ u x, exec (.tileMoveCompletion e) s = .next u ∧ u.agenda = s.agenda ∧ (u.fab.elem e).hold = none ∧ mget h.h (u.fab.elem e).tiles = some x ∧
      x.lvl = r.var ∧ x.loc = a ∧ x.len = t.need r.var ∧ x.fmt = t.fmt ∧ x.rows = t.rows ∧ x.cols = t.cols ∧
      (u.fab.slot e h.c).fb = ⟨deliver (r.resTy .n32) 0, false, r.resTy .n32⟩) ∧
  (∀ (e : ElemId) (s : State) (h : Hold) (j : Fin 4), (s.fab.elem e).hold = some h → h.kind = .op → h.aux = [j.val] →
    s.fab.armP = false → h.armP = false →
    let r := h.row s.fab e
    let b := s.fab.job e j
    r.tape = none → b.live = true → b.st = .done → b.fpend = [] → b.c = h.c → (∀ k, k ≠ j → (s.fab.job e k).live = false) → b.opc = 0xB4 →
    ∃ t, exec (.heldOpRetirement e) s = .next t ∧ t.agenda = s.agenda ∧ (t.fab.elem e).hold = none ∧ (t.fab.job e j).live = false ∧
      t.fab.mem = s.fab.mem ∧
      (t.fab.slot e h.c).fb =
        ⟨deliver (r.resTy .n32) (BitVec.ofNat 32 (b.extra.headD 0)), false, r.resTy .n32⟩)

namespace Sys2Proof.Spec

/-- A job of queue S owes an element on this tick. -/
def elementDue (f : Fab) (e : ElemId) (j : Fin 4) : Prop :=
  (f.job e j).live = true ∧ (f.job e j).st = .running ∧ (f.job e j).next = f.clock ∧ (f.job e j).opc ≠ 0x98

/-- The job whose turn it is: of those that owe an element it was admitted first (R168); its element is not on the move and no F change is owed. -/
def jobTurn (f : Fab) (e : ElemId) (j : Fin 4) : Prop :=
  elementDue f e j ∧ (∀ k, k ≠ j → elementDue f e k → (f.job e j).seq < (f.job e k).seq) ∧ (f.job e j).fpend = [] ∧ f.moving e = false

/-- The chains of a job's accesses allow its next element (R223). -/
def jobChained (f : Fab) (e : ElemId) (b : Job) : Prop := ∀ q ∈ b.waves, f.chainOk e b.c b.run b.copy b.frame q = true

end Sys2Proof.Spec

/-- R168, R170, R179, R180, R182, R200, R204, R210, R287, R291, R293: a job's element waits for its chains, writes its item and counts; after the last one the job is DONE; an
aborted job ends ABORTED with cause 5; a fault stops it with its cause and a message; it retires behind the earlier jobs of its context,
frees its slot, raises its flags and makes its push; the port's weights are written. -/
def Obligations.JobsMoveStopAndRetire : Prop :=
  ∀ (e : ElemId) (j : Fin 4) (s : State),
    let f := s.fab
    let b := f.job e j
    (Spec.jobTurn f e j → b.opc ≠ 0xB9 →
      (b.abort = true → ∃ t, exec (.jobElement e j) s = .next t ∧ (t.fab.job e j).st = .aborted ∧ (t.fab.job e j).cause = 5 ∧
        t.fab.mem = f.mem) ∧
      (b.abort = false → b.begun = true → b.idx = b.n → b.opc ≠ 0xB0 → ∃ t, exec (.jobElement e j) s = .next t ∧
        (t.fab.job e j).st = .done ∧ (t.fab.job e j).cause = 0 ∧ t.fab.mem = f.mem) ∧
      (b.abort = false → b.begun = true → b.idx < b.n → ¬ Spec.jobChained f e b → ∃ t, exec (.jobElement e j) s = .next t ∧
        (t.fab.job e j).idx = b.idx ∧ (t.fab.job e j).next = f.clock + 1 ∧ t.fab.mem = f.mem) ∧
      (∀ d, b.abort = false → b.begun = true → b.idx < b.n → b.opc = 0x7B → Spec.jobChained f e b → b.dst = some (handleOf b.b.v) →
        f.tileOf e b.c (handleOf b.b.v) = some d → d.lvl = 1 → d.itemBits = 32 → f.cinchesOf e (handleOf b.b.v) = [] → b.a.p = false → f.migs = [] →
        let at_ := elemBase e + 512 * d.loc + copyBit b.pb d 1 b.idx / 8
        copyBit b.pb d 1 b.idx % 8 = 0 →
        ∃ t, exec (.jobElement e j) s = .next t ∧ (t.fab.job e j).idx = b.idx + 1 ∧
          ∀ y, memGet t.fab.mem y = if at_ ≤ y ∧ y < at_ + 4 then (leBytes 4 b.a.v.toNat).getD (y - at_) 0 else memGet f.mem y)) ∧
    (b.live = true → b.st = .running → s.alive = true → (f.chan 3).q.length < 8 →
      ∃ t, exec (.jobFaultStop e j) s = .next t ∧ (t.fab.job e j).st = .stopped ∧ (t.fab.job e j).cause = 4 ∧
        (t.fab.job e j).idx = b.idx ∧ (t.fab.chan 3).q.length = (f.chan 3).q.length + 1 ∧ t.fab.mem = f.mem) ∧
    (b.live = true → (b.st = .done ∨ b.st = .aborted) → b.fpend = [] → b.fin < f.clock → b.opc ≠ 0xB4 → b.opc ≠ 0xB5 → b.opc ≠ 0xB8 →
      b.opc ≠ 0xBB → (∀ k, (f.job e k).live = true → (f.job e k).c = b.c → b.seq ≤ (f.job e k).seq) →
      ∃ t, exec (.jobRetirement e j) s = .next t ∧ (t.fab.job e j).live = false ∧ (∀ k, k ≠ j → t.fab.job e k = f.job e k) ∧
        (t.fab.slot e b.c).esrIn = ((f.slot e b.c).esrIn ||| b.esr) ∧ (t.fab.slot e b.c).esr = (f.slot e b.c).esr ∧
        (t.fab.slot e b.c).regs = (f.slot e b.c).regs ∧
        (∀ k, b.push = some k → b.nopush = false →
          ((t.fab.slot e b.c).fifos.get k).q = ((f.slot e b.c).fifos.get k).q ++ [(f.clock, BitVec.ofNat 16 b.idx)]) ∧ t.fab.mem = f.mem) ∧
    (∃ t, exec (.portWeightRecompute e) s = .next t ∧ t.agenda = s.agenda ∧ (∀ y, y ≠ e → t.fab.elem y = f.elem y) ∧
      (∃ v, t.fab.elem e = { f.elem e with port := v } ∧ (∀ k : Fin 26, k.val < 8 ∨ 16 ≤ k.val → v.get k = (f.elem e).port.get k) ∧
        ∀ k : Fin 26, 8 ≤ k.val → k.val < 16 → (f.job e (Fin.ofNat 4 k.val)).live = false → v.get k = 0)) ∧
    (b.live = true → b.opc = 0xB9 → b.st = .running → b.abort = true → b.fpend = [] →
      (∃ t, exec (.dcmpjEngineStart e j) s = .next t ∧ (t.fab.job e j).st = .aborted ∧ (t.fab.job e j).cause = 5) ∧
      (b.fin = f.clock → ∃ t, exec (.dcmpjCompletion e j) s = .next t ∧ (t.fab.job e j).st = .aborted ∧ (t.fab.job e j).cause = 5)) ∧
    (∀ src dst, b.live = true → b.opc = 0xB9 → b.st = .running → b.abort = false → f.tileOf e b.c (handleOf b.a.v) = some src →
      f.tileOf e b.c (handleOf b.b.v) = some dst →
      (let home := f.dcJobs (f.dcHome e b)
       let taken := home.filter (·.2.begun)
       let later : Fab := { f with evq := f.evq ++ [⟨f.clock + 1, 2, .instr (.dcmpjEngineStart e j)⟩] }
       (Spec.jobChained f e b → b.begun = false → taken.length < 2 → (∀ p ∈ home, p.2.begun = true ∨ p = (e, b)) →
         ∃ t, exec (.dcmpjEngineStart e j) s = .next t ∧ (t.fab.job e j).begun = true ∧ (t.fab.job e j).idx = b.idx ∧
           (t.fab.job e j).trace ≠ [] ∧ (⟨(t.fab.job e j).fin, 2, .instr (.dcmpjCompletion e j)⟩ : Ev) ∈ t.fab.evq) ∧
       (b.begun = false → 2 ≤ taken.length → exec (.dcmpjEngineStart e j) s = .next { s with fab := later }) ∧
       (¬ Spec.jobChained f e b → exec (.dcmpjEngineStart e j) s = .next { s with fab := later })) ∧
      (∀ x made at_ fin more k g, b.fin = f.clock → f.migs = [] → b.fpend = [] → f.cinchesOf e (handleOf b.b.v) = [] → b.extra.length = 9 →
        b.trace = (x, made, at_, fin) :: more →
        f.dcPut e b dst (dcDoff b.pb + b.idx) (b.ahead.take (made - b.idx)) = (k, none, g) →
        (more ≠ [] → ∃ t, exec (.dcmpjCompletion e j) s = .next t ∧ (t.fab.job e j).idx = b.idx + k ∧ (t.fab.job e j).trace = more ∧
          (t.fab.job e j).ahead = b.ahead.drop k ∧ (t.fab.job e j).ex 0 = at_ / 8 ∧ t.fab.mem = g.mem) ∧
        (more = [] → b.ex 6 = 0 → b.idx + k = dcCap b.pb → ∃ t, exec (.dcmpjCompletion e j) s = .next t ∧ (t.fab.job e j).st = .done ∧
          (t.fab.job e j).cause = 0 ∧ (t.fab.job e j).idx = dcCap b.pb ∧ (t.fab.job e j).fin = f.clock + 19 ∧ t.fab.mem = g.mem)))

/-- Lanes move their tokens; the teardown token frees the slot. -/
def Obligations.LanesAndTeardown : Prop :=
  Spec.LanesMoveTheirTokens ∧ Spec.TeardownFreesTheSlot

/-- Held accesses and operations end and deliver. -/
def Obligations.HeldElementsGoOn : Prop :=
  Spec.HeldAccessesEnd ∧ Spec.HeldOperationsDeliver

/-! ## Matrix nodes, cinches, collectives and tapes outside rows -/

namespace Sys2Proof.Spec

/-- The head command of a node acts on this tick: it has begun, it is due, its element is not on the move and no F change is owed. -/
def commandDue (f : Fab) (e : ElemId) (m : MCmd) (ms : List MCmd) : Prop :=
  (f.elem e).mq = m :: ms ∧ m.begun = true ∧ m.due = f.clock ∧ f.moving e = false ∧ m.fpend = []

/-- A tile at E whose items no fibre is. -/
def plainTile (t : Tile) : Prop := t.lvl = 1 ∧ t.lay ≠ 3

/-- The head command's chains allow it to go on. -/
def chained (f : Fab) (e : ElemId) (m : MCmd) : Prop :=
  ∀ q ∈ blockWaves m.op m.pb, f.chainOk e m.c m.run m.copy m.frame q = true

/-- The tape's bytes stand in the die buffer and no page moves. -/
def tapeAtD (f : Fab) (key : Nat) : Prop := (∃ t, mget key f.tapes = some t ∧ t.lvl = 2) ∧ f.migs = []

end Sys2Proof.Spec

/-- R248, R250, R257: a multiply's group commits as a whole: DONE counts it, poison cells and cells outside the window stay, memory stays, and after
the last group the command is DONE; with i8 operands and an i32 accumulator the product is added and clamped; a group that its chain keeps back is
one tick later. R169, R250: a retirement pushes DONE and takes the command out. R261: a fault of the feed stops the command
with cause XLATE and a message. R259: a drain to MD sends one cell a tick, as its lane has room. -/
def Obligations.MatrixCommandsGoOn : Prop :=
  ∀ (e : ElemId) (s : State) (m : MCmd) (ms : List MCmd),
    let f := s.fab
    let p := (f.elem e).node.prg
    let cell (t : State) (i j : Nat) := (t.fab.elem e).node.cell i j
    (∀ ta tb, Spec.commandDue f e m ms → p.st = .feeding → f.tileOf e m.c m.ha = some ta → f.tileOf e m.c m.hb = some tb →
      Spec.plainTile ta → Spec.plainTile tb → mSynA m.pb = false → mSynB m.pb = false → (f.elem e).node.marks = [] →
      (Spec.chained f e m → ∃ t, exec (.matrixGroupCommit e) s = .next t ∧ t.agenda = s.agenda ∧ t.fab.mem = f.mem ∧
        (t.fab.elem e).node.prg.done = p.done + 1 ∧ (p.total ≤ p.done + 1 → (t.fab.elem e).node.prg.st = .done) ∧
        (p.done + 1 < p.total → (t.fab.elem e).node.prg.st = .feeding) ∧
        (∀ i j, j < 64 → ((f.elem e).node.cell i j).p = true → cell t i j = (f.elem e).node.cell i j) ∧
        (∀ i j, j < 64 → (mM m.pb ≤ i ∨ mN m.pb ≤ j) → cell t i j = (f.elem e).node.cell i j) ∧
        (∀ y, y ≠ e → (t.fab.elem y).node = (f.elem y).node) ∧
        let a := ta.base e + m.itemA ta 0 0
        let b := tb.base e + m.itemB tb 0 0
        (ta.fmt = .i8 → tb.fmt = .i8 → mFa m.pb = .i8 → mM m.pb = 1 → mN m.pb = 1 → mK m.pb = 1 → p.done = 0 → (f.elem e).node.i32 = true →
          ((f.elem e).node.cell 0 0).p = false → f.tag a < 2 → f.tag b < 2 →
          cell t 0 0 = ⟨BitVec.ofInt 32 (max (-2147483648) (min 2147483647 (((f.elem e).node.cell 0 0).v.toInt +
            (BitVec.ofNat 8 (f.load a 1)).toInt * (BitVec.ofNat 8 (f.load b 1)).toInt))), false⟩)) ∧
      (¬ Spec.chained f e m → ∃ t, exec (.matrixGroupCommit e) s = .next t ∧ (t.fab.elem e).node = (f.elem e).node ∧ t.fab.mem = f.mem ∧
        (t.fab.elem e).mq = { m with start := m.start + 1, due := f.clock + 1 } :: ms)) ∧
    (Spec.commandDue f e m [] → p.st = .done ∨ p.st = .aborted → ∃ t, exec (.matrixCommandRetirement e) s = .next t ∧ (t.fab.elem e).mq = [] ∧
      (t.fab.elem e).node = (f.elem e).node ∧ t.fab.mem = f.mem ∧ (t.fab.slot e m.c).esrIn = ((f.slot e m.c).esrIn ||| m.esr) ∧
      (∀ k, m.push = some k → ((t.fab.slot e m.c).fifos.get k).q = ((f.slot e m.c).fifos.get k).q ++ [(f.clock, BitVec.ofNat 16 p.done)]) ∧
      (m.push = none → (t.fab.slot e m.c).fifos = (f.slot e m.c).fifos)) ∧
    (∀ xc va, (f.elem e).mq = m :: ms → m.fault = some (xc, va) → s.alive = true → (f.chan 3).q.length < 8 →
      ∃ t, exec (.matrixFeedFault e) s = .next t ∧ t.fab.mem = f.mem ∧ (t.fab.elem e).mq = { m with fault := none } :: ms ∧
        let q := (t.fab.elem e).node.prg
        q.st = .stopped ∧ q.cause = 4 ∧ q.xcause = xc ∧ q.done = p.done ∧ q.fidx = p.fidx ∧ (t.fab.elem e).node.cells = (f.elem e).node.cells ∧
          ∃ x, (t.fab.chan 3).q = (f.chan 3).q ++ [x] ∧ x.w1 = BitVec.ofNat 64 (va % 2 ^ 48) ∧ x.w2 = BitVec.ofNat 64 (p.fidx % 2 ^ 32)) ∧
    (Spec.commandDue f e m ms → p.st = .draining →
      let y := f.lane e m.c laneMD
      let v := (f.elem e).node.cell (mI0 m.pb + m.idx / mN m.pb) (mJ0 m.pb + m.idx % mN m.pb)
      (2 ≤ y.occ f.clock → ∃ t, exec (.mdDrainToken e) s = .next t ∧ t.fab.lane e m.c laneMD = y ∧
        (t.fab.elem e).mq = { m with due := f.clock + 1 } :: ms ∧ (t.fab.elem e).node = (f.elem e).node ∧ t.fab.mem = f.mem) ∧
      (y.occ f.clock < 2 → v.p = false → (f.elem e).node.marks = [] → (f.elem e).node.i32 = true → mFa m.pb = .i32 →
        ∃ t, exec (.mdDrainToken e) s = .next t ∧
          t.fab.lane e m.c laneMD = { y with pipe := y.pipe ++ [⟨f.clock, f.clock + 1, { v := v.v, ty := .i32 }⟩] } ∧
          (∃ q, (t.fab.elem e).mq = q :: ms ∧ q.idx = m.idx + 1) ∧ (t.fab.elem e).node.cells = (f.elem e).node.cells ∧ t.fab.mem = f.mem))

namespace Sys2Proof.Spec

/-- An element's answer from a cinch is on its way: what it will deliver, and whether it is a refused arrival. -/
def answered (f t : Fab) (e : ElemId) (k v : Nat) (p refused : Bool) : Prop :=
  (∃ h, (t.elem e).hold = some h ∧ h.got = some ⟨BitVec.ofNat 32 v, p, .n32⟩ ∧ h.aux = if refused then [1] else []) ∧
  (⟨f.clock + (if dieOf e = k / 256 then 4 else 16), 0, .instr (.cinchAnswerArrival e)⟩ : Ev) ∈ t.evq

/-- A cinch after its phase: PHASE counts, arrivals, bindings and waiting elements are gone. -/
def phased (x : Cinch) : Cinch := { x with phase := x.phase + 1, arr := 0, binds := [], waits := [] }

end Sys2Proof.Spec

/-- R234-R239: requests of held elements at a cinch: initialise, arrive, arrive and wait, wait, drop, query; an arrival beyond COUNT is refused with
ERR and OVERARRIVE; the last arrival with no byte pending completes the phase and answers those that wait; bytes written are
subtracted; the answer releases the element with the result. -/
def Sys2Proof.Spec.CinchesServeTheirRequests : Prop :=
  (∀ (e : ElemId) (s : State) (h : Hold),
    let f := s.fab
    let x := f.cinch h.h
    let opc := (fld h.op 16 8).toNat
    let var := (fld h.op 4 2).toNat
    let i := Instr.cinchRequestArrival e
    let ends (y : Cinch) : Prop := 0 < y.count ∧ y.count ≤ y.arr ∧ y.pend = 0
    (f.elem e).hold = some h → h.kind = .cinch → mget (h.h / 256) f.dies ≠ some 2 →
    (opc = 0xC4 → x.waits = [] → ∃ t, exec i s = .next t ∧ t.agenda = s.agenda ∧ t.fab.mem = f.mem ∧
      t.fab.cinch h.h = { count := bits (pword (h.row f e).block 1) 0 12 } ∧ Spec.answered f t.fab e h.h 0 false false) ∧
    (opc = 0xC4 → x.waits ≠ [] → ¬ ends x → ∃ t, exec i s = .next t ∧ t.fab.cinch h.h = x ∧ Spec.answered f t.fab e h.h 1 false false) ∧
    (opc = 0xC5 → var = 0 → x.arr + 1 < x.count → ∃ t, exec i s = .next t ∧ (t.fab.elem e).hold = some h ∧
      t.fab.cinch h.h = { x with arr := x.arr + 1, waits := x.waits ++ [e] }) ∧
    (opc = 0xC5 → var = 1 → x.arr + 1 < x.count → ∃ t, exec i s = .next t ∧ t.fab.cinch h.h = { x with arr := x.arr + 1 } ∧
      Spec.answered f t.fab e h.h x.phase.toNat false false) ∧
    (opc = 0xC5 → var = 1 → x.arr + 1 = x.count → x.pend = 0 → x.waits = [] → ∃ t, exec i s = .next t ∧
      t.fab.cinch h.h = Spec.phased x ∧ Spec.answered f t.fab e h.h x.phase.toNat false false) ∧
    (opc = 0xC5 → var = 0 → x.arr + 1 = x.count → x.pend = 0 → ∃ t, exec i s = .next t ∧ t.fab.cinch h.h = Spec.phased x ∧
      ∀ y ∈ x.waits ++ [e], (f.elem y).hold.isSome = true → Spec.answered f t.fab y h.h x.phase.toNat false false) ∧
    (opc = 0xC5 → var ≤ 1 → x.count ≤ x.arr → x.pend ≠ 0 → ∃ t, exec i s = .next t ∧ t.fab.cinch h.h = { x with err := true } ∧
      Spec.answered f t.fab e h.h (poisonOf 4 e).toNat true true) ∧
    (opc = 0xC5 → var = 2 → ¬ ends x → ∃ t, exec i s = .next t ∧ (t.fab.elem e).hold = some h ∧
      t.fab.cinch h.h = { x with waits := x.waits ++ [e] }) ∧
    (opc = 0xC8 → 2 ≤ x.count → x.pend ≠ 0 → ∃ t, exec i s = .next t ∧ t.fab.cinch h.h = { x with count := x.count - 1 } ∧
      Spec.answered f t.fab e h.h 0 false false) ∧
    (opc = 0xC6 → (f.tileOf e h.c (handleOf h.a.v)).isSome = true → (e, handleOf h.a.v) ∉ x.binds → x.binds.length < 8 →
      let y : Cinch := { x with binds := x.binds ++ [(e, handleOf h.a.v)], pend := x.pend + h.b.v.toNat }
      y.pend < 2 ^ 48 → ¬ ends y → ∃ t, exec i s = .next t ∧ t.fab.cinch h.h = y ∧ Spec.answered f t.fab e h.h 0 false false) ∧
    (opc = 0xC7 → ¬ ends x → ∃ t, exec i s = .next t ∧ t.fab.cinch h.h = x ∧
      Spec.answered f t.fab e h.h (bits x.bits (32 * (fld h.op 0 4).toNat) 32) false false)) ∧
  (∀ (die k n : Nat) (s : State), k < 256 →
    let f := s.fab
    let x := f.cinch (256 * die + k)
    let y : Cinch := { x with pend := x.pend - n, err := x.err || decide (x.pend < n) }
    let i := Instr.cinchPendSubtract die k n
    (¬ (0 < y.count ∧ y.count ≤ y.arr ∧ y.pend = 0) → ∃ t, exec i s = .next t ∧ t.agenda = s.agenda ∧ t.fab.cinch (256 * die + k) = y ∧
      t.fab.elems = f.elems ∧ t.fab.mem = f.mem) ∧
    (0 < y.count ∧ y.count ≤ y.arr ∧ y.pend = 0 → ∃ t, exec i s = .next t ∧ t.agenda = s.agenda ∧ t.fab.mem = f.mem ∧
      t.fab.cinch (256 * die + k) = Spec.phased y ∧
      ∀ e ∈ y.waits, (f.elem e).hold.isSome = true → Spec.answered f t.fab e (256 * die + k) x.phase.toNat false false)) ∧
  (∀ (e : ElemId) (s : State) (h : Hold) (v : TV), (s.fab.elem e).hold = some h → h.kind = .cinch → h.got = some v → h.armP = false →
    let r := h.row s.fab e
    let ty := r.resTy .n32
    r.tape = none → ∃ t, exec (.cinchAnswerArrival e) s = .next t ∧ t.agenda = s.agenda ∧ (t.fab.elem e).hold = none ∧ t.fab.mem = s.fab.mem ∧
      (t.fab.slot e h.c).fb = ⟨contained ty { v with ty := ty }, v.p, ty⟩ ∧
      (t.fab.slot e h.c).esr = (s.fab.slot e h.c).esr ∧
      (t.fab.slot e h.c).esrIn = ((s.fab.slot e h.c).esrIn ||| if h.aux = [1] then esrOverarr else 0))

/-- R240-R242: a contribution waits at the root for the rest of its group; a group of one writes its value with the count above it, full, and its answer
ends the participant's job with IDX 1. -/
def Sys2Proof.Spec.CollectivesCombineTheirGroup : Prop :=
  (∀ (k : Nat) (s : State) (x : Contrib) (a : Nat),
    let f := s.fab
    f.colls = [(k, x)] → x.here = false → mget (f.run x.run).root f.dies ≠ some 2 →
    let i := Instr.collContributionArrival k
    (1 < collM x.pb → ∃ t, exec i s = .next t ∧ t.agenda = s.agenda ∧ t.fab = { f with colls := [(k, { x with here := true })] }) ∧
    (collM x.pb = 1 → x.v.p = false → x.due ≤ f.clock → f.migs = [] → (f.elemTranslate x.e .write (collVa x.pb)).1 = .ok a →
      let b := f.job x.e x.slot
      (∀ q ∈ b.waves, f.chainOk x.e b.c b.run b.copy b.frame q = true) →
      let back := f.clock + if dieOf x.e = (f.run x.run).root then 4 else 28
      ∃ t, exec i s = .next t ∧ t.agenda = s.agenda ∧ t.fab.colls = [] ∧ (t.fab.job x.e x.slot).next = back ∧
        (⟨back, 0, .instr (.collRetirement x.e)⟩ : Ev) ∈ t.fab.evq ∧
        ∀ y, memGet t.fab.mem y = if a ≤ y ∧ y < a + 8 then (leBytes 8 (x.v.v.toNat + 2 ^ 32)).getD (y - a) 0 else memGet f.mem y)) ∧
  (∀ (e : ElemId) (s : State), ∃ t, exec (.collRetirement e) s = .next t ∧ t.agenda = s.agenda ∧ t.fab.mem = s.fab.mem ∧ ∀ j : Fin 4,
    let b := s.fab.job e j
    let back := b.live = true ∧ b.opc = 0x98 ∧ b.st = .running ∧ b.next = s.fab.clock
    (back → (t.fab.job e j).st = .done ∧ (t.fab.job e j).cause = 0 ∧ (t.fab.job e j).idx = 1) ∧ (¬ back → t.fab.job e j = b))

/-- R296, R299: the engine accepts the oldest record: an equal decision lengthens its run, a value takes its significant bits and 6 more. R300, R301: a
captured key is the next entry, or sets KOVF where KCAP is reached. R313: a recording whose records are accepted closes. R306: a replay that
has popped its values starts the segment below, whose rows start at its first frame. -/
def Obligations.TapesTakeAndCloseTheirRecords : Prop :=
  (∀ (die : Nat) (s : State),
    (s.fab.nextRecord die = none → exec (.tapeRecordAccept die 1) s = .next s) ∧
    exec (.tapeRecordAccept die 0) s = .next s ∧
    (∀ e c rn k key q, s.fab.nextRecord die = some (e, c, rn, k, key, q) → (s.fab.run rn).regen = none → q.p = false → s.fab.migs = [] →
      let x := s.fab.slot e c
      let v := x.tp.v
      let b := x.tp.b
      let n := sigBits (q.v ^^^ v.last).toNat
      (q.branch = true → b.ch ≠ 65535 → b.run / 128 = (if q.v = 0 then 0 else 1) → b.run % 128 < 127 →
        ∃ t, exec (.tapeRecordAccept die 1) s = .next t ∧ (t.fab.slot e c).recq = x.recq.tail ∧
          (t.fab.slot e c).tp = { x.tp with b := { b with n := b.n + 1, run := b.run + 1 } }) ∧
      (q.branch = false → ((((s.fab.run rn).copy k).rec_).bind (·.ovf)) = none → v.ch ≠ 65535 → v.pos + n + 6 ≤ 192 →
        ∃ t, exec (.tapeRecordAccept die 1) s = .next t ∧ (t.fab.slot e c).recq = x.recq.tail ∧
          (t.fab.slot e c).tp = { x.tp with v := ⟨v.n + 1, q.v, v.ch, v.pos + n + 6⟩ }))) ∧
  (∀ (e : ElemId) (c : Ctx) (s : State) (q : KeyReq),
    let f := s.fab
    (f.slot e c).keyq.find? (fun x => x.saved.isSome && decide (x.due ≤ f.clock)) = some q → Spec.tapeAtD f q.tape →
    ∃ t, exec (.tapeKeyWrite e c) s = .next t ∧ t.agenda = s.agenda ∧ (∀ x ∈ (t.fab.slot e c).keyq, x ≠ q) ∧
      (f.tpKcap q.tape ≤ f.tpKeys q.tape → t.fab.tpFlags q.tape = f.tpFlags q.tape ||| 2 ∧ t.fab.tpKeys q.tape = f.tpKeys q.tape) ∧
      (f.tpKeys q.tape < f.tpKcap q.tape → t.fab.tpKeys q.tape = f.tpKeys q.tape + 1 ∧ t.fab.tpFlags q.tape = f.tpFlags q.tape)) ∧
  (∀ (die k rn : Nat) (s : State) (r : Run) (cp : Copy) (w : Recording),
    let f := s.fab
    f.runs = [(rn, r)] → r.copies = [cp] → cp.rec_ = some w → w.key = 16 * die + k → Spec.tapeAtD f w.key →
    (f.mayClose r cp = false → exec (.tapeClose die k) s = .next s) ∧
    (f.mayClose r cp = true → ∃ t, exec (.tapeClose die k) s = .next t ∧ t.agenda = s.agenda ∧ t.fab.tpState w.key = 1 ∧
      ((t.fab.run rn).copy 0).rec_ = some { w with over_ := true } ∧ (∃ x, mget w.key t.fab.tapes = some x ∧ x.openRec = false ∧
        x.lastUse = f.clock ∧ x.held = cp.held))) ∧
  (∀ (die k rn : Nat) (s : State) (r : Run) (cp : Copy) (p : Replay),
    let f := s.fab
    let key := 16 * die + k
    f.runs = [(rn, r)] → rn < f.seq → r.copies = [cp] → cp.replay = some p → p.key = some key → p.seg = none →
    (f.needsSegment r cp p f.clock = false → exec (.tapeRegeneration die k) s = .next s) ∧
    (∀ lo hi, f.needsSegment r cp p f.clock = true →
      let c := f.tapeSlot cp p.slot
      let sh := (f.slot (fieldNo cp.ox cp.oy) c).share.getD {}
      f.forwardSlot key cp c = true → f.segmentOf key cp c (p.next - 1) = some (lo, hi) → (∀ e ∈ cp.elems, (f.slot e c).st ≠ .running) →
      ∃ t x y, exec (.tapeRegeneration die k) s = .next t ∧ t.agenda = s.agenda ∧ t.fab.mem = f.mem ∧
        ((t.fab.run rn).copy 0).replay = some { p with seg := some (lo, hi, some f.seq) } ∧ mget f.seq t.fab.runs = some x ∧
        x.regen = some (rn, 0) ∧ x.ctx = c ∧ x.copies.getLast? = some y ∧ y.g = lo * sh.ii ∧ y.start = f.clock + 8 ∧
        y.stop = some ((hi + 1) * sh.ii)))

/-- Cinches serve requests; collectives combine their group. -/
def Obligations.CinchesAndCollectives : Prop :=
  Spec.CinchesServeTheirRequests ∧ Spec.CollectivesCombineTheirGroup

/-! ## Modes, runs, operations of the field, cuts -/

namespace Sys2Proof.Spec

/-- One message behind those of a channel, which has room for it. -/
def tells (f t : Fab) (ch : Nat) (w0 w2 w3 : Nat) (p : Nat) : Prop :=
  (t.chan ch).q = (f.chan ch).q ++ [⟨BitVec.ofNat 64 w0, BitVec.ofNat 64 (f.ctr p), BitVec.ofNat 64 w2, BitVec.ofNat 64 w3⟩]

/-- Pommel is not halted and a channel has room. -/
def heard (f : Fab) (ch : Nat) : Prop := f.pom.halted = false ∧ (f.chan ch).q.length < chanDepth ch

end Sys2Proof.Spec

/-- R327, R334: a table rises at its tick: it is the partition's active table, its records count from zero, its counter value bases the periodic starts,
and event 4 is queued. R335, R321: at a mode-change point the pending switch takes effect with event 2, and the phase step moves the counter and
the start ticks and deadlines of the partition's runs; with neither nothing changes in the partition. -/
def Obligations.TablesRiseAndModesChange : Prop :=
  (∀ (p : Nat) (s : State),
    let f := s.fab
    let i := Instr.tableActivation p
    ((f.part p).rising = none → exec i s = .next s) ∧
    (∀ m, (f.part p).rising = some (m, none) → exec i s = .next s) ∧
    (∀ m u, (f.part p).rising = some (m, some u) → f.ctr p < u → exec i s = .next s) ∧
    (∀ m u, (f.part p).rising = some (m, some u) → u ≤ f.ctr p → Spec.heard f 4 →
      ∃ t, exec i s = .next t ∧ t.agenda = s.agenda ∧ t.fab.mem = f.mem ∧ t.fab.runs = f.runs ∧
        t.fab.part p = { f.part p with active := some m, base := f.ctr p, pend := none, rising := none, records := 0 } ∧
        Spec.tells f t.fab 4 (7 * 2 ^ 56 + 4 * 2 ^ 48 + p * 2 ^ 40 + m % 8 * 2 ^ 37) 0 0 p)) ∧
  (∀ (p : Nat) (s : State), (s.fab.part p).toSpare = [] →
    let f := s.fab
    let i := Instr.modeChangePoint p
    ((f.part p).pend = none → (f.part p).step = 0 → ∃ t, exec i s = .next t ∧ t.agenda = s.agenda ∧ t.fab.part p = f.part p ∧
      t.fab.runs = f.runs ∧ t.fab.chans = f.chans ∧ t.fab.mem = f.mem) ∧
    (∀ m, (f.part p).pend = some m → (f.table p m).isSome = true → (f.part p).step = 0 → Spec.heard f 4 →
      ∃ t, exec i s = .next t ∧ t.agenda = s.agenda ∧ t.fab.runs = f.runs ∧ t.fab.mem = f.mem ∧
        t.fab.part p = { f.part p with active := some m, base := f.ctr p, pend := none } ∧
        Spec.tells f t.fab 4 (7 * 2 ^ 56 + 2 * 2 ^ 48 + p * 2 ^ 40 + m % 8 * 2 ^ 37) ((f.part p).active.getD 0 + m * 2 ^ 8) 0 p) ∧
    ((f.part p).pend = none → (f.part p).step ≠ 0 → ∃ t, exec i s = .next t ∧ t.agenda = s.agenda ∧ t.fab.mem = f.mem ∧
      let moved (n : Nat) : Nat := ((n : Int) + (f.part p).step).toNat
      (t.fab.part p).ctr = moved (f.part p).ctr ∧ (t.fab.part p).base = moved (f.part p).base ∧ (t.fab.part p).step = 0 ∧
        ∀ k r, mget k f.runs = some r → mget k t.fab.runs = some (if r.part = p ∧ r.regen = none then
          { r with dl := moved r.dl, copies := r.copies.map fun x => { x with start := moved x.start } } else r)))

/-- R329, R24: an instance before its start tick, or behind a run of its slot, goes on waiting; one whose fresh bits are set and whose count is known
starts: its run holds every slot of its regions; a fallback on a failed element ends at once, tainted, with a record. R330: the count is
taken from a full word, which it empties, and is clamped; an empty word parks the take. -/
def Obligations.InstancesStartWhenTheyMay : Prop :=
  ∀ (p k : Nat) (s : State) (x : Inst), mget k s.fab.insts = some x → x.part = p →
    let f := s.fab
    let i := Instr.runStart p k
    (f.ctr p < x.start → exec i s = .next s) ∧
    (x.start ≤ f.ctr p → f.eligible x = .busy → exec i s = .next s) ∧
    (∀ c b, x.start ≤ f.ctr p → f.eligible x = .ok c → f.behind k x = false → f.allFresh x = true → x.cnt = .known b →
      ∃ t r, exec i s = .next t ∧ t.agenda = s.agenda ∧ t.fab.mem = f.mem ∧ mget k t.fab.insts = none ∧ mget k t.fab.runs = some r ∧
        r.part = p ∧ r.mode = x.mode ∧ r.entry = x.entry ∧ r.ctx = c ∧ r.n = x.n ∧ r.dl = x.dl ∧ r.tag = f.instTag x ∧ r.torn = .no ∧
        (∀ y ∈ r.copies, ∀ e ∈ y.elems, (t.fab.slot e c).st = .running ∧ ∃ n, (t.fab.slot e c).run = some (k, n)) ∧
        ((f.ent p x.mode x.entry).fresh = [] → r.verdict = 0)) ∧
    (x.start ≤ f.ctr p → f.eligible x = .failed → x.fb.isSome = true → (f.table p x.mode).isSome = true →
      ∃ t, exec i s = .next t ∧ t.agenda = s.agenda ∧ mget k t.fab.insts = none ∧ t.fab.runs = f.runs ∧
        (t.fab.part p).records = (f.part p).records + 1 ∧ (t.fab.ent p x.mode x.entry).last = 2) ∧
    (∀ va a, x.cnt = .take va ∨ x.cnt = .parked va → (f.translate (some p) (f.part p).safety .sync va).1 = .ok a → f.tag a < 2 → f.migs = [] →
      (f.full a = false → ∃ t, exec (.countTake p k) s = .next t ∧ t.fab.mem = f.mem ∧ t.fab.tags = f.tags ∧
        mget k t.fab.insts = some { x with cnt := .parked va }) ∧
      (f.full a = true → f.load a 4 ≠ 0 → ∃ t, exec (.countTake p k) s = .next t ∧ t.fab.mem = f.mem ∧ t.fab.full a = false ∧
        let most := ((f.entry p x.mode x.entry).getD {}).frames
        mget k t.fab.insts = some { x with n := min (f.load a 4) most, cnt := .known (decide (most < f.load a 4)) }))

/-- R331, R332, R352: a run that has not retired at its deadline tick is torn down, tainted, with OVERRUN, and its copies take the teardown token; a purge
raises the verdict to purged with TORN. R333: a record is written once all copies have retired and no job or command is left: it counts, its entry keeps its
verdict, and event 1 names it. R367: two copies that agree end the vote; a disagreement calls copy 2 four ticks later; copy 2 decides. -/
def Obligations.RunsEndWithARecord : Prop :=
  (∀ (k : Nat) (s : State) (r : Run), mget k s.fab.insts = none → mget k s.fab.runs = some r →
    let f := s.fab
    let i := Instr.deadline k
    ((r.torn ≠ .no ∨ r.regen.isSome = true) → exec i s = .next s) ∧
    (r.want = .no → f.ctr r.part < r.dl ∨ f.retired k = true → exec i s = .next s) ∧
    (r.torn = .no → r.regen = none → r.fallback = true ∨ r.fbStarted = true ∨ f.fallbackOf r.part r.mode r.entry = none → r.vote ≤ 1 →
      (r.want = .no → r.dl ≤ f.ctr r.part → f.retired k = false → ∃ t, exec i s = .next t ∧ t.agenda = s.agenda ∧ (t.fab.run k).torn = .deadline ∧
        (t.fab.run k).verdict = max r.verdict 2 ∧ (t.fab.run k).flagsA = r.flagsA ||| 1 ∧ (t.fab.run k).copies.length = r.copies.length ∧
        ∀ y ∈ (t.fab.run k).copies, y.passed = true) ∧
      (r.want = .purge → ∃ t, exec i s = .next t ∧ t.agenda = s.agenda ∧ (t.fab.run k).torn = .purge ∧
        (t.fab.run k).verdict = max r.verdict 3 ∧ (t.fab.run k).flagsA = r.flagsA ||| 128)) ∧
    (∀ fb en, r.torn = .no → r.regen = none → r.fallback = false → r.fbStarted = false → f.fallbackOf r.part r.mode r.entry = some fb →
      f.entry r.part r.mode r.entry = some en → r.vote ≤ 1 → r.want = .no → r.dl ≤ f.ctr r.part →
      f.retired k = false → ∃ t z, exec i s = .next t ∧ t.agenda = s.agenda ∧ (t.fab.run k).torn = .deadline ∧ (t.fab.run k).fbStarted = true ∧
        mget f.seq t.fab.insts = some z ∧ z.fb = some fb ∧ z.start = f.ctr r.part ∧ z.dl = f.ctr r.part + en.dline ∧ z.n = en.fframes ∧
        z.tag = r.tag) ∧
    (f.recordReady k = false → exec (.completionRecordWrite k) s = .next s) ∧
    (∀ tb, f.recordReady k = true → f.table r.part r.mode = some tb → Spec.heard f 4 → (∀ y ∈ r.copies, y.rec_ = none ∧ y.replay = none) →
      let q := f.part r.part
      let va := tb.recva + 64 * (q.records % 2 ^ tb.recn)
      ∃ t, exec (.completionRecordWrite k) s = .next t ∧ t.agenda = s.agenda ∧ mget k t.fab.runs = none ∧
        (t.fab.part r.part).records = q.records + 1 ∧ (t.fab.ent r.part r.mode r.entry).last = r.verdict ∧
        (f.recordBytes r).length = 64 ∧ t.fab.mem = (f.sysPutFull va (f.recordBytes r) 8).mem ∧
        Spec.tells f t.fab 4 (7 * 2 ^ 56 + 2 ^ 48 + r.part * 2 ^ 40 + r.mode % 8 * 2 ^ 37 + r.entry % 512 * 2 ^ 28 + r.tag.toNat)
          (r.verdict + r.flagsA.toNat * 2 ^ 8 + r.flagsB.toNat * 2 ^ 16) va r.part)) ∧
  (∀ (k : Nat) (s : State) (r : Run) (b : BitVec 256) (a : Nat), mget k s.fab.runs = some r → r.voteBlock = some b →
    let f := s.fab
    let i := Instr.voteCompare k
    let va := pword b 0 + bits (pword b 1) 0 16 * 2 ^ 32
    (f.translate (some r.part) (f.part r.part).safety .write va).1 = .ok a → f.migs = [] →
    (r.vote ≠ 1 → r.vote ≠ 3 → exec i s = .next s) ∧
    (r.vote = 1 → r.differ 0 1 = [] → 2 < r.copies.length → ∃ t, exec i s = .next t ∧ (t.fab.run k).vote = 4 ∧ (t.fab.run k).verdict = r.verdict ∧
      ((t.fab.run k).copy 2).passed = true ∧ t.fab.load a 8 = 0 ∧ t.fab.full a = true) ∧
    (r.vote = 1 → r.differ 0 1 ≠ [] → ∃ t, exec i s = .next t ∧ (t.fab.run k).vote = 2 ∧ t.fab.mem = f.mem ∧
      (⟨f.clock + 4, 0, .instr (.voteCopyStart k)⟩ : Ev) ∈ t.fab.evq) ∧
    (r.vote = 3 → r.differ 0 1 ≠ [] → r.differ 0 2 = [] → ∃ t, exec i s = .next t ∧ (t.fab.run k).vote = 4 ∧
      (t.fab.run k).verdict = max r.verdict 1 ∧ t.fab.load a 8 % 2 ^ 16 = 4 ∧ t.fab.full a = true) ∧
    (r.vote = 3 → r.differ 0 2 ≠ [] → r.differ 1 2 ≠ [] → ∃ t, exec i s = .next t ∧ (t.fab.run k).vote = 4 ∧
      (t.fab.run k).verdict = max r.verdict 2 ∧ t.fab.load a 8 % 2 ^ 16 = 15 ∧ t.fab.host.fault = true) ∧
    (r.vote ≠ 2 → exec (.voteCopyStart k) s = .next s) ∧
    (r.vote = 2 → 2 < r.copies.length → ∃ t, exec (.voteCopyStart k) s = .next t ∧ t.agenda = s.agenda ∧
      t.fab.run k = { r with copies := r.copies.set 2 { r.copy 2 with start := f.ctr r.part } } ∧ t.fab.mem = f.mem))

/-- R345: a loaded share makes its slot RESIDENT in the state of a slot load, frees its tiles and is told on the reply channel. R339: a
partition-mode change zeroes LPDDR6 below the reserve and sets up the partitions of its mode. R340: a die goes offline once no run covers it and its data is evacuated.
R341, R262, R363: a spare has its element's place, with its state or empty, behind the group that a multiply feeds; a multiply that the move stopped goes on. -/
def Obligations.OperationsOfTheFieldEnd : Prop :=
  ∀ (k : Nat) (s : State),
    let f := s.fab
    (∀ p m e l u x c ch sh, mget k f.ops = some (.load p m e l u [(x, c)] (some ch)) → (f.slot x c).share = some sh → (f.slot x c).st = .loading →
      u + sh.loadTicks ≤ f.clock → Spec.heard f ch → ch < 64 →
      ∃ t, exec (.ctxldDone k) s = .next t ∧ t.agenda = s.agenda ∧ mget k t.fab.ops = none ∧
        (t.fab.slot x c).st = .resident ∧ (t.fab.slot x c).share = some sh ∧ (t.fab.slot x c).run = none ∧
        (t.fab.slot x c).regs = Vector.replicate 32 {} ∧ (t.fab.slot x c).emr = 0x00010000 ∧ (t.fab.slot x c).esr = 0 ∧
        (∀ h y, mget h (t.fab.elem x).tiles = some y → y.ctx ≠ c) ∧ (∀ y, y ≠ c → t.fab.slot x y = f.slot x y) ∧
        (∀ y, y ≠ x → t.fab.elem y = f.elem y) ∧
        Spec.tells f t.fab ch (7 * 2 ^ 56 + 3 * 2 ^ 48 + p * 2 ^ 40 + m % 8 * 2 ^ 37 + e % 512 * 2 ^ 28 + ((f.entry p m e).getD {}).tag.toNat)
          (l.val + c.val * 2 ^ 8) 0 p) ∧
    (∀ p m e l u x c ch sh, mget k f.ops = some (.load p m e l u [(x, c)] ch) → (f.slot x c).share = some sh → f.clock < u + sh.loadTicks →
      ∃ t, exec (.ctxldDone k) s = .next t ∧ t.fab.elems = f.elems ∧ mget k t.fab.ops = mget k f.ops) ∧
    (∀ mode ch, mget k f.ops = some (.partm mode (some ch) none) → Spec.heard f ch → ch < 64 → 0 < mode →
      let reserve := f.cap - 2 ^ 30
      ∃ t, exec (.partmDone k) s = .next t ∧ t.agenda = s.agenda ∧ mget k t.fab.ops = none ∧ t.fab.pmode = mode ∧ t.fab.dies = [] ∧
        (∀ a, memGet t.fab.mem a = if a < reserve then 0 else memGet f.mem a) ∧ (∀ a, a < reserve → a % 8 = 0 → t.fab.tag a = 0) ∧
        (∀ p, p < mode → (t.fab.part p).active = none ∧ (t.fab.part p).root = none ∧ (t.fab.part p).ctr = (f.part 0).ctr ∧
          (t.fab.part p).lo = p * f.cap / mode ∧ (t.fab.part p).hi = if p + 1 = mode then reserve else (p + 1) * f.cap / mode) ∧
        ∃ x, (t.fab.chan ch).q = (f.chan ch).q ++ [x] ∧ x.w0 = BitVec.ofNat 64 (7 * 2 ^ 56 + 5 * 2 ^ 48)) ∧
    (∀ d forced ch tag a b, mget k f.ops = some (.doff d forced ch tag a b) →
      (f.runsOnDie d ≠ [] → ∃ t, exec (.doffDone k) s = .next t ∧ t.fab.dies = f.dies ∧ t.fab.ops = f.ops ∧ t.fab.mem = f.mem ∧
        (⟨f.clock + 1, 0, .instr (.doffDone k)⟩ : Ev) ∈ t.fab.evq) ∧
      (f.runsOnDie d = [] → f.homedOn d = [] → ∃ t, exec (.doffDone k) s = .next t ∧ mget k t.fab.ops = none ∧ mget d t.fab.dies = some 2 ∧
        t.fab.mem = f.mem)) ∧
    (∀ e copied, mget k f.ops = some (.spare e none copied) →
      let p := (f.elem e).node.prg
      let stopped := p.st = .stopped ∧ p.cause = 6
      (p.st = .feeding → exec (.spareDone k) s = .next { s with fab := { f with evq := f.evq ++ [⟨f.clock + 1, 0, .instr (.spareDone k)⟩] } }) ∧
      (p.st ≠ .feeding → ∃ t, exec (.spareDone k) s = .next t ∧ t.agenda = s.agenda ∧ mget k t.fab.ops = none ∧
        (copied = false → t.fab.elem e = {}) ∧ (copied = true → ¬ stopped → t.fab.elem e = f.elem e) ∧
        (copied = true → stopped → (t.fab.elem e).node.prg = { p with st := .feeding, cause := 0 } ∧
          (t.fab.elem e).node.cells = (f.elem e).node.cells ∧ (t.fab.elem e).slots = (f.elem e).slots) ∧
        (∀ y, y ≠ e → t.fab.elem y = f.elem y) ∧ t.fab.mem = f.mem))

/-- R357, R360: a rollback begins for a complete cut not rolled back to yet: the region is frozen for at least 64 ticks, and its restore gives every element the state of
the cut and the row behind it; without a usable cut the run is tainted. R362: a share is loaded again while its regions are frozen,
and the verdict is then at least corrected. R363: a machine check purges the runs that cover the element, fails it and asks for
its spare. R364, R365: a keeper moves cyclically; a mismatch taints the run and marks the element. -/
def Obligations.ErrorsAreContained : Prop :=
  (∀ (rn k : Nat) (s : State) (r : Run), mget rn s.fab.runs = some r → k < r.copies.length → r.torn = .no →
    let f := s.fab
    let cp := r.copy k
    let i := Instr.rollback rn k
    (∀ n g, cp.rollAt = none → cp.cutDone = some (n, g) → cp.rolled ≠ some n → ∃ t d, exec i s = .next t ∧ t.agenda = s.agenda ∧
      (t.fab.run rn).rollbacks = r.rollbacks + 1 ∧ (t.fab.run rn).verdict = r.verdict ∧
      let y := (t.fab.run rn).copy k
      y.rolled = some n ∧ y.replayTo = some cp.evRow ∧ y.rollAt = some d ∧ f.clock + 65 ≤ d ∧ d ≤ y.frozen ∧
        (⟨d, 0, .instr (.rollback rn k)⟩ : Ev) ∈ t.fab.evq) ∧
    (∀ t0 n g, cp.rollAt = some t0 → cp.cutDone = some (n, g) → f.clock < t0 → exec i s = .next s) ∧
    (∀ t0 n g, cp.rollAt = some t0 → cp.cutDone = some (n, g) → t0 ≤ f.clock → (∀ e ∈ cp.elems, f.rollWaits rn r e = false) →
      (∀ q, cp.replay = some q → q.seg = none) →
      ∃ t, exec i s = .next t ∧ t.agenda = s.agenda ∧ ((t.fab.run rn).copy k).g = g + 1 ∧ ((t.fab.run rn).copy k).rollAt = none ∧
        ((t.fab.run rn).copy k).cutNext = n + 1 ∧ ∀ e ∈ cp.elems,
          let b := ((f.slot e r.ctx).snap.getD (n.toNat % 2) {}).body
          let u := t.fab.slot e r.ctx
          u.regs = b.regs ∧ u.emr = b.emr ∧ u.esr = b.esr ∧ u.fb = b.fb ∧ u.lt = b.lt ∧ u.latch = b.latch ∧ u.cnt = b.cnt ∧ u.dly = b.dly) ∧
    (cp.rollAt = none → cp.cutDone = none → cp.replayTo = none → ∃ t, exec i s = .next t ∧ t.agenda = s.agenda ∧
      t.fab = { f with runs := mput rn { r with verdict := max r.verdict 2 } f.runs })) ∧
  (∀ (e : ElemId) (c : Ctx) (s : State) (sh : Share),
    let f := s.fab
    let i := Instr.configReload e c
    (f.slot e c).share = some sh →
    ((f.slot e c).reload = none → ∃ t, exec i s = .next t ∧ t.agenda = s.agenda ∧ t.fab.mem = f.mem ∧
      let d := f.clock + sh.loadTicks
      (t.fab.slot e c) = { f.slot e c with reload := some d } ∧ (⟨d, 0, .instr i⟩ : Ev) ∈ t.fab.evq ∧
        ∀ rn k r, (f.slot e c).run = some (rn, k) → mget rn f.runs = some r → k < r.copies.length → d ≤ ((t.fab.run rn).copy k).frozen) ∧
    (∀ u, (f.slot e c).reload = some u → f.clock < u → exec i s = .next s) ∧
    (∀ u, (f.slot e c).reload = some u → u ≤ f.clock → ∃ t, exec i s = .next t ∧ t.agenda = s.agenda ∧ (t.fab.slot e c).reload = none ∧
      (t.fab.slot e c).regs = (f.slot e c).regs ∧
        ∀ rn k r, (f.slot e c).run = some (rn, k) → mget rn f.runs = some r → (t.fab.run rn).verdict = max r.verdict 1)) ∧
  (∀ (e : ElemId) (s : State), (mget (dieOf e) s.fab.spares).isSome = false → ∃ t, exec (.machineCheck e) s = .next t ∧ t.agenda = s.agenda ∧
    (t.fab.elem e).failed = true ∧ (∀ c : Ctx, (t.fab.slot e c).regs = (s.fab.slot e c).regs) ∧
    (t.fab.part (s.fab.partOfElem e)).toSpare = (s.fab.part (s.fab.partOfElem e)).toSpare ++ [(e, false)] ∧
    (Spec.heard s.fab 3 → ∃ x xs, (t.fab.chan 3).q = (s.fab.chan 3).q ++ x :: xs ∧
      x.w0 = BitVec.ofNat 64 (8 * 2 ^ 56 + 4 * 2 ^ 48 + xOf e * 2 ^ 42 + yOf e * 2 ^ 37 + s.fab.partOfElem e % 8 * 2 ^ 32)) ∧
    ∀ (c : Ctx) rn k r, (∀ (y : Ctx) j n, (s.fab.slot e y).run = some (j, n) → mget j s.fab.insts = none) →
      (s.fab.slot e c).run = some (rn, k) → mget rn s.fab.runs = some r → r.regen = none → r.torn = .no →
        (t.fab.run rn).torn = .purge ∧ (t.fab.run rn).verdict = max r.verdict 3) ∧
  (∀ (die row : Nat) (s : State) (q : Keeper), mget (16 * die + row) s.fab.keepers = some q →
    ∃ t, exec (.keeperAdvance die row) s = .next t ∧ t.agenda = s.agenda ∧ t.fab = { s.fab with keepers := t.fab.keepers } ∧
      mget (16 * die + row) t.fab.keepers = some (if q.k = 0 then q else { q with col := (q.col + 1) % 20 }) ∧
      ∀ j, j ≠ 16 * die + row → mget j t.fab.keepers = mget j s.fab.keepers) ∧
  (∀ (n : Nat) (s : State) (x : KeepCap), mget n s.fab.keepq = some x →
    let p := s.fab.partOfElem x.e
    (x.row = x.own → ∃ t, exec (.keeperCompare n) s = .next t ∧ t.agenda = s.agenda ∧ t.fab = { s.fab with keepq := mdel n s.fab.keepq }) ∧
    (x.row ≠ x.own → (s.fab.elem x.e).suspectAt = none → ∃ t, exec (.keeperCompare n) s = .next t ∧ t.agenda = s.agenda ∧
      (t.fab.elem x.e).suspectAt = some (s.fab.ctr p) ∧ (∀ r, mget x.run s.fab.runs = some r → (t.fab.run x.run).verdict = max r.verdict 2) ∧
      t.fab.mem = s.fab.mem))

/-! ## Package, host writes and the partner part -/

/-- R133, R190, R14: power-up with good helper data leaves the part READY over an empty system table in the reserve with the spares of the self-test; without it the part
has FAILED; it happens once. R129, R336: the level asked for takes effect, and level 7 requests the safe mode. R375: the ingress
registers are written while EN is 0, and EN needs feature 10. R374: a write clears VALID and leaves FAULT_N. R372: a lost fabric die is
a forced DOFF, another die a safety event. -/
def Obligations.PowerThrottleAndRegisters : Prop :=
  (∀ (helper : Bool) (os : List SelfTest) (s : State),
    let f := s.fab
    let i := Instr.powerUp helper os
    (f.host.partState ≠ 0 → exec i s = .next s) ∧
    (f.host.partState = 0 → helper = false → ∃ t, exec i s = .next t ∧ t.agenda = s.agenda ∧
      t.fab = { f with host := { f.host with partState := 2 } }) ∧
    (f.host.partState = 0 → helper = true → os.length = 6 → ∃ t, exec i s = .next t ∧ t.agenda = s.agenda ∧ t.fab.host.partState = 1 ∧
      t.fab.host.selfTest = os ∧ t.fab.sysRoot = some (f.cap - 2 ^ 30) ∧ t.fab.mem = f.mem ∧
      (∀ d e, d < 6 → os[d]? = some (.replaced e) → mget d t.fab.spares = some e) ∧
      (∀ d, d < 6 → (∀ e, os[d]? ≠ some (.replaced e)) → mget d t.fab.spares = mget d f.spares))) ∧
  (∀ (d : Nat) (s : State), d < 10 →
    let f := s.fab
    let l := max (f.block d).lvl (f.block d).floor
    let p := partOf f.pmode d
    let i := Instr.throttleLevelApply d
    (l ≠ 7 → ∃ t, exec i s = .next t ∧ t.agenda = s.agenda ∧ t.fab = f.modBlock d fun b => { b with eff := l }) ∧
    (∀ m tb, l = 7 → (f.part p).active = some m → f.table p m = some tb →
      ∃ t, exec i s = .next t ∧ t.agenda = s.agenda ∧ (t.fab.block d).eff = 7 ∧
        (tb.safe = 255 ∨ f.table p tb.safe = none → t.fab.part p = f.part p) ∧
        (tb.safe ≠ 255 → (f.table p tb.safe).isSome = true → p < f.pmode →
          t.fab.part p = { f.part p with pend := if m = tb.safe then none else some tb.safe }))) ∧
  (∀ (a : BitVec 24) (v : W64) (s : State) (p : Nat), p < 20 → a.toNat = 8 * 2 ^ 16 + 0x1000 + 32 * p ∨ a.toNat = 8 * 2 ^ 16 + 0x1000 + 32 * p + 8 →
    let f := s.fab
    let x := f.ing p
    ((f.ing p).en = true → exec (.ingcfgWrite a v) s = .next s) ∧
    (x.en = false → ∃ t, exec (.ingcfgWrite a v) s = .next t ∧ t.agenda = s.agenda ∧
      (∀ q, q < 20 → q ≠ p → t.fab.ing q = f.ing q) ∧
      t.fab.ing p = if a.toNat % 32 = 0 then { x with base := v.setWidth 48 }
        else { x with nslot := (v.extractLsb' 0 16).toNat, ssize := (v.extractLsb' 16 16).toNat
                      en := v.getLsbD 32 && (f.host.features.getD 0).getLsbD 10 })) ∧
  (∀ (v : W64) (s : State), ∃ t, exec (.safeevWrite v) s = .next t ∧ t.agenda = s.agenda ∧ t.fab.host.fault = s.fab.host.fault ∧
    t.fab.host.safeev = if v.getLsbD 63 then s.fab.host.safeev &&& 0x7FFFFFFFFFFFFFFF else s.fab.host.safeev) ∧
  (∀ (d : Nat) (s : State),
    let f := s.fab
    let i := Instr.dieLinkRetrainFailure d
    (d < 6 → mget d f.dies ≠ some 2 → (f.host.features.getD 0).getLsbD 9 = true → f.opBusy = false → f.runsOnDie d = [] →
      ∃ t, exec i s = .next t ∧ t.agenda = s.agenda ∧ mget d t.fab.dies = some 1 ∧ t.fab.elems = f.elems ∧ t.fab.mem = f.mem ∧
        mget f.seq t.fab.ops = some (.doff d true none none 0 0) ∧ (⟨f.clock + 1, 0, .instr (.doffDone f.seq)⟩ : Ev) ∈ t.fab.evq) ∧
    (6 ≤ d → d < 9 → ∃ t, exec i s = .next t ∧ t.agenda = s.agenda ∧ t.fab.host.fault = true ∧ t.fab.host.msix = f.host.msix ++ [1] ∧
      t.fab.host.safeev = BitVec.ofNat 64 (2 ^ 63 + 0x1FF * 2 ^ 16) ∧ t.fab.elems = f.elems ∧ t.fab.mem = f.mem))

namespace Sys2Proof.Spec

/-- The bytes of a list stand at a place, and every other byte is as it was. -/
def written (f t : Fab) (a : Nat) (bs : List Byte) : Prop :=
  ∀ y, memGet t.mem y = if a ≤ y ∧ y < a + bs.length then bs.getD (y - a) 0 else memGet f.mem y

end Sys2Proof.Spec

/-- R228, R186: a host write stands where its address translates, and nowhere else. R211, R214: a partner's word is accepted in the window alone, with its F and
poison; one outside it is refused, and ends the job that sent it with BOUNDS. R212: a mirror copy clears its half's state, writes its words, then the
header. R376: a frame that finds its slot full, or its port off, is dropped; one that enters advances NEXT and the sequence number. R378,
R380, R381: heartbeats are sent with the part's state and counter, a received one starts the timer again, its expiry or
PFAULT declares the partner failed, once, with a message on channel 2; a cut link stays cut. -/
def Obligations.OutsideWritesAndPartner : Prop :=
  (∀ (a : W64) (b : Byte) (s : State), s.fab.migs = [] →
    (∀ x, (s.fab.sysTranslate .write a.toNat).1 = .error x → ∃ t, exec (.hostWrite a [b]) s = .next t ∧ t.agenda = s.agenda ∧
      t.fab.mem = s.fab.mem ∧ t.fab.elems = s.fab.elems) ∧
    (∀ x, (s.fab.sysTranslate .write a.toNat).1 = .ok x → ∃ t, exec (.hostWrite a [b]) s = .next t ∧ t.agenda = s.agenda ∧
      Spec.written s.fab t.fab x [b] ∧ t.fab.elems = s.fab.elems ∧ t.fab.tags = s.fab.tags) ∧
    (∀ bs, ∃ t, exec (.hostWrite a bs) s = .next t ∧ t.agenda = s.agenda ∧ t.fab.elems = s.fab.elems ∧ t.fab.tags = s.fab.tags)) ∧
  (∀ (job va : Nat) (w : W64) (p full : Bool) (s : State), s.fab.migs = [] →
    let f := s.fab
    let b := f.beryl
    let i := Instr.mirrorWriteReceive (.xfer job va w p full)
    (va < b.xva.toNat ∨ b.xva.toNat + b.xlen < va + 8 →
      exec i s = .next { s with fab := { f with beryl := { b with cue := b.cue ++ [(1, .refusal job va)] } } }) ∧
    (∀ x, b.xva.toNat ≤ va → va + 8 ≤ b.xva.toNat + b.xlen → (f.sysTranslate .write va).1 = .ok x → x < 2 ^ 64 →
      ∃ t, exec i s = .next t ∧ t.agenda = s.agenda ∧ Spec.written f t.fab x (leBytes 8 w.toNat) ∧ t.fab.full x = full ∧
        (p = true → t.fab.poisoned x = true) ∧ t.fab.elems = f.elems)) ∧
  (∀ (e : ElemId) (j : Fin 4) (va : Nat) (s : State), e < 2048 →
    let b := s.fab.job e j
    let i := (va - xfVa b.pb) / 8
    b.live = true → b.st = .running → b.opc = 0x96 → xfRemote b.pb = true → i < b.idx →
    ∃ t, exec (.mirrorWriteReceive (.refusal (4 * e + j.val) va)) s = .next t ∧ t.agenda = s.agenda ∧ (t.fab.job e j).st = .aborted ∧
      (t.fab.job e j).cause = 1 ∧ (t.fab.job e j).idx = i ∧ t.fab.mem = s.fab.mem) ∧
  (∀ (slot : Nat) (cut : W32) (s : State),
    let f := s.fab
    let b := f.beryl
    let half := b.mva.toNat + slot * b.ssize + cut.toNat % 2 * (b.ssize / 2)
    (∀ x, slot < b.nslot → 64 ≤ b.ssize / 2 → f.migs = [] → (f.sysTranslate .write (half + 12)).1 = .ok x →
      ∃ t, exec (.mirrorWriteReceive (.mirrorBegin slot cut)) s = .next t ∧ t.agenda = s.agenda ∧ Spec.written f t.fab x [0] ∧
        t.fab.elems = f.elems) ∧
    (∀ n bs, slot < b.nslot → 64 + 8 * n + bs.length ≤ b.ssize / 2 →
      exec (.mirrorWriteReceive (.mirrorWord slot cut n bs false)) s = .next { s with fab := f.sysPut (half + 64 + 8 * n) bs }) ∧
    (∀ socket x y len crc, slot < b.nslot → 64 + len ≤ b.ssize / 2 →
      let header : List Byte := leBytes 4 cut.toNat ++ leBytes 4 len ++ leBytes 4 crc.toNat ++ [1, BitVec.ofNat 8 socket] ++
        leBytes 2 (x * 2 ^ 8 + y) ++ List.replicate 48 0
      exec (.mirrorWriteReceive (.mirrorEnd slot cut socket x y len crc)) s = .next { s with fab := f.sysPut half header }) ∧
    (b.nslot ≤ slot → exec (.mirrorWriteReceive (.mirrorBegin slot cut)) s = .next s ∧
      (∀ n bs p, exec (.mirrorWriteReceive (.mirrorWord slot cut n bs p)) s = .next s) ∧
      (∀ socket x y len crc, exec (.mirrorWriteReceive (.mirrorEnd slot cut socket x y len crc)) s = .next s))) ∧
  (∀ (port : BitVec 5) (fr : Frame) (s : State), port.toNat < 20 →
    let f := s.fab
    let x := f.ing port.toNat
    let i := Instr.sensorFrame port fr
    let va := x.base.toNat + x.next * (64 * x.ssize)
    (x.en = false → exec i s = .next s) ∧
    (∀ a, x.en = true → 0 < x.nslot → 0 < x.ssize → (f.sysTranslate .write va).1 = .ok a →
      (f.full a = true → ∃ t, exec i s = .next t ∧ t.agenda = s.agenda ∧ t.fab.mem = f.mem ∧ (t.fab.ing port.toNat).next = x.next ∧
        (t.fab.ing port.toNat).drop = min (2 ^ 32 - 1) (x.drop + 1)) ∧
      (f.full a = false → ∃ t, exec i s = .next t ∧ t.agenda = s.agenda ∧ (t.fab.ing port.toNat).next = (x.next + 1) % x.nslot ∧
        (t.fab.ing port.toNat).drop = x.drop ∧ (t.fab.ing port.toNat).seq = (x.seq + 1) % 2 ^ 16 ∧ t.fab.elems = f.elems))) ∧
  (∀ s : State,
    let f := s.fab
    let b := f.beryl
    (b.hbSend = false → exec .heartbeatSend s = .next s) ∧
    (b.hbSend = true → b.up = true → s.alive = true → ∃ t, exec .heartbeatSend s = .next t ∧ t.agenda = s.agenda ∧
      t.fab = { f with beryl := { b with
        cue := b.cue ++ [(0, .heartbeat b.hbSeq f.host.partState (BitVec.ofNat 64 (f.ctr 0)))], hbSeq := b.hbSeq + 1, hbNext := f.clock + 200000 } }) ∧
    (∀ q, b.hbWatch = false → exec (.heartbeatReceive q) s = .next s) ∧
    (∀ q, b.hbWatch = true → b.declared = false → ∃ t, exec (.heartbeatReceive q) s = .next t ∧ t.agenda = s.agenda ∧
      t.fab = { f with beryl := { b with hbDue := f.clock + 600000 } }) ∧
    (∀ q, b.hbWatch = true → b.declared = true → ∃ t m, exec (.heartbeatReceive q) s = .next t ∧ t.agenda = s.agenda ∧
      t.fab = { f with host := { f.host with log := f.host.log ++ [m] } }) ∧
    (b.declared = true → exec .pfaultAssert s = .next s ∧ exec .heartbeatTimeout s = .next s) ∧
    (b.hbWatch = false ∨ f.clock < b.hbDue → exec .heartbeatTimeout s = .next s) ∧
    (b.declared = false → b.parts = 0 → Spec.heard f 2 →
      (∃ t, exec .pfaultAssert s = .next t ∧ t.agenda = s.agenda ∧ t.fab.beryl = { b with declared := true } ∧ t.fab.parts = f.parts ∧
        (t.fab.chan 2).q = (f.chan 2).q ++ [⟨BitVec.ofNat 64 (15 * 2 ^ 56 + 2 ^ 48 + 2), 0, 0, 0⟩]) ∧
      (b.hbWatch = true → b.hbDue ≤ f.clock → ∃ t, exec .heartbeatTimeout s = .next t ∧ t.agenda = s.agenda ∧
        t.fab.beryl = { b with declared := true } ∧ t.fab.parts = f.parts ∧
        (t.fab.chan 2).q = (f.chan 2).q ++ [⟨BitVec.ofNat 64 (15 * 2 ^ 56 + 2 ^ 48 + 1), 0, 0, 0⟩])) ∧
    (∀ p, b.declared = false → b.parts = 2 ^ p → p < f.pmode → b.solo < 8 → (f.part p).active ≠ none → (f.part p).active ≠ some b.solo →
      (f.table p b.solo).isSome = true → ∃ t, exec .pfaultAssert s = .next t ∧ t.agenda = s.agenda ∧
        t.fab.part p = { f.part p with pend := some b.solo }) ∧
    (f.pom.jobs = [] → exec .berylLinkDown s = .next { s with fab := { f with beryl := { b with up := false } } }) ∧
    (∀ k j, f.pom.jobs = [(k, j)] → j.toPartner = true → ∃ t, exec .berylLinkDown s = .next t ∧ t.agenda = s.agenda ∧
      t.fab.beryl = { b with up := false } ∧ t.fab.elems = f.elems ∧ t.fab.mem = f.mem ∧
      (∃ x, mget k t.fab.pom.jobs = some x ∧ ∃ n, x.res = some (3, n, 0)) ∧
      (⟨f.clock + 1, 0, .instr (.pommelJobCompletion k)⟩ : Ev) ∈ t.fab.evq))

/-! ## Encodings, the step, reset and invariants -/

/-- R34-R45: the words of a well-formed instruction decode to it, with every operand at every value that the fields admit. -/
def Obligations.DecodingAnEncodedInstructionGivesItBack : Prop :=
  ∀ i : Instr, i.wellFormed → encode i ≠ .none → decodeWords (encode i) = some i

/-- R47, R48: words that decode are the words of their instruction, which is well formed: no bit of them goes unread, and no two
instructions share words of one framing. -/
def Obligations.DecodedWordsAreThoseOfTheirInstruction : Prop :=
  (∀ (op : BitVec 24) (route reg : BitVec 16) (i : Instr), decodeRow op route reg = .ok i → i.wellFormed ∧ encode i = .row op route reg) ∧
  (∀ (w : BitVec 32) (i : Instr), decodeTask w = .ok i → i.wellFormed ∧ encode i = .task w)

/-- Words written out from the fields of R34, R36, R37, R39 and R40, one for each form: OA, OI, OM, OX, OC, TR, TI and TB. -/
def Obligations.WordsOfTheSpecDecode : Prop :=
  -- ADD with imm10 5: A from the north, B the immediate, to the west link and w7
  decodeRow 0b00000001_000_0_0_0_0000000101#24 0b0001_1001_0_0_0_1_1_0_00#16 0b00000_00000_00111_1#16 =
    .ok (.add 0 5 { route := { a := 1, b := 9, w := true, reg := true }, reg := { rd := 7, we := true } }) ∧
  -- MOVI 0x8001 to w2
  decodeRow 0b00100011_1000000000000001#24 0b1111_1111_0_0_0_0_1_0_00#16 0b00000_00000_00010_1#16 =
    .ok (.movi 0x8001 { route := { a := 15, b := 15, reg := true }, reg := { rd := 2, we := true } }) ∧
  -- GLD of a word in wave entry 3, wt, index offset 5: A from w1, B from w30, to the control latch
  decodeRow 0b10000000_0011_10_0_1_0_0000101#24 0b0000_0000_0_0_0_0_0_1_00#16 0b00001_11110_00000_0#16 =
    .ok (.gld 3 2 0 1 0 5 { route := { ctl := true }, reg := { ra := 1, rb := 30 } }) ∧
  -- MMA with parameter block 33 that pushes toward queue C
  decodeRow 0b10100000_100001_0_1_01_00_0000#24 0b0000_0000_0_0_0_0_0_0_00#16 0b00100_00101_00000_0#16 =
    .ok (.mma 33 0 1 1 { route := {}, reg := { ra := 4, rb := 5 } }) ∧
  -- CEMIT 1 to north and west, no control input
  decodeRow 0b01011101_0000_1001_00000001#24 0b1111_1111_0_0_0_0_0_0_00#16 0#16 =
    .ok (.cemit 0 9 1 { route := { a := 15, b := 15 } }) ∧
  -- TIMEQ k16, k7, k0
  decodeTask 0b11111011_10000_00111_00000_000000000#32 = .ok (.timeq 16 7 0) ∧
  -- LDK k3, k4, -8
  decodeTask 0b11110001_00011_00100_11111111111000#32 = .ok (.ldk 3 4 (-8)) ∧
  -- BR back by one word
  decodeTask 0b11101100_00000_1111111111111111111#32 = .ok (.br (-1))

namespace Sys2Proof.Spec

/-- The codes of the opcode map that no instruction has (R44). -/
def reservedCodes : List Nat :=
  [0x2B, 0x2C, 0x2D, 0x2E, 0x2F, 0x49, 0x4A, 0x4B, 0x4C, 0x4D, 0x4E, 0x4F, 0x56, 0x57, 0x6E, 0x6F, 0x7D, 0x7E, 0x7F] ++
  [0x9A, 0x9B, 0x9C, 0x9D, 0x9E, 0x9F, 0xAA, 0xAB, 0xAC, 0xAD, 0xAE, 0xAF, 0xC0, 0xC1, 0xC2, 0xC3, 0xC9, 0xCA, 0xCB, 0xDD, 0xDE, 0xDF, 0xFF]

/-- An opcode that only the task core has (R45). -/
def taskOnlyCode (n : Nat) : Bool :=
  (decide (0x07 ≤ n ∧ n ≤ 0x0A)) || n == 0x99 || n == 0xDA || n == 0xDB || (decide (0xE0 ≤ n ∧ n ≤ 0xFE))

/-- An opcode that only elements have (R45). -/
def elementOnlyCode (n : Nat) : Bool :=
  (decide (0x30 ≤ n ∧ n ≤ 0x48)) || (decide (0x50 ≤ n ∧ n ≤ 0x55)) || (decide (0x58 ≤ n ∧ n ≤ 0x6D)) || (decide (0x70 ≤ n ∧ n ≤ 0x7C)) ||
    (decide (0x84 ≤ n ∧ n ≤ 0x8A)) || n == 0x98 || (decide (0xA0 ≤ n ∧ n ≤ 0xA9)) || (decide (0xB0 ≤ n ∧ n ≤ 0xBF)) ||
    (decide (0xC4 ≤ n ∧ n ≤ 0xC8)) || (decide (0xCC ≤ n ∧ n ≤ 0xD8)) || n == 0xDC

end Sys2Proof.Spec

/-- R44, R45, R47, R48: a reserved opcode is refused in both framings, a task-only one in a row, an element-only one in a task-core word;
a row with token mode 11 or a we that differs from route bit 3 is refused, and so are BR and CALL with ka and RET with any field. -/
def Obligations.IllegalWordsAreRefused : Prop :=
  (∀ (op : BitVec 24) (route reg : BitVec 16),
    let n := (op.extractLsb' 16 8).toNat
    (n ∈ Spec.reservedCodes → decodeRow op route reg = .error .opRes) ∧
    (Spec.taskOnlyCode n = true → decodeRow op route reg = .error .taskOnly) ∧
    (∀ i, decodeRow op route reg = .ok i → route.extractLsb' 0 2 ≠ 3 ∧ route.getLsbD 3 = reg.getLsbD 0)) ∧
  (∀ w : BitVec 32,
    let n := (w.extractLsb' 24 8).toNat
    (n ∈ Spec.reservedCodes → decodeTask w = .error .opRes) ∧
    (Spec.elementOnlyCode n = true → decodeTask w = .error .elementOnly) ∧
    (∀ i, decodeTask w = .ok i →
      (n = 0xEC ∨ n = 0xEF → w.extractLsb' 19 5 = 0) ∧ (n = 0xF0 → w.extractLsb' 0 24 = 0)))

/-- R21, R113, R116, R163: a step runs what stands first on the agenda: a row or an arm as its instruction on its element, Pommel's word at
the pc once it may issue, a sequencing instruction, an I/O write, a command or a sample where it is performed, any other step as it stands; a
word that does not decode, or lies outside user task SRAM, traps. With nothing on the agenda the earliest phase due comes first, and with
nothing due the tick counter advances. -/
def Obligations.StepRunsTheDecodedInstruction : Prop :=
  (∀ (s : State) (e : ElemId) (c : Ctx) (ws : List Work) (i : Instr), s.agenda = .row e c :: ws →
    decodeRow (s.fab.ringWords e c).1 (s.fab.ringWords e c).2.1 (s.fab.ringWords e c).2.2 = .ok i →
    step s = exec i { agenda := ws, fab := { s.fab with cur := (e, c), armP := false } }) ∧
  (∀ (s : State) (e : ElemId) (c : Ctx) (op : BitVec 24) (route reg : BitVec 16) (p : Bool) (ws : List Work) (i : Instr),
    s.agenda = .arm e c (0#8 ++ op ++ route ++ reg) p :: ws → decodeRow op route reg = .ok i →
    step s = exec i { agenda := ws, fab := { s.fab with cur := (e, c), armP := p } }) ∧
  (∀ (s : State) (ws : List Work), s.agenda = .pommel :: ws →
    let f := s.fab
    let p := f.pom
    p.running = true → p.halted = false → p.next < 3 * (f.clock + 1) → p.next - p.start < 24000 →
    (p.pc.toNat % 4 ≠ 0 ∨ inUser p.pc 4 = false ∨ f.uncorr (sramBase + p.pc.toNat) = true →
      step s = exec .fetchFault { s with agenda := ws ++ [.pommel] }) ∧
    (p.pc.toNat % 4 = 0 → inUser p.pc 4 = true → f.uncorr (sramBase + p.pc.toNat) = false →
      (∀ i, decodeTaskBytes (f.bytes (sramBase + p.pc.toNat) 4) = .ok i → f.issueAt (BitVec.ofNat 32 (f.sram p.pc.toNat 4)) ≤ p.next →
        step s = exec i { agenda := ws ++ [.pommel], fab := f.fixSram p.pc.toNat }) ∧
      (∀ x, decodeTaskBytes (f.bytes (sramBase + p.pc.toNat) 4) = .error x →
        step s = exec .illegalInstruction { agenda := ws ++ [.pommel], fab := f.fixSram p.pc.toNat }))) ∧
  (∀ (s : State) (w : BitVec 32) (a b : W64) (k : Nat) (ws : List Work) (i : Instr), s.agenda = .seq w a b k :: ws → decodeTask w = .ok i →
    step s = exec i { agenda := ws, fab := s.fab.modPom fun p => { p with perf := some (a, b, k) } }) ∧
  (∀ (s : State) (a : BitVec 24) (v : W64) (ws : List Work), s.agenda = .io a v :: ws → step s = exec (ioInstr a v) { s with agenda := ws }) ∧
  (∀ (s : State) (code : BitVec 16) (c : Cmd) (io : Bool) (q : List (BitVec 16 × Cmd × Bool)) (ws : List Work),
    s.agenda = .command :: ws → s.fab.pom.halted = false → s.fab.commandOpen = false → s.fab.host.cmds = (code, c, io) :: q →
    step s = exec (commandInstr code c) { agenda := ws, fab := { s.fab with host := { s.fab.host with cmds := q, ioStart := io } } }) ∧
  (∀ (s : State) (b : Nat) (ws : List Work), s.agenda = .sample b :: ws →
    step s = exec (.monitorSample (BitVec.ofNat 4 b) (s.fab.readings b)) { s with agenda := ws }) ∧
  (∀ (s : State) (i : Instr) (ws : List Work), s.agenda = .instr i :: ws → step s = exec i { s with agenda := ws }) ∧
  (∀ (s : State) (x : Ev) (before after : List Ev), s.agenda = [] → s.fab.evq = before ++ x :: after → x.tick ≤ s.fab.clock →
    (∀ y ∈ before ++ after, y.tick ≤ s.fab.clock → x.ph ≤ y.ph) → (∀ y ∈ before, y.tick ≤ s.fab.clock → x.ph ≠ y.ph) →
    step s = step { agenda := [x.w], fab := { s.fab with evq := before ++ after } }) ∧
  (∀ s : State, s.agenda = [] → (∀ y ∈ s.fab.evq, s.fab.clock < y.tick) → step s = exec .tickCounterAdvance s)

/-- The reset columns of R111, R127, R128 and R375, the part not READY before bring-up (R133), task SRAM, LPDDR6 and every tile free of
written bytes (log 7), no task, no run and no job; partition mode 1 is the model's choice (log 6). -/
def Obligations.ResetLeavesTheStatedValues : Prop :=
  (∀ ch, ch < 64 → (State.reset.fab.chan ch).pri = min ch 15 ∧ (State.reset.fab.chan ch).q = [] ∧ (State.reset.fab.chan ch).lost = 0 ∧
    (State.reset.fab.chan ch).bind = if ch < 8 then .bridle else .polled) ∧
  (∀ b, b < 10 → (State.reset.fab.block b).lvl = 0 ∧ (State.reset.fab.block b).floor = 0 ∧ (State.reset.fab.block b).alrt = false ∧
    (State.reset.fab.block b).trip = false ∧ (State.reset.fab.block b).alertcfg = 0x690 ∧ (State.reset.fab.block b).tripcfg = 0x7D0 ∧
    (State.reset.fab.block b).temp = [] ∧ (State.reset.fab.block b).volt = [] ∧ (State.reset.fab.block b).proc = []) ∧
  (∀ p, p < 20 → (State.reset.fab.ing p).base = 0 ∧ (State.reset.fab.ing p).nslot = 0 ∧ (State.reset.fab.ing p).ssize = 0 ∧
    (State.reset.fab.ing p).en = false ∧ (State.reset.fab.ing p).drop = 0 ∧ (State.reset.fab.ing p).next = 0) ∧
  State.reset.fab.host.partState = 0 ∧ State.reset.fab.host.features = none ∧ State.reset.fab.host.keys = none ∧
  (∀ a, memGet State.reset.fab.mem a = 0) ∧ State.reset.fab.pom.running = false ∧ State.reset.fab.pom.halted = false ∧
  State.reset.fab.runs = [] ∧ (∀ e c, (State.reset.fab.slot e c).st = .empty) ∧ State.reset.fab.pmode = 1

/-- R47, R48: nothing that issues is without a meaning: every instruction in every state leads to a next state, and only ARMX and the
dispatch of a command put work in front of what is still to do on the tick. -/
def Obligations.EveryInstructionAnswersANextState : Prop :=
  ∀ (i : Instr) (s : State), ∃ t, exec i s = .next t ∧
    (t.agenda = s.agenda ∨
      (∃ c o m wr p w, i = .armx c o m wr ∧ t.agenda = .arm s.fab.cur.1 s.fab.cur.2 w p :: s.agenda) ∨
      (i = .taskDispatch ∧ t.agenda = .command :: s.agenda))

namespace Sys2Proof.Spec

/-- The element of a row or an arm. -/
def elemOf : Work → Option ElemId
  | .row e _ => some e
  | .arm e _ _ _ => some e
  | _ => none

/-- Rows and arms stand first, each on an element of its own, in ascending field number. -/
def ordered (l : List Work) : Prop :=
  ∃ rs ws, l = rs ++ ws ∧ (∀ w ∈ rs, elemOf w ≠ none) ∧ (∀ w ∈ ws, elemOf w = none) ∧ (rs.filterMap elemOf).Pairwise (· < ·)

end Sys2Proof.Spec

/-- R21, R139, R148: at most one context of an element issues on a tick, so each element has at most one row or arm left on a tick. Every
step keeps it; the order by field number is the model's (log 2). -/
def Obligations.EveryStepKeepsOneRowPerElement : Prop :=
  ∀ s t : State, Spec.ordered s.agenda → step s = .next t → Spec.ordered t.agenda

/-- R5, R188: memory has one form for one content: rising addresses, no entry that holds what an unlisted address reads as. Every step
keeps it. -/
def Obligations.EveryStepKeepsMemoryCanonical : Prop :=
  ∀ s t : State, s.memWf = true → step s = .next t → t.memWf = true

/-- R5, R21: the invariants that every step keeps hold at reset. -/
def Obligations.InvariantsHoldAtReset : Prop :=
  Spec.ordered State.reset.agenda ∧ State.reset.memWf = true
end

