-- ==== Sys2Proof/Laws/Encoding.lean ====
section
/-! SUPPORT. Fields of words that are put together from fields, and the fields of route and register-address words. -/

namespace Sys2Proof

/-- A field above the low part of a word. -/
theorem fld_hi {v w : Nat} (a : BitVec v) (b : BitVec w) (lo len : Nat) (h : w ≤ lo) :
    @fld (v + w) (a ++ b) lo len = fld a (lo - w) len := BitVec.extractLsb'_append_eq_of_le h

/-- A field within the low part of a word. -/
theorem fld_lo {v w : Nat} (a : BitVec v) (b : BitVec w) (lo len : Nat) (h : lo + len ≤ w) :
    @fld (v + w) (a ++ b) lo len = fld b lo len := BitVec.extractLsb'_append_eq_of_add_le h

/-- A field that is all of a word. -/
theorem fld_all {v : Nat} (a : BitVec v) : fld a 0 v = a := BitVec.extractLsb'_eq_self

/-- A field of a number. -/
theorem fld_ofNat (n k lo len : Nat) : fld (BitVec.ofNat n k) lo len = BitVec.ofNat len (k % 2 ^ n / 2 ^ lo) := by
  apply BitVec.eq_of_toNat_eq
  simp [fld, BitVec.extractLsb'_toNat, Nat.shiftRight_eq_div_pow]

/-- A bit from its field. -/
theorem getLsbD_of_fld {n : Nat} {w : BitVec n} {k : Nat} {b : Bool} (h : fld w k 1 = bit 1 b) : w.getLsbD k = b := by
  have : w.getLsbD k = (fld w k 1).getLsbD 0 := by simp [fld]
  rw [this, h]; cases b <;> rfl

/-- The route word's fields come back (R37). -/
theorem decodeRoute_encodeRoute (r : Route) : decodeRoute (encodeRoute r) = r := by
  obtain ⟨a, b, n, e, s, w, reg, ctl, mode⟩ := r
  simp only [decodeRoute, Route.mk.injEq]
  refine ⟨?_, ?_, getLsbD_of_fld ?_, getLsbD_of_fld ?_, getLsbD_of_fld ?_, getLsbD_of_fld ?_, getLsbD_of_fld ?_,
    getLsbD_of_fld ?_, ?_⟩ <;> simp (disch := decide) only [encodeRoute, fld_hi, fld_lo, fld_all, Nat.reduceSub]

/-- The register-address word's fields come back (R39). -/
theorem decodeReg_encodeReg (r : RegWord) : decodeReg (encodeReg r) = r := by
  obtain ⟨a, b, d, we⟩ := r
  simp only [decodeReg, RegWord.mk.injEq]
  refine ⟨?_, ?_, ?_, getLsbD_of_fld ?_⟩ <;> simp (disch := decide) only [encodeReg, fld_hi, fld_lo, fld_all, Nat.reduceSub]

end Sys2Proof
end

