-- ==== Sys2Proof/Laws/PerInstr.lean ====
section
/-! SUPPORT. Lemmas per instruction: the opcode byte of each instruction that has bits is the one of the opcode map (spec 02_encoding
R44), and a step without bits has no words. -/

set_option Elab.async false
set_option linter.unusedSimpArgs false

namespace Sys2Proof.Laws.Opcode

/-- The opcode of an element row (R44). -/
def row : Instr → Option (BitVec 8)
  | .nop _ _ => some 0x00
  | .add _ _ _ => some 0x01
  | .sub _ _ _ => some 0x02
  | .addi _ _ _ => some 0x03
  | .mul _ _ _ => some 0x04
  | .mulh _ _ _ => some 0x05
  | .mulhn _ _ _ => some 0x06
  | .min _ _ _ => some 0x0B
  | .max _ _ _ => some 0x0C
  | .minn _ _ _ => some 0x0D
  | .maxn _ _ _ => some 0x0E
  | .abs _ _ _ => some 0x0F
  | .neg _ _ _ => some 0x10
  | .and _ _ _ => some 0x11
  | .or _ _ _ => some 0x12
  | .xor _ _ _ => some 0x13
  | .andn _ _ _ => some 0x14
  | .not _ _ _ => some 0x15
  | .shl _ _ _ => some 0x16
  | .shr _ _ _ => some 0x17
  | .sha _ _ _ => some 0x18
  | .rot _ _ _ => some 0x19
  | .clz _ _ _ => some 0x1A
  | .popc _ _ _ => some 0x1B
  | .sel _ _ _ => some 0x1C
  | .cmpeq _ _ _ => some 0x1D
  | .cmpne _ _ _ => some 0x1E
  | .cmplt _ _ _ => some 0x1F
  | .cmple _ _ _ => some 0x20
  | .cmpltn _ _ _ => some 0x21
  | .cmplen _ _ _ => some 0x22
  | .movi _ _ => some 0x23
  | .movhi _ _ => some 0x24
  | .mov _ _ _ => some 0x25
  | .movSpecialRead _ _ _ => some 0x25
  | .movSpecialWrite _ _ _ => some 0x25
  | .sext _ _ _ => some 0x26
  | .bfx _ _ _ => some 0x27
  | .bfi _ _ _ => some 0x28
  | .adds _ _ _ => some 0x29
  | .subs _ _ _ => some 0x2A
  | .fadd _ _ _ => some 0x30
  | .fsub _ _ _ => some 0x31
  | .fmul _ _ _ => some 0x32
  | .fma _ _ _ => some 0x33
  | .fms _ _ _ => some 0x34
  | .fnma _ _ _ => some 0x35
  | .fmin _ _ => some 0x36
  | .fmax _ _ => some 0x37
  | .fabs _ _ => some 0x38
  | .fneg _ _ => some 0x39
  | .fcmpeq _ _ => some 0x3A
  | .fcmplt _ _ => some 0x3B
  | .fcmple _ _ => some 0x3C
  | .fcmpun _ _ => some 0x3D
  | .fcvt _ _ _ _ => some 0x3E
  | .fclass _ _ => some 0x3F
  | .frnd _ _ _ => some 0x40
  | .ftoi _ _ _ _ => some 0x41
  | .itof _ _ _ => some 0x42
  | .fscale _ _ _ => some 0x43
  | .fdot2 _ _ _ => some 0x44
  | .fexpn _ _ => some 0x45
  | .fmant _ _ => some 0x46
  | .qnt _ _ _ _ _ _ => some 0x47
  | .dqnt _ _ _ => some 0x48
  | .lut _ _ _ _ => some 0x50
  | .lutix _ _ _ _ => some 0x51
  | .rredf _ _ => some 0x52
  | .rredn _ _ => some 0x53
  | .rexp _ _ _ => some 0x54
  | .lutsel _ _ _ => some 0x55
  | .steer _ _ _ _ => some 0x58
  | .merge _ _ _ => some 0x59
  | .mergea _ _ => some 0x5A
  | .gate _ _ _ _ => some 0x5B
  | .drop _ _ _ _ => some 0x5C
  | .cemit _ _ _ _ => some 0x5D
  | .ctest _ _ _ => some 0x5E
  | .cand _ _ _ _ => some 0x5F
  | .cor _ _ _ _ => some 0x60
  | .cnot _ _ _ => some 0x61
  | .eose _ _ _ => some 0x62
  | .eosq _ _ _ => some 0x63
  | .cnti _ _ => some 0x64
  | .cnts _ _ _ _ => some 0x65
  | .cntl _ _ => some 0x66
  | .phase _ _ _ => some 0x67
  | .ctxp _ _ _ => some 0x68
  | .rowq _ _ => some 0x69
  | .iofq _ _ => some 0x6A
  | .frmq _ _ => some 0x6B
  | .dly _ _ => some 0x6C
  | .armx _ _ _ _ => some 0x6D
  | .talloc _ _ _ _ _ => some 0x70
  | .tfree _ _ _ _ => some 0x71
  | .tqry _ _ _ _ _ _ => some 0x72
  | .ldt _ _ _ _ _ _ _ => some 0x73
  | .stt _ _ _ _ _ _ => some 0x74
  | .ldts _ _ _ _ _ _ _ => some 0x75
  | .sttf _ _ _ _ _ _ => some 0x76
  | .ldte _ _ _ _ _ _ _ => some 0x77
  | .feset _ _ _ _ _ _ => some 0x78
  | .feq _ _ _ _ _ _ => some 0x79
  | .tcopy _ _ _ _ _ => some 0x7A
  | .tfill _ _ _ _ _ => some 0x7B
  | .tlevel _ _ _ _ _ _ => some 0x7C
  | .gld _ _ _ _ _ _ _ => some 0x80
  | .gst _ _ _ _ _ _ => some 0x81
  | .glds _ _ _ _ _ _ _ => some 0x82
  | .gstf _ _ _ _ _ _ => some 0x83
  | .strmi _ _ _ _ _ _ => some 0x84
  | .strmo _ _ _ _ _ _ => some 0x85
  | .gath _ _ _ _ _ _ => some 0x86
  | .scat _ _ _ _ _ _ => some 0x87
  | .sprg _ _ _ _ _ _ => some 0x88
  | .sabt _ _ _ _ _ => some 0x89
  | .sres _ _ _ _ _ => some 0x8A
  | .aadd _ _ _ _ _ _ => some 0x8B
  | .amin _ _ _ _ _ _ => some 0x8C
  | .amax _ _ _ _ _ _ => some 0x8D
  | .aand _ _ _ _ _ _ => some 0x8E
  | .aor _ _ _ _ _ _ => some 0x8F
  | .axch _ _ _ _ _ _ => some 0x90
  | .acas _ _ _ _ _ _ => some 0x91
  | .afadd _ _ _ _ _ => some 0x92
  | .fence _ _ => some 0x93
  | .rels _ => some 0x94
  | .acqs _ => some 0x95
  | .xfer _ _ _ _ _ => some 0x96
  | .mirr _ _ _ _ _ => some 0x97
  | .coll _ _ _ _ _ => some 0x98
  | .mma _ _ _ _ _ => some 0xA0
  | .mmas _ _ _ _ _ => some 0xA1
  | .mmav _ _ _ _ _ => some 0xA2
  | .mmab _ _ _ _ _ => some 0xA3
  | .macc _ _ _ _ _ _ => some 0xA4
  | .mdrn _ _ _ _ _ _ => some 0xA5
  | .mprg _ _ => some 0xA6
  | .mres _ => some 0xA7
  | .mabt _ => some 0xA8
  | .mshp _ _ _ _ => some 0xA9
  | .xld _ _ _ _ _ _ _ => some 0xB0
  | .xst _ _ _ _ _ => some 0xB1
  | .cbld _ _ _ _ _ _ => some 0xB2
  | .vqx _ _ _ _ _ _ => some 0xB3
  | .compm _ _ _ _ _ => some 0xB4
  | .expdm _ _ _ _ _ => some 0xB5
  | .fibp _ _ _ _ _ => some 0xB6
  | .fibu _ _ _ _ _ => some 0xB7
  | .isect _ _ _ _ _ _ => some 0xB8
  | .dcmpj _ _ _ _ _ => some 0xB9
  | .dcmpq _ _ _ _ _ _ => some 0xBA
  | .lzcp _ _ _ _ _ _ => some 0xBB
  | .layw _ _ => some 0xBC
  | .layr _ _ _ => some 0xBD
  | .trns _ _ _ _ _ => some 0xBE
  | .redx _ _ _ _ _ => some 0xBF
  | .cinit _ _ => some 0xC4
  | .carr _ _ _ => some 0xC5
  | .cexpb _ _ => some 0xC6
  | .cqry _ _ _ => some 0xC7
  | .cdrop _ _ => some 0xC8
  | .tapeb _ _ => some 0xCC
  | .tapee _ => some 0xCD
  | .tapev _ _ _ => some 0xCE
  | .taper _ _ => some 0xCF
  | .tapep _ _ => some 0xD0
  | .tapec _ => some 0xD1
  | .tapeq _ _ => some 0xD2
  | .tapek _ _ => some 0xD3
  | .mark _ => some 0xD4
  | .snapq _ _ => some 0xD5
  | .rtag _ => some 0xD6
  | .poisn _ _ => some 0xD7
  | .poisq _ => some 0xD8
  | .verd _ _ => some 0xD9
  | .cmpv _ _ => some 0xDC
  | _ => none

/-- The opcode of a task-core instruction (R44). -/
def task : Instr → Option (BitVec 8)
  | .nopTask => some 0x00
  | .addTask _ _ _ => some 0x01
  | .subTask _ _ _ => some 0x02
  | .addiTask _ _ _ => some 0x03
  | .mulTask _ _ _ => some 0x04
  | .mulhTask _ _ _ => some 0x05
  | .mulhnTask _ _ _ => some 0x06
  | .div _ _ _ => some 0x07
  | .divn _ _ _ => some 0x08
  | .rem _ _ _ => some 0x09
  | .remn _ _ _ => some 0x0A
  | .minTask _ _ _ => some 0x0B
  | .maxTask _ _ _ => some 0x0C
  | .minnTask _ _ _ => some 0x0D
  | .maxnTask _ _ _ => some 0x0E
  | .absTask _ _ => some 0x0F
  | .negTask _ _ => some 0x10
  | .andTask _ _ _ => some 0x11
  | .orTask _ _ _ => some 0x12
  | .xorTask _ _ _ => some 0x13
  | .andnTask _ _ _ => some 0x14
  | .notTask _ _ => some 0x15
  | .shlTask _ _ _ => some 0x16
  | .shrTask _ _ _ => some 0x17
  | .shaTask _ _ _ => some 0x18
  | .rotTask _ _ _ => some 0x19
  | .clzTask _ _ => some 0x1A
  | .popcTask _ _ => some 0x1B
  | .selTask _ _ _ => some 0x1C
  | .cmpeqTask _ _ _ => some 0x1D
  | .cmpneTask _ _ _ => some 0x1E
  | .cmpltTask _ _ _ => some 0x1F
  | .cmpleTask _ _ _ => some 0x20
  | .cmpltnTask _ _ _ => some 0x21
  | .cmplenTask _ _ _ => some 0x22
  | .moviTask _ _ => some 0x23
  | .movhiTask _ _ => some 0x24
  | .movTask _ _ => some 0x25
  | .sextTask _ _ _ => some 0x26
  | .bfxTask _ _ _ => some 0x27
  | .bfiTask _ _ _ => some 0x28
  | .addsTask _ _ _ => some 0x29
  | .subsTask _ _ _ => some 0x2A
  | .gldTask _ _ _ => some 0x80
  | .gstTask _ _ _ => some 0x81
  | .gldsTask _ _ _ => some 0x82
  | .gstfTask _ _ _ => some 0x83
  | .aaddTask _ _ _ => some 0x8B
  | .aminTask _ _ _ => some 0x8C
  | .amaxTask _ _ _ => some 0x8D
  | .aandTask _ _ _ => some 0x8E
  | .aorTask _ _ _ => some 0x8F
  | .axchTask _ _ _ => some 0x90
  | .acasTask _ _ _ => some 0x91
  | .afaddTask _ _ _ => some 0x92
  | .fenceTask _ => some 0x93
  | .relsTask => some 0x94
  | .acqsTask => some 0x95
  | .xferTask _ _ => some 0x96
  | .mirrTask _ _ => some 0x97
  | .pagem _ _ => some 0x99
  | .purge _ _ => some 0xDA
  | .keepc _ _ => some 0xDB
  | .verdTask _ _ _ => some 0xD9
  | .lnch _ _ _ => some 0xE0
  | .lnchi _ _ _ => some 0xE1
  | .tblsw _ _ => some 0xE2
  | .ctxld _ _ _ => some 0xE3
  | .ctxsw _ _ _ => some 0xE4
  | .drnq _ _ _ => some 0xE5
  | .ovrq _ _ => some 0xE6
  | .fbsel _ _ _ => some 0xE7
  | .teard _ _ _ => some 0xE8
  | .partm _ _ _ => some 0xE9
  | .doff _ _ _ => some 0xEA
  | .spare _ _ _ => some 0xEB
  | .br _ => some 0xEC
  | .brz _ _ => some 0xED
  | .brnz _ _ => some 0xEE
  | .call _ => some 0xEF
  | .ret => some 0xF0
  | .ldk _ _ _ => some 0xF1
  | .stk _ _ _ => some 0xF2
  | .ldio _ _ _ => some 0xF3
  | .stio _ _ _ => some 0xF4
  | .send _ _ _ => some 0xF5
  | .recv _ _ _ => some 0xF6
  | .tend => some 0xF7
  | .tbind _ _ _ _ => some 0xF8
  | .chpri _ _ _ => some 0xF9
  | .traps _ => some 0xFA
  | .timeq _ _ _ => some 0xFB
  | .hashb _ _ => some 0xFC
  | .sigv _ _ => some 0xFD
  | .sysx _ _ _ => some 0xFE
  | _ => none

/-- The words of an instruction carry its opcode, and only rows and task-core instructions have words. -/
def Statement (i : Instr) : Prop :=
  (encodeOp i).map (fun p => fld p.1 16 8) = row i ∧ (encodeTask i).map (fun w => fld w 24 8) = task i

theorem nop (t : BitVec 1) (wr : Wires) : Statement (.nop t wr) :=
  ⟨by simp (disch := decide) only [encodeOp, Option.map, fld_hi, fld_ofNat, Nat.reduceSub]; rfl, rfl⟩
theorem add (t : BitVec 1) (i : BitVec 10) (wr : Wires) : Statement (.add t i wr) :=
  ⟨by simp (disch := decide) only [encodeOp, Option.map, fld_hi, fld_ofNat, Nat.reduceSub]; rfl, rfl⟩
theorem sub (t : BitVec 1) (i : BitVec 10) (wr : Wires) : Statement (.sub t i wr) :=
  ⟨by simp (disch := decide) only [encodeOp, Option.map, fld_hi, fld_ofNat, Nat.reduceSub]; rfl, rfl⟩
theorem addi (t : BitVec 1) (i : BitVec 10) (wr : Wires) : Statement (.addi t i wr) :=
  ⟨by simp (disch := decide) only [encodeOp, Option.map, fld_hi, fld_ofNat, Nat.reduceSub]; rfl, rfl⟩
theorem mul (t : BitVec 1) (i : BitVec 10) (wr : Wires) : Statement (.mul t i wr) :=
  ⟨by simp (disch := decide) only [encodeOp, Option.map, fld_hi, fld_ofNat, Nat.reduceSub]; rfl, rfl⟩
theorem mulh (t : BitVec 1) (i : BitVec 10) (wr : Wires) : Statement (.mulh t i wr) :=
  ⟨by simp (disch := decide) only [encodeOp, Option.map, fld_hi, fld_ofNat, Nat.reduceSub]; rfl, rfl⟩
theorem mulhn (t : BitVec 1) (i : BitVec 10) (wr : Wires) : Statement (.mulhn t i wr) :=
  ⟨by simp (disch := decide) only [encodeOp, Option.map, fld_hi, fld_ofNat, Nat.reduceSub]; rfl, rfl⟩
theorem min (t : BitVec 1) (i : BitVec 10) (wr : Wires) : Statement (.min t i wr) :=
  ⟨by simp (disch := decide) only [encodeOp, Option.map, fld_hi, fld_ofNat, Nat.reduceSub]; rfl, rfl⟩
theorem max (t : BitVec 1) (i : BitVec 10) (wr : Wires) : Statement (.max t i wr) :=
  ⟨by simp (disch := decide) only [encodeOp, Option.map, fld_hi, fld_ofNat, Nat.reduceSub]; rfl, rfl⟩
theorem minn (t : BitVec 1) (i : BitVec 10) (wr : Wires) : Statement (.minn t i wr) :=
  ⟨by simp (disch := decide) only [encodeOp, Option.map, fld_hi, fld_ofNat, Nat.reduceSub]; rfl, rfl⟩
theorem maxn (t : BitVec 1) (i : BitVec 10) (wr : Wires) : Statement (.maxn t i wr) :=
  ⟨by simp (disch := decide) only [encodeOp, Option.map, fld_hi, fld_ofNat, Nat.reduceSub]; rfl, rfl⟩
theorem abs (t : BitVec 1) (i : BitVec 10) (wr : Wires) : Statement (.abs t i wr) :=
  ⟨by simp (disch := decide) only [encodeOp, Option.map, fld_hi, fld_ofNat, Nat.reduceSub]; rfl, rfl⟩
theorem neg (t : BitVec 1) (i : BitVec 10) (wr : Wires) : Statement (.neg t i wr) :=
  ⟨by simp (disch := decide) only [encodeOp, Option.map, fld_hi, fld_ofNat, Nat.reduceSub]; rfl, rfl⟩
theorem and (t : BitVec 1) (i : BitVec 10) (wr : Wires) : Statement (.and t i wr) :=
  ⟨by simp (disch := decide) only [encodeOp, Option.map, fld_hi, fld_ofNat, Nat.reduceSub]; rfl, rfl⟩
theorem or (t : BitVec 1) (i : BitVec 10) (wr : Wires) : Statement (.or t i wr) :=
  ⟨by simp (disch := decide) only [encodeOp, Option.map, fld_hi, fld_ofNat, Nat.reduceSub]; rfl, rfl⟩
theorem xor (t : BitVec 1) (i : BitVec 10) (wr : Wires) : Statement (.xor t i wr) :=
  ⟨by simp (disch := decide) only [encodeOp, Option.map, fld_hi, fld_ofNat, Nat.reduceSub]; rfl, rfl⟩
theorem andn (t : BitVec 1) (i : BitVec 10) (wr : Wires) : Statement (.andn t i wr) :=
  ⟨by simp (disch := decide) only [encodeOp, Option.map, fld_hi, fld_ofNat, Nat.reduceSub]; rfl, rfl⟩
theorem not (t : BitVec 1) (i : BitVec 10) (wr : Wires) : Statement (.not t i wr) :=
  ⟨by simp (disch := decide) only [encodeOp, Option.map, fld_hi, fld_ofNat, Nat.reduceSub]; rfl, rfl⟩
theorem shl (t : BitVec 1) (i : BitVec 10) (wr : Wires) : Statement (.shl t i wr) :=
  ⟨by simp (disch := decide) only [encodeOp, Option.map, fld_hi, fld_ofNat, Nat.reduceSub]; rfl, rfl⟩
theorem shr (t : BitVec 1) (i : BitVec 10) (wr : Wires) : Statement (.shr t i wr) :=
  ⟨by simp (disch := decide) only [encodeOp, Option.map, fld_hi, fld_ofNat, Nat.reduceSub]; rfl, rfl⟩
theorem sha (t : BitVec 1) (i : BitVec 10) (wr : Wires) : Statement (.sha t i wr) :=
  ⟨by simp (disch := decide) only [encodeOp, Option.map, fld_hi, fld_ofNat, Nat.reduceSub]; rfl, rfl⟩
theorem rot (t : BitVec 1) (i : BitVec 10) (wr : Wires) : Statement (.rot t i wr) :=
  ⟨by simp (disch := decide) only [encodeOp, Option.map, fld_hi, fld_ofNat, Nat.reduceSub]; rfl, rfl⟩
theorem clz (t : BitVec 1) (i : BitVec 10) (wr : Wires) : Statement (.clz t i wr) :=
  ⟨by simp (disch := decide) only [encodeOp, Option.map, fld_hi, fld_ofNat, Nat.reduceSub]; rfl, rfl⟩
theorem popc (t : BitVec 1) (i : BitVec 10) (wr : Wires) : Statement (.popc t i wr) :=
  ⟨by simp (disch := decide) only [encodeOp, Option.map, fld_hi, fld_ofNat, Nat.reduceSub]; rfl, rfl⟩
theorem sel (t : BitVec 1) (i : BitVec 10) (wr : Wires) : Statement (.sel t i wr) :=
  ⟨by simp (disch := decide) only [encodeOp, Option.map, fld_hi, fld_ofNat, Nat.reduceSub]; rfl, rfl⟩
theorem cmpeq (t : BitVec 1) (i : BitVec 10) (wr : Wires) : Statement (.cmpeq t i wr) :=
  ⟨by simp (disch := decide) only [encodeOp, Option.map, fld_hi, fld_ofNat, Nat.reduceSub]; rfl, rfl⟩
theorem cmpne (t : BitVec 1) (i : BitVec 10) (wr : Wires) : Statement (.cmpne t i wr) :=
  ⟨by simp (disch := decide) only [encodeOp, Option.map, fld_hi, fld_ofNat, Nat.reduceSub]; rfl, rfl⟩
theorem cmplt (t : BitVec 1) (i : BitVec 10) (wr : Wires) : Statement (.cmplt t i wr) :=
  ⟨by simp (disch := decide) only [encodeOp, Option.map, fld_hi, fld_ofNat, Nat.reduceSub]; rfl, rfl⟩
theorem cmple (t : BitVec 1) (i : BitVec 10) (wr : Wires) : Statement (.cmple t i wr) :=
  ⟨by simp (disch := decide) only [encodeOp, Option.map, fld_hi, fld_ofNat, Nat.reduceSub]; rfl, rfl⟩
theorem cmpltn (t : BitVec 1) (i : BitVec 10) (wr : Wires) : Statement (.cmpltn t i wr) :=
  ⟨by simp (disch := decide) only [encodeOp, Option.map, fld_hi, fld_ofNat, Nat.reduceSub]; rfl, rfl⟩
theorem cmplen (t : BitVec 1) (i : BitVec 10) (wr : Wires) : Statement (.cmplen t i wr) :=
  ⟨by simp (disch := decide) only [encodeOp, Option.map, fld_hi, fld_ofNat, Nat.reduceSub]; rfl, rfl⟩
theorem movi (i : BitVec 16) (wr : Wires) : Statement (.movi i wr) :=
  ⟨by simp (disch := decide) only [encodeOp, Option.map, fld_hi, fld_ofNat, Nat.reduceSub]; rfl, rfl⟩
theorem movhi (i : BitVec 16) (wr : Wires) : Statement (.movhi i wr) :=
  ⟨by simp (disch := decide) only [encodeOp, Option.map, fld_hi, fld_ofNat, Nat.reduceSub]; rfl, rfl⟩
theorem mov (t : BitVec 1) (i : BitVec 9) (wr : Wires) : Statement (.mov t i wr) :=
  ⟨by simp (disch := decide) only [encodeOp, Option.map, fld_hi, fld_ofNat, Nat.reduceSub]; rfl, rfl⟩
theorem movSpecialRead (t : BitVec 1) (s : BitVec 1) (wr : Wires) : Statement (.movSpecialRead t s wr) :=
  ⟨by simp (disch := decide) only [encodeOp, Option.map, fld_hi, fld_ofNat, Nat.reduceSub]; rfl, rfl⟩
theorem movSpecialWrite (t : BitVec 1) (s : BitVec 1) (wr : Wires) : Statement (.movSpecialWrite t s wr) :=
  ⟨by simp (disch := decide) only [encodeOp, Option.map, fld_hi, fld_ofNat, Nat.reduceSub]; rfl, rfl⟩
theorem sext (t : BitVec 1) (i : BitVec 10) (wr : Wires) : Statement (.sext t i wr) :=
  ⟨by simp (disch := decide) only [encodeOp, Option.map, fld_hi, fld_ofNat, Nat.reduceSub]; rfl, rfl⟩
theorem bfx (t : BitVec 1) (i : BitVec 10) (wr : Wires) : Statement (.bfx t i wr) :=
  ⟨by simp (disch := decide) only [encodeOp, Option.map, fld_hi, fld_ofNat, Nat.reduceSub]; rfl, rfl⟩
theorem bfi (t : BitVec 1) (i : BitVec 10) (wr : Wires) : Statement (.bfi t i wr) :=
  ⟨by simp (disch := decide) only [encodeOp, Option.map, fld_hi, fld_ofNat, Nat.reduceSub]; rfl, rfl⟩
theorem adds (t : BitVec 1) (i : BitVec 10) (wr : Wires) : Statement (.adds t i wr) :=
  ⟨by simp (disch := decide) only [encodeOp, Option.map, fld_hi, fld_ofNat, Nat.reduceSub]; rfl, rfl⟩
theorem subs (t : BitVec 1) (i : BitVec 10) (wr : Wires) : Statement (.subs t i wr) :=
  ⟨by simp (disch := decide) only [encodeOp, Option.map, fld_hi, fld_ofNat, Nat.reduceSub]; rfl, rfl⟩
theorem fadd (r : BitVec 3) (t : BitVec 1) (wr : Wires) : Statement (.fadd r t wr) :=
  ⟨by simp (disch := decide) only [encodeOp, Option.map, fld_hi, fld_ofNat, Nat.reduceSub]; rfl, rfl⟩
theorem fsub (r : BitVec 3) (t : BitVec 1) (wr : Wires) : Statement (.fsub r t wr) :=
  ⟨by simp (disch := decide) only [encodeOp, Option.map, fld_hi, fld_ofNat, Nat.reduceSub]; rfl, rfl⟩
theorem fmul (r : BitVec 3) (t : BitVec 1) (wr : Wires) : Statement (.fmul r t wr) :=
  ⟨by simp (disch := decide) only [encodeOp, Option.map, fld_hi, fld_ofNat, Nat.reduceSub]; rfl, rfl⟩
theorem fma (r : BitVec 3) (t : BitVec 1) (wr : Wires) : Statement (.fma r t wr) :=
  ⟨by simp (disch := decide) only [encodeOp, Option.map, fld_hi, fld_ofNat, Nat.reduceSub]; rfl, rfl⟩
theorem fms (r : BitVec 3) (t : BitVec 1) (wr : Wires) : Statement (.fms r t wr) :=
  ⟨by simp (disch := decide) only [encodeOp, Option.map, fld_hi, fld_ofNat, Nat.reduceSub]; rfl, rfl⟩
theorem fnma (r : BitVec 3) (t : BitVec 1) (wr : Wires) : Statement (.fnma r t wr) :=
  ⟨by simp (disch := decide) only [encodeOp, Option.map, fld_hi, fld_ofNat, Nat.reduceSub]; rfl, rfl⟩
theorem fmin (t : BitVec 1) (wr : Wires) : Statement (.fmin t wr) :=
  ⟨by simp (disch := decide) only [encodeOp, Option.map, fld_hi, fld_ofNat, Nat.reduceSub]; rfl, rfl⟩
theorem fmax (t : BitVec 1) (wr : Wires) : Statement (.fmax t wr) :=
  ⟨by simp (disch := decide) only [encodeOp, Option.map, fld_hi, fld_ofNat, Nat.reduceSub]; rfl, rfl⟩
theorem fabs (t : BitVec 1) (wr : Wires) : Statement (.fabs t wr) :=
  ⟨by simp (disch := decide) only [encodeOp, Option.map, fld_hi, fld_ofNat, Nat.reduceSub]; rfl, rfl⟩
theorem fneg (t : BitVec 1) (wr : Wires) : Statement (.fneg t wr) :=
  ⟨by simp (disch := decide) only [encodeOp, Option.map, fld_hi, fld_ofNat, Nat.reduceSub]; rfl, rfl⟩
theorem fcmpeq (t : BitVec 1) (wr : Wires) : Statement (.fcmpeq t wr) :=
  ⟨by simp (disch := decide) only [encodeOp, Option.map, fld_hi, fld_ofNat, Nat.reduceSub]; rfl, rfl⟩
theorem fcmplt (t : BitVec 1) (wr : Wires) : Statement (.fcmplt t wr) :=
  ⟨by simp (disch := decide) only [encodeOp, Option.map, fld_hi, fld_ofNat, Nat.reduceSub]; rfl, rfl⟩
theorem fcmple (t : BitVec 1) (wr : Wires) : Statement (.fcmple t wr) :=
  ⟨by simp (disch := decide) only [encodeOp, Option.map, fld_hi, fld_ofNat, Nat.reduceSub]; rfl, rfl⟩
theorem fcmpun (t : BitVec 1) (wr : Wires) : Statement (.fcmpun t wr) :=
  ⟨by simp (disch := decide) only [encodeOp, Option.map, fld_hi, fld_ofNat, Nat.reduceSub]; rfl, rfl⟩
theorem fcvt (r : BitVec 3) (s : BitVec 1) (t : BitVec 1) (wr : Wires) : Statement (.fcvt r s t wr) :=
  ⟨by simp (disch := decide) only [encodeOp, Option.map, fld_hi, fld_ofNat, Nat.reduceSub]; rfl, rfl⟩
theorem fclass (t : BitVec 1) (wr : Wires) : Statement (.fclass t wr) :=
  ⟨by simp (disch := decide) only [encodeOp, Option.map, fld_hi, fld_ofNat, Nat.reduceSub]; rfl, rfl⟩
theorem frnd (r : BitVec 3) (t : BitVec 1) (wr : Wires) : Statement (.frnd r t wr) :=
  ⟨by simp (disch := decide) only [encodeOp, Option.map, fld_hi, fld_ofNat, Nat.reduceSub]; rfl, rfl⟩
theorem ftoi (r : BitVec 3) (s : BitVec 1) (t : BitVec 1) (wr : Wires) : Statement (.ftoi r s t wr) :=
  ⟨by simp (disch := decide) only [encodeOp, Option.map, fld_hi, fld_ofNat, Nat.reduceSub]; rfl, rfl⟩
theorem itof (r : BitVec 3) (t : BitVec 1) (wr : Wires) : Statement (.itof r t wr) :=
  ⟨by simp (disch := decide) only [encodeOp, Option.map, fld_hi, fld_ofNat, Nat.reduceSub]; rfl, rfl⟩
theorem fscale (r : BitVec 3) (t : BitVec 1) (wr : Wires) : Statement (.fscale r t wr) :=
  ⟨by simp (disch := decide) only [encodeOp, Option.map, fld_hi, fld_ofNat, Nat.reduceSub]; rfl, rfl⟩
theorem fdot2 (r : BitVec 3) (t : BitVec 1) (wr : Wires) : Statement (.fdot2 r t wr) :=
  ⟨by simp (disch := decide) only [encodeOp, Option.map, fld_hi, fld_ofNat, Nat.reduceSub]; rfl, rfl⟩
theorem fexpn (t : BitVec 1) (wr : Wires) : Statement (.fexpn t wr) :=
  ⟨by simp (disch := decide) only [encodeOp, Option.map, fld_hi, fld_ofNat, Nat.reduceSub]; rfl, rfl⟩
theorem fmant (t : BitVec 1) (wr : Wires) : Statement (.fmant t wr) :=
  ⟨by simp (disch := decide) only [encodeOp, Option.map, fld_hi, fld_ofNat, Nat.reduceSub]; rfl, rfl⟩
theorem qnt (r : BitVec 3) (s : BitVec 1) (t : BitVec 1) (m : BitVec 2) (e : BitVec 4) (wr : Wires) : Statement (.qnt r s t m e wr) :=
  ⟨by simp (disch := decide) only [encodeOp, Option.map, fld_hi, fld_ofNat, Nat.reduceSub]; rfl, rfl⟩
theorem dqnt (r : BitVec 3) (t : BitVec 1) (wr : Wires) : Statement (.dqnt r t wr) :=
  ⟨by simp (disch := decide) only [encodeOp, Option.map, fld_hi, fld_ofNat, Nat.reduceSub]; rfl, rfl⟩
theorem lut (r : BitVec 3) (t : BitVec 1) (k : BitVec 2) (wr : Wires) : Statement (.lut r t k wr) :=
  ⟨by simp (disch := decide) only [encodeOp, Option.map, fld_hi, fld_ofNat, Nat.reduceSub]; rfl, rfl⟩
theorem lutix (t : BitVec 1) (m : BitVec 2) (s : BitVec 5) (wr : Wires) : Statement (.lutix t m s wr) :=
  ⟨by simp (disch := decide) only [encodeOp, Option.map, fld_hi, fld_ofNat, Nat.reduceSub]; rfl, rfl⟩
theorem rredf (t : BitVec 1) (wr : Wires) : Statement (.rredf t wr) :=
  ⟨by simp (disch := decide) only [encodeOp, Option.map, fld_hi, fld_ofNat, Nat.reduceSub]; rfl, rfl⟩
theorem rredn (t : BitVec 1) (wr : Wires) : Statement (.rredn t wr) :=
  ⟨by simp (disch := decide) only [encodeOp, Option.map, fld_hi, fld_ofNat, Nat.reduceSub]; rfl, rfl⟩
theorem rexp (r : BitVec 3) (t : BitVec 1) (wr : Wires) : Statement (.rexp r t wr) :=
  ⟨by simp (disch := decide) only [encodeOp, Option.map, fld_hi, fld_ofNat, Nat.reduceSub]; rfl, rfl⟩
theorem lutsel (r : BitVec 3) (t : BitVec 1) (wr : Wires) : Statement (.lutsel r t wr) :=
  ⟨by simp (disch := decide) only [encodeOp, Option.map, fld_hi, fld_ofNat, Nat.reduceSub]; rfl, rfl⟩
theorem steer (c : BitVec 4) (o : BitVec 4) (m : BitVec 4) (wr : Wires) : Statement (.steer c o m wr) :=
  ⟨by simp (disch := decide) only [encodeOp, Option.map, fld_hi, fld_ofNat, Nat.reduceSub]; rfl, rfl⟩
theorem merge (c : BitVec 4) (o : BitVec 4) (wr : Wires) : Statement (.merge c o wr) :=
  ⟨by simp (disch := decide) only [encodeOp, Option.map, fld_hi, fld_ofNat, Nat.reduceSub]; rfl, rfl⟩
theorem mergea (o : BitVec 4) (wr : Wires) : Statement (.mergea o wr) :=
  ⟨by simp (disch := decide) only [encodeOp, Option.map, fld_hi, fld_ofNat, Nat.reduceSub]; rfl, rfl⟩
theorem gate (c : BitVec 4) (o : BitVec 4) (m : BitVec 1) (wr : Wires) : Statement (.gate c o m wr) :=
  ⟨by simp (disch := decide) only [encodeOp, Option.map, fld_hi, fld_ofNat, Nat.reduceSub]; rfl, rfl⟩
theorem drop (c : BitVec 4) (o : BitVec 4) (m : BitVec 1) (wr : Wires) : Statement (.drop c o m wr) :=
  ⟨by simp (disch := decide) only [encodeOp, Option.map, fld_hi, fld_ofNat, Nat.reduceSub]; rfl, rfl⟩
theorem cemit (c : BitVec 4) (o : BitVec 4) (m : BitVec 1) (wr : Wires) : Statement (.cemit c o m wr) :=
  ⟨by simp (disch := decide) only [encodeOp, Option.map, fld_hi, fld_ofNat, Nat.reduceSub]; rfl, rfl⟩
theorem ctest (o : BitVec 4) (m : BitVec 8) (wr : Wires) : Statement (.ctest o m wr) :=
  ⟨by simp (disch := decide) only [encodeOp, Option.map, fld_hi, fld_ofNat, Nat.reduceSub]; rfl, rfl⟩
theorem cand (c : BitVec 4) (o : BitVec 4) (m : BitVec 3) (wr : Wires) : Statement (.cand c o m wr) :=
  ⟨by simp (disch := decide) only [encodeOp, Option.map, fld_hi, fld_ofNat, Nat.reduceSub]; rfl, rfl⟩
theorem cor (c : BitVec 4) (o : BitVec 4) (m : BitVec 3) (wr : Wires) : Statement (.cor c o m wr) :=
  ⟨by simp (disch := decide) only [encodeOp, Option.map, fld_hi, fld_ofNat, Nat.reduceSub]; rfl, rfl⟩
theorem cnot (c : BitVec 4) (o : BitVec 4) (wr : Wires) : Statement (.cnot c o wr) :=
  ⟨by simp (disch := decide) only [encodeOp, Option.map, fld_hi, fld_ofNat, Nat.reduceSub]; rfl, rfl⟩
theorem eose (c : BitVec 4) (m : BitVec 1) (wr : Wires) : Statement (.eose c m wr) :=
  ⟨by simp (disch := decide) only [encodeOp, Option.map, fld_hi, fld_ofNat, Nat.reduceSub]; rfl, rfl⟩
theorem eosq (o : BitVec 4) (m : BitVec 1) (wr : Wires) : Statement (.eosq o m wr) :=
  ⟨by simp (disch := decide) only [encodeOp, Option.map, fld_hi, fld_ofNat, Nat.reduceSub]; rfl, rfl⟩
theorem cnti (m : BitVec 2) (wr : Wires) : Statement (.cnti m wr) :=
  ⟨by simp (disch := decide) only [encodeOp, Option.map, fld_hi, fld_ofNat, Nat.reduceSub]; rfl, rfl⟩
theorem cnts (c : BitVec 4) (o : BitVec 4) (m : BitVec 3) (wr : Wires) : Statement (.cnts c o m wr) :=
  ⟨by simp (disch := decide) only [encodeOp, Option.map, fld_hi, fld_ofNat, Nat.reduceSub]; rfl, rfl⟩
theorem cntl (m : BitVec 3) (wr : Wires) : Statement (.cntl m wr) :=
  ⟨by simp (disch := decide) only [encodeOp, Option.map, fld_hi, fld_ofNat, Nat.reduceSub]; rfl, rfl⟩
theorem phase (c : BitVec 4) (m : BitVec 3) (wr : Wires) : Statement (.phase c m wr) :=
  ⟨by simp (disch := decide) only [encodeOp, Option.map, fld_hi, fld_ofNat, Nat.reduceSub]; rfl, rfl⟩
theorem ctxp (c : BitVec 4) (m : BitVec 2) (wr : Wires) : Statement (.ctxp c m wr) :=
  ⟨by simp (disch := decide) only [encodeOp, Option.map, fld_hi, fld_ofNat, Nat.reduceSub]; rfl, rfl⟩
theorem rowq (m : BitVec 2) (wr : Wires) : Statement (.rowq m wr) :=
  ⟨by simp (disch := decide) only [encodeOp, Option.map, fld_hi, fld_ofNat, Nat.reduceSub]; rfl, rfl⟩
theorem iofq (m : BitVec 2) (wr : Wires) : Statement (.iofq m wr) :=
  ⟨by simp (disch := decide) only [encodeOp, Option.map, fld_hi, fld_ofNat, Nat.reduceSub]; rfl, rfl⟩
theorem frmq (m : BitVec 3) (wr : Wires) : Statement (.frmq m wr) :=
  ⟨by simp (disch := decide) only [encodeOp, Option.map, fld_hi, fld_ofNat, Nat.reduceSub]; rfl, rfl⟩
theorem dly (m : BitVec 4) (wr : Wires) : Statement (.dly m wr) :=
  ⟨by simp (disch := decide) only [encodeOp, Option.map, fld_hi, fld_ofNat, Nat.reduceSub]; rfl, rfl⟩
theorem armx (c : BitVec 4) (o : BitVec 4) (m : BitVec 3) (wr : Wires) : Statement (.armx c o m wr) :=
  ⟨by simp (disch := decide) only [encodeOp, Option.map, fld_hi, fld_ofNat, Nat.reduceSub]; rfl, rfl⟩
theorem talloc (b : BitVec 6) (w : BitVec 1) (s : BitVec 1) (q : BitVec 2) (wr : Wires) : Statement (.talloc b w s q wr) :=
  ⟨by simp (disch := decide) only [encodeOp, Option.map, fld_hi, fld_ofNat, Nat.reduceSub]; rfl, rfl⟩
theorem tfree (w : BitVec 1) (s : BitVec 1) (q : BitVec 2) (wr : Wires) : Statement (.tfree w s q wr) :=
  ⟨by simp (disch := decide) only [encodeOp, Option.map, fld_hi, fld_ofNat, Nat.reduceSub]; rfl, rfl⟩
theorem tqry (w : BitVec 1) (s : BitVec 1) (q : BitVec 2) (v : BitVec 2) (u : BitVec 4) (wr : Wires) : Statement (.tqry w s q v u wr) :=
  ⟨by simp (disch := decide) only [encodeOp, Option.map, fld_hi, fld_ofNat, Nat.reduceSub]; rfl, rfl⟩
theorem ldt (w : BitVec 4) (z : BitVec 2) (x : BitVec 1) (t : BitVec 1) (p : BitVec 1) (i : BitVec 7) (wr : Wires) : Statement (.ldt w z x t p i wr) :=
  ⟨by simp (disch := decide) only [encodeOp, Option.map, fld_hi, fld_ofNat, Nat.reduceSub]; rfl, rfl⟩
theorem stt (w : BitVec 4) (z : BitVec 2) (t : BitVec 1) (p : BitVec 1) (i : BitVec 7) (wr : Wires) : Statement (.stt w z t p i wr) :=
  ⟨by simp (disch := decide) only [encodeOp, Option.map, fld_hi, fld_ofNat, Nat.reduceSub]; rfl, rfl⟩
theorem ldts (w : BitVec 4) (z : BitVec 2) (x : BitVec 1) (t : BitVec 1) (p : BitVec 1) (i : BitVec 7) (wr : Wires) : Statement (.ldts w z x t p i wr) :=
  ⟨by simp (disch := decide) only [encodeOp, Option.map, fld_hi, fld_ofNat, Nat.reduceSub]; rfl, rfl⟩
theorem sttf (w : BitVec 4) (z : BitVec 2) (t : BitVec 1) (p : BitVec 1) (i : BitVec 7) (wr : Wires) : Statement (.sttf w z t p i wr) :=
  ⟨by simp (disch := decide) only [encodeOp, Option.map, fld_hi, fld_ofNat, Nat.reduceSub]; rfl, rfl⟩
theorem ldte (w : BitVec 4) (z : BitVec 2) (x : BitVec 1) (t : BitVec 1) (p : BitVec 1) (i : BitVec 7) (wr : Wires) : Statement (.ldte w z x t p i wr) :=
  ⟨by simp (disch := decide) only [encodeOp, Option.map, fld_hi, fld_ofNat, Nat.reduceSub]; rfl, rfl⟩
theorem feset (w : BitVec 4) (z : BitVec 2) (t : BitVec 1) (p : BitVec 1) (i : BitVec 7) (wr : Wires) : Statement (.feset w z t p i wr) :=
  ⟨by simp (disch := decide) only [encodeOp, Option.map, fld_hi, fld_ofNat, Nat.reduceSub]; rfl, rfl⟩
theorem feq (w : BitVec 4) (z : BitVec 2) (t : BitVec 1) (p : BitVec 1) (i : BitVec 7) (wr : Wires) : Statement (.feq w z t p i wr) :=
  ⟨by simp (disch := decide) only [encodeOp, Option.map, fld_hi, fld_ofNat, Nat.reduceSub]; rfl, rfl⟩
theorem tcopy (b : BitVec 6) (w : BitVec 1) (s : BitVec 1) (q : BitVec 2) (wr : Wires) : Statement (.tcopy b w s q wr) :=
  ⟨by simp (disch := decide) only [encodeOp, Option.map, fld_hi, fld_ofNat, Nat.reduceSub]; rfl, rfl⟩
theorem tfill (b : BitVec 6) (w : BitVec 1) (s : BitVec 1) (q : BitVec 2) (wr : Wires) : Statement (.tfill b w s q wr) :=
  ⟨by simp (disch := decide) only [encodeOp, Option.map, fld_hi, fld_ofNat, Nat.reduceSub]; rfl, rfl⟩
theorem tlevel (w : BitVec 1) (s : BitVec 1) (q : BitVec 2) (v : BitVec 2) (u : BitVec 4) (wr : Wires) : Statement (.tlevel w s q v u wr) :=
  ⟨by simp (disch := decide) only [encodeOp, Option.map, fld_hi, fld_ofNat, Nat.reduceSub]; rfl, rfl⟩
theorem gld (w : BitVec 4) (z : BitVec 2) (x : BitVec 1) (t : BitVec 1) (p : BitVec 1) (i : BitVec 7) (wr : Wires) : Statement (.gld w z x t p i wr) :=
  ⟨by simp (disch := decide) only [encodeOp, Option.map, fld_hi, fld_ofNat, Nat.reduceSub]; rfl, rfl⟩
theorem gst (w : BitVec 4) (z : BitVec 2) (t : BitVec 1) (p : BitVec 1) (i : BitVec 7) (wr : Wires) : Statement (.gst w z t p i wr) :=
  ⟨by simp (disch := decide) only [encodeOp, Option.map, fld_hi, fld_ofNat, Nat.reduceSub]; rfl, rfl⟩
theorem glds (w : BitVec 4) (z : BitVec 2) (x : BitVec 1) (t : BitVec 1) (p : BitVec 1) (i : BitVec 7) (wr : Wires) : Statement (.glds w z x t p i wr) :=
  ⟨by simp (disch := decide) only [encodeOp, Option.map, fld_hi, fld_ofNat, Nat.reduceSub]; rfl, rfl⟩
theorem gstf (w : BitVec 4) (z : BitVec 2) (t : BitVec 1) (p : BitVec 1) (i : BitVec 7) (wr : Wires) : Statement (.gstf w z t p i wr) :=
  ⟨by simp (disch := decide) only [encodeOp, Option.map, fld_hi, fld_ofNat, Nat.reduceSub]; rfl, rfl⟩
theorem strmi (b : BitVec 6) (w : BitVec 1) (s : BitVec 1) (q : BitVec 2) (u : BitVec 4) (wr : Wires) : Statement (.strmi b w s q u wr) :=
  ⟨by simp (disch := decide) only [encodeOp, Option.map, fld_hi, fld_ofNat, Nat.reduceSub]; rfl, rfl⟩
theorem strmo (b : BitVec 6) (w : BitVec 1) (s : BitVec 1) (q : BitVec 2) (u : BitVec 4) (wr : Wires) : Statement (.strmo b w s q u wr) :=
  ⟨by simp (disch := decide) only [encodeOp, Option.map, fld_hi, fld_ofNat, Nat.reduceSub]; rfl, rfl⟩
theorem gath (b : BitVec 6) (w : BitVec 1) (s : BitVec 1) (q : BitVec 2) (u : BitVec 4) (wr : Wires) : Statement (.gath b w s q u wr) :=
  ⟨by simp (disch := decide) only [encodeOp, Option.map, fld_hi, fld_ofNat, Nat.reduceSub]; rfl, rfl⟩
theorem scat (b : BitVec 6) (w : BitVec 1) (s : BitVec 1) (q : BitVec 2) (u : BitVec 4) (wr : Wires) : Statement (.scat b w s q u wr) :=
  ⟨by simp (disch := decide) only [encodeOp, Option.map, fld_hi, fld_ofNat, Nat.reduceSub]; rfl, rfl⟩
theorem sprg (w : BitVec 1) (s : BitVec 1) (q : BitVec 2) (v : BitVec 2) (u : BitVec 4) (wr : Wires) : Statement (.sprg w s q v u wr) :=
  ⟨by simp (disch := decide) only [encodeOp, Option.map, fld_hi, fld_ofNat, Nat.reduceSub]; rfl, rfl⟩
theorem sabt (w : BitVec 1) (s : BitVec 1) (q : BitVec 2) (v : BitVec 2) (wr : Wires) : Statement (.sabt w s q v wr) :=
  ⟨by simp (disch := decide) only [encodeOp, Option.map, fld_hi, fld_ofNat, Nat.reduceSub]; rfl, rfl⟩
theorem sres (w : BitVec 1) (s : BitVec 1) (q : BitVec 2) (v : BitVec 2) (wr : Wires) : Statement (.sres w s q v wr) :=
  ⟨by simp (disch := decide) only [encodeOp, Option.map, fld_hi, fld_ofNat, Nat.reduceSub]; rfl, rfl⟩
theorem aadd (w : BitVec 4) (z : BitVec 1) (t : BitVec 1) (p : BitVec 1) (i : BitVec 7) (wr : Wires) : Statement (.aadd w z t p i wr) :=
  ⟨by simp (disch := decide) only [encodeOp, Option.map, fld_hi, fld_ofNat, Nat.reduceSub]; rfl, rfl⟩
theorem amin (w : BitVec 4) (z : BitVec 1) (t : BitVec 1) (p : BitVec 1) (i : BitVec 7) (wr : Wires) : Statement (.amin w z t p i wr) :=
  ⟨by simp (disch := decide) only [encodeOp, Option.map, fld_hi, fld_ofNat, Nat.reduceSub]; rfl, rfl⟩
theorem amax (w : BitVec 4) (z : BitVec 1) (t : BitVec 1) (p : BitVec 1) (i : BitVec 7) (wr : Wires) : Statement (.amax w z t p i wr) :=
  ⟨by simp (disch := decide) only [encodeOp, Option.map, fld_hi, fld_ofNat, Nat.reduceSub]; rfl, rfl⟩
theorem aand (w : BitVec 4) (z : BitVec 1) (t : BitVec 1) (p : BitVec 1) (i : BitVec 7) (wr : Wires) : Statement (.aand w z t p i wr) :=
  ⟨by simp (disch := decide) only [encodeOp, Option.map, fld_hi, fld_ofNat, Nat.reduceSub]; rfl, rfl⟩
theorem aor (w : BitVec 4) (z : BitVec 1) (t : BitVec 1) (p : BitVec 1) (i : BitVec 7) (wr : Wires) : Statement (.aor w z t p i wr) :=
  ⟨by simp (disch := decide) only [encodeOp, Option.map, fld_hi, fld_ofNat, Nat.reduceSub]; rfl, rfl⟩
theorem axch (w : BitVec 4) (z : BitVec 1) (t : BitVec 1) (p : BitVec 1) (i : BitVec 7) (wr : Wires) : Statement (.axch w z t p i wr) :=
  ⟨by simp (disch := decide) only [encodeOp, Option.map, fld_hi, fld_ofNat, Nat.reduceSub]; rfl, rfl⟩
theorem acas (w : BitVec 4) (z : BitVec 1) (t : BitVec 1) (p : BitVec 1) (i : BitVec 7) (wr : Wires) : Statement (.acas w z t p i wr) :=
  ⟨by simp (disch := decide) only [encodeOp, Option.map, fld_hi, fld_ofNat, Nat.reduceSub]; rfl, rfl⟩
theorem afadd (w : BitVec 4) (t : BitVec 1) (p : BitVec 1) (i : BitVec 7) (wr : Wires) : Statement (.afadd w t p i wr) :=
  ⟨by simp (disch := decide) only [encodeOp, Option.map, fld_hi, fld_ofNat, Nat.reduceSub]; rfl, rfl⟩
theorem fence (u : BitVec 4) (wr : Wires) : Statement (.fence u wr) :=
  ⟨by simp (disch := decide) only [encodeOp, Option.map, fld_hi, fld_ofNat, Nat.reduceSub]; rfl, rfl⟩
theorem rels (wr : Wires) : Statement (.rels wr) :=
  ⟨by simp (disch := decide) only [encodeOp, Option.map, fld_hi, fld_ofNat, Nat.reduceSub]; rfl, rfl⟩
theorem acqs (wr : Wires) : Statement (.acqs wr) :=
  ⟨by simp (disch := decide) only [encodeOp, Option.map, fld_hi, fld_ofNat, Nat.reduceSub]; rfl, rfl⟩
theorem xfer (b : BitVec 6) (w : BitVec 1) (s : BitVec 1) (q : BitVec 2) (wr : Wires) : Statement (.xfer b w s q wr) :=
  ⟨by simp (disch := decide) only [encodeOp, Option.map, fld_hi, fld_ofNat, Nat.reduceSub]; rfl, rfl⟩
theorem mirr (b : BitVec 6) (w : BitVec 1) (s : BitVec 1) (q : BitVec 2) (wr : Wires) : Statement (.mirr b w s q wr) :=
  ⟨by simp (disch := decide) only [encodeOp, Option.map, fld_hi, fld_ofNat, Nat.reduceSub]; rfl, rfl⟩
theorem coll (b : BitVec 6) (w : BitVec 1) (s : BitVec 1) (q : BitVec 2) (wr : Wires) : Statement (.coll b w s q wr) :=
  ⟨by simp (disch := decide) only [encodeOp, Option.map, fld_hi, fld_ofNat, Nat.reduceSub]; rfl, rfl⟩
theorem mma (b : BitVec 6) (w : BitVec 1) (s : BitVec 1) (q : BitVec 2) (wr : Wires) : Statement (.mma b w s q wr) :=
  ⟨by simp (disch := decide) only [encodeOp, Option.map, fld_hi, fld_ofNat, Nat.reduceSub]; rfl, rfl⟩
theorem mmas (b : BitVec 6) (w : BitVec 1) (s : BitVec 1) (q : BitVec 2) (wr : Wires) : Statement (.mmas b w s q wr) :=
  ⟨by simp (disch := decide) only [encodeOp, Option.map, fld_hi, fld_ofNat, Nat.reduceSub]; rfl, rfl⟩
theorem mmav (b : BitVec 6) (w : BitVec 1) (s : BitVec 1) (q : BitVec 2) (wr : Wires) : Statement (.mmav b w s q wr) :=
  ⟨by simp (disch := decide) only [encodeOp, Option.map, fld_hi, fld_ofNat, Nat.reduceSub]; rfl, rfl⟩
theorem mmab (b : BitVec 6) (w : BitVec 1) (s : BitVec 1) (q : BitVec 2) (wr : Wires) : Statement (.mmab b w s q wr) :=
  ⟨by simp (disch := decide) only [encodeOp, Option.map, fld_hi, fld_ofNat, Nat.reduceSub]; rfl, rfl⟩
theorem macc (b : BitVec 6) (w : BitVec 1) (s : BitVec 1) (q : BitVec 2) (u : BitVec 4) (wr : Wires) : Statement (.macc b w s q u wr) :=
  ⟨by simp (disch := decide) only [encodeOp, Option.map, fld_hi, fld_ofNat, Nat.reduceSub]; rfl, rfl⟩
theorem mdrn (b : BitVec 6) (w : BitVec 1) (s : BitVec 1) (q : BitVec 2) (v : BitVec 2) (wr : Wires) : Statement (.mdrn b w s q v wr) :=
  ⟨by simp (disch := decide) only [encodeOp, Option.map, fld_hi, fld_ofNat, Nat.reduceSub]; rfl, rfl⟩
theorem mprg (u : BitVec 4) (wr : Wires) : Statement (.mprg u wr) :=
  ⟨by simp (disch := decide) only [encodeOp, Option.map, fld_hi, fld_ofNat, Nat.reduceSub]; rfl, rfl⟩
theorem mres (wr : Wires) : Statement (.mres wr) :=
  ⟨by simp (disch := decide) only [encodeOp, Option.map, fld_hi, fld_ofNat, Nat.reduceSub]; rfl, rfl⟩
theorem mabt (wr : Wires) : Statement (.mabt wr) :=
  ⟨by simp (disch := decide) only [encodeOp, Option.map, fld_hi, fld_ofNat, Nat.reduceSub]; rfl, rfl⟩
theorem mshp (w : BitVec 1) (s : BitVec 1) (q : BitVec 2) (wr : Wires) : Statement (.mshp w s q wr) :=
  ⟨by simp (disch := decide) only [encodeOp, Option.map, fld_hi, fld_ofNat, Nat.reduceSub]; rfl, rfl⟩
theorem xld (b : BitVec 6) (w : BitVec 1) (s : BitVec 1) (q : BitVec 2) (v : BitVec 2) (u : BitVec 4) (wr : Wires) : Statement (.xld b w s q v u wr) :=
  ⟨by simp (disch := decide) only [encodeOp, Option.map, fld_hi, fld_ofNat, Nat.reduceSub]; rfl, rfl⟩
theorem xst (b : BitVec 6) (w : BitVec 1) (s : BitVec 1) (q : BitVec 2) (wr : Wires) : Statement (.xst b w s q wr) :=
  ⟨by simp (disch := decide) only [encodeOp, Option.map, fld_hi, fld_ofNat, Nat.reduceSub]; rfl, rfl⟩
theorem cbld (b : BitVec 6) (w : BitVec 1) (s : BitVec 1) (q : BitVec 2) (u : BitVec 3) (wr : Wires) : Statement (.cbld b w s q u wr) :=
  ⟨by simp (disch := decide) only [encodeOp, Option.map, fld_hi, fld_ofNat, Nat.reduceSub]; rfl, rfl⟩
theorem vqx (w : BitVec 1) (s : BitVec 1) (q : BitVec 2) (v : BitVec 2) (u : BitVec 3) (wr : Wires) : Statement (.vqx w s q v u wr) :=
  ⟨by simp (disch := decide) only [encodeOp, Option.map, fld_hi, fld_ofNat, Nat.reduceSub]; rfl, rfl⟩
theorem compm (b : BitVec 6) (w : BitVec 1) (s : BitVec 1) (q : BitVec 2) (wr : Wires) : Statement (.compm b w s q wr) :=
  ⟨by simp (disch := decide) only [encodeOp, Option.map, fld_hi, fld_ofNat, Nat.reduceSub]; rfl, rfl⟩
theorem expdm (b : BitVec 6) (w : BitVec 1) (s : BitVec 1) (q : BitVec 2) (wr : Wires) : Statement (.expdm b w s q wr) :=
  ⟨by simp (disch := decide) only [encodeOp, Option.map, fld_hi, fld_ofNat, Nat.reduceSub]; rfl, rfl⟩
theorem fibp (b : BitVec 6) (w : BitVec 1) (s : BitVec 1) (q : BitVec 2) (wr : Wires) : Statement (.fibp b w s q wr) :=
  ⟨by simp (disch := decide) only [encodeOp, Option.map, fld_hi, fld_ofNat, Nat.reduceSub]; rfl, rfl⟩
theorem fibu (b : BitVec 6) (w : BitVec 1) (s : BitVec 1) (q : BitVec 2) (wr : Wires) : Statement (.fibu b w s q wr) :=
  ⟨by simp (disch := decide) only [encodeOp, Option.map, fld_hi, fld_ofNat, Nat.reduceSub]; rfl, rfl⟩
theorem isect (b : BitVec 6) (w : BitVec 1) (s : BitVec 1) (q : BitVec 2) (u : BitVec 4) (wr : Wires) : Statement (.isect b w s q u wr) :=
  ⟨by simp (disch := decide) only [encodeOp, Option.map, fld_hi, fld_ofNat, Nat.reduceSub]; rfl, rfl⟩
theorem dcmpj (b : BitVec 6) (w : BitVec 1) (s : BitVec 1) (q : BitVec 2) (wr : Wires) : Statement (.dcmpj b w s q wr) :=
  ⟨by simp (disch := decide) only [encodeOp, Option.map, fld_hi, fld_ofNat, Nat.reduceSub]; rfl, rfl⟩
theorem dcmpq (w : BitVec 1) (s : BitVec 1) (q : BitVec 2) (v : BitVec 2) (u : BitVec 4) (wr : Wires) : Statement (.dcmpq w s q v u wr) :=
  ⟨by simp (disch := decide) only [encodeOp, Option.map, fld_hi, fld_ofNat, Nat.reduceSub]; rfl, rfl⟩
theorem lzcp (b : BitVec 6) (w : BitVec 1) (s : BitVec 1) (q : BitVec 2) (u : BitVec 4) (wr : Wires) : Statement (.lzcp b w s q u wr) :=
  ⟨by simp (disch := decide) only [encodeOp, Option.map, fld_hi, fld_ofNat, Nat.reduceSub]; rfl, rfl⟩
theorem layw (b : BitVec 6) (wr : Wires) : Statement (.layw b wr) :=
  ⟨by simp (disch := decide) only [encodeOp, Option.map, fld_hi, fld_ofNat, Nat.reduceSub]; rfl, rfl⟩
theorem layr (b : BitVec 6) (v : BitVec 2) (wr : Wires) : Statement (.layr b v wr) :=
  ⟨by simp (disch := decide) only [encodeOp, Option.map, fld_hi, fld_ofNat, Nat.reduceSub]; rfl, rfl⟩
theorem trns (b : BitVec 6) (w : BitVec 1) (s : BitVec 1) (q : BitVec 2) (wr : Wires) : Statement (.trns b w s q wr) :=
  ⟨by simp (disch := decide) only [encodeOp, Option.map, fld_hi, fld_ofNat, Nat.reduceSub]; rfl, rfl⟩
theorem redx (b : BitVec 6) (w : BitVec 1) (s : BitVec 1) (q : BitVec 2) (wr : Wires) : Statement (.redx b w s q wr) :=
  ⟨by simp (disch := decide) only [encodeOp, Option.map, fld_hi, fld_ofNat, Nat.reduceSub]; rfl, rfl⟩
theorem cinit (b : BitVec 6) (wr : Wires) : Statement (.cinit b wr) :=
  ⟨by simp (disch := decide) only [encodeOp, Option.map, fld_hi, fld_ofNat, Nat.reduceSub]; rfl, rfl⟩
theorem carr (b : BitVec 6) (v : BitVec 2) (wr : Wires) : Statement (.carr b v wr) :=
  ⟨by simp (disch := decide) only [encodeOp, Option.map, fld_hi, fld_ofNat, Nat.reduceSub]; rfl, rfl⟩
theorem cexpb (b : BitVec 6) (wr : Wires) : Statement (.cexpb b wr) :=
  ⟨by simp (disch := decide) only [encodeOp, Option.map, fld_hi, fld_ofNat, Nat.reduceSub]; rfl, rfl⟩
theorem cqry (b : BitVec 6) (u : BitVec 4) (wr : Wires) : Statement (.cqry b u wr) :=
  ⟨by simp (disch := decide) only [encodeOp, Option.map, fld_hi, fld_ofNat, Nat.reduceSub]; rfl, rfl⟩
theorem cdrop (b : BitVec 6) (wr : Wires) : Statement (.cdrop b wr) :=
  ⟨by simp (disch := decide) only [encodeOp, Option.map, fld_hi, fld_ofNat, Nat.reduceSub]; rfl, rfl⟩
theorem tapeb (b : BitVec 6) (wr : Wires) : Statement (.tapeb b wr) :=
  ⟨by simp (disch := decide) only [encodeOp, Option.map, fld_hi, fld_ofNat, Nat.reduceSub]; rfl, rfl⟩
theorem tapee (wr : Wires) : Statement (.tapee wr) :=
  ⟨by simp (disch := decide) only [encodeOp, Option.map, fld_hi, fld_ofNat, Nat.reduceSub]; rfl, rfl⟩
theorem tapev (b : BitVec 6) (v : BitVec 1) (wr : Wires) : Statement (.tapev b v wr) :=
  ⟨by simp (disch := decide) only [encodeOp, Option.map, fld_hi, fld_ofNat, Nat.reduceSub]; rfl, rfl⟩
theorem taper (b : BitVec 6) (wr : Wires) : Statement (.taper b wr) :=
  ⟨by simp (disch := decide) only [encodeOp, Option.map, fld_hi, fld_ofNat, Nat.reduceSub]; rfl, rfl⟩
theorem tapep (b : BitVec 6) (wr : Wires) : Statement (.tapep b wr) :=
  ⟨by simp (disch := decide) only [encodeOp, Option.map, fld_hi, fld_ofNat, Nat.reduceSub]; rfl, rfl⟩
theorem tapec (wr : Wires) : Statement (.tapec wr) :=
  ⟨by simp (disch := decide) only [encodeOp, Option.map, fld_hi, fld_ofNat, Nat.reduceSub]; rfl, rfl⟩
theorem tapeq (u : BitVec 4) (wr : Wires) : Statement (.tapeq u wr) :=
  ⟨by simp (disch := decide) only [encodeOp, Option.map, fld_hi, fld_ofNat, Nat.reduceSub]; rfl, rfl⟩
theorem tapek (b : BitVec 6) (wr : Wires) : Statement (.tapek b wr) :=
  ⟨by simp (disch := decide) only [encodeOp, Option.map, fld_hi, fld_ofNat, Nat.reduceSub]; rfl, rfl⟩
theorem mark (wr : Wires) : Statement (.mark wr) :=
  ⟨by simp (disch := decide) only [encodeOp, Option.map, fld_hi, fld_ofNat, Nat.reduceSub]; rfl, rfl⟩
theorem snapq (u : BitVec 4) (wr : Wires) : Statement (.snapq u wr) :=
  ⟨by simp (disch := decide) only [encodeOp, Option.map, fld_hi, fld_ofNat, Nat.reduceSub]; rfl, rfl⟩
theorem rtag (wr : Wires) : Statement (.rtag wr) :=
  ⟨by simp (disch := decide) only [encodeOp, Option.map, fld_hi, fld_ofNat, Nat.reduceSub]; rfl, rfl⟩
theorem poisn (u : BitVec 4) (wr : Wires) : Statement (.poisn u wr) :=
  ⟨by simp (disch := decide) only [encodeOp, Option.map, fld_hi, fld_ofNat, Nat.reduceSub]; rfl, rfl⟩
theorem poisq (wr : Wires) : Statement (.poisq wr) :=
  ⟨by simp (disch := decide) only [encodeOp, Option.map, fld_hi, fld_ofNat, Nat.reduceSub]; rfl, rfl⟩
theorem verd (u : BitVec 4) (wr : Wires) : Statement (.verd u wr) :=
  ⟨by simp (disch := decide) only [encodeOp, Option.map, fld_hi, fld_ofNat, Nat.reduceSub]; rfl, rfl⟩
theorem cmpv (b : BitVec 6) (wr : Wires) : Statement (.cmpv b wr) :=
  ⟨by simp (disch := decide) only [encodeOp, Option.map, fld_hi, fld_ofNat, Nat.reduceSub]; rfl, rfl⟩
theorem powerUp (helper : Bool) (outcomes : List SelfTest) : Statement (.powerUp helper outcomes) := ⟨rfl, rfl⟩
theorem timerCompare (slot : BitVec 4) : Statement (.timerCompare slot) := ⟨rfl, rfl⟩
theorem cryptoCompletion (job : Nat) : Statement (.cryptoCompletion job) := ⟨rfl, rfl⟩
theorem throttleLevelApply (die : Nat) : Statement (.throttleLevelApply die) := ⟨rfl, rfl⟩
theorem linkTokenArrival (e : ElemId) (c : Ctx) (l : LaneNo) : Statement (.linkTokenArrival e c l) := ⟨rfl, rfl⟩
theorem controlTokenArrival (e : ElemId) (c : Ctx) (l : LaneNo) : Statement (.controlTokenArrival e c l) := ⟨rfl, rfl⟩
theorem bypassHop (e : ElemId) (c : Ctx) (d : Dir) : Statement (.bypassHop e c d) := ⟨rfl, rfl⟩
theorem laneDiscardDrop (e : ElemId) (c : Ctx) (l : LaneNo) : Statement (.laneDiscardDrop e c l) := ⟨rfl, rfl⟩
theorem markerTaken (e : ElemId) (c : Ctx) (l : LaneNo) : Statement (.markerTaken e c l) := ⟨rfl, rfl⟩
theorem teardownToken (e : ElemId) (c : Ctx) : Statement (.teardownToken e c) := ⟨rfl, rfl⟩
theorem scalarAccessCompletion (e : ElemId) : Statement (.scalarAccessCompletion e) := ⟨rfl, rfl⟩
theorem parkedAccessRetest (k : Nat) : Statement (.parkedAccessRetest k) := ⟨rfl, rfl⟩
theorem jobElement (e : ElemId) (j : Fin 4) : Statement (.jobElement e j) := ⟨rfl, rfl⟩
theorem jobFaultStop (e : ElemId) (j : Fin 4) : Statement (.jobFaultStop e j) := ⟨rfl, rfl⟩
theorem jobRetirement (e : ElemId) (j : Fin 4) : Statement (.jobRetirement e j) := ⟨rfl, rfl⟩
theorem portWeightRecompute (e : ElemId) : Statement (.portWeightRecompute e) := ⟨rfl, rfl⟩
theorem heldOpRetirement (e : ElemId) : Statement (.heldOpRetirement e) := ⟨rfl, rfl⟩
theorem hostWrite (addr : W64) (data : List Byte) : Statement (.hostWrite addr data) := ⟨rfl, rfl⟩
theorem migrationSwitch (k : Nat) : Statement (.migrationSwitch k) := ⟨rfl, rfl⟩
theorem pagemCompletion (k : Nat) : Statement (.pagemCompletion k) := ⟨rfl, rfl⟩
theorem pommelJobCompletion (k : Nat) : Statement (.pommelJobCompletion k) := ⟨rfl, rfl⟩
theorem mirrorWriteReceive (flit : Flit) : Statement (.mirrorWriteReceive flit) := ⟨rfl, rfl⟩
theorem matrixGroupCommit (e : ElemId) : Statement (.matrixGroupCommit e) := ⟨rfl, rfl⟩
theorem matrixCommandRetirement (e : ElemId) : Statement (.matrixCommandRetirement e) := ⟨rfl, rfl⟩
theorem matrixFeedFault (e : ElemId) : Statement (.matrixFeedFault e) := ⟨rfl, rfl⟩
theorem mdDrainToken (e : ElemId) : Statement (.mdDrainToken e) := ⟨rfl, rfl⟩
theorem cinchRequestArrival (k : Nat) : Statement (.cinchRequestArrival k) := ⟨rfl, rfl⟩
theorem cinchPendSubtract (die : Nat) (k : Nat) (n : Nat) : Statement (.cinchPendSubtract die k n) := ⟨rfl, rfl⟩
theorem collContributionArrival (k : Nat) : Statement (.collContributionArrival k) := ⟨rfl, rfl⟩
theorem collRetirement (e : ElemId) : Statement (.collRetirement e) := ⟨rfl, rfl⟩
theorem tapeRecordAccept (die : Nat) (k : Nat) : Statement (.tapeRecordAccept die k) := ⟨rfl, rfl⟩
theorem tapeKeyWrite (e : ElemId) (c : Ctx) : Statement (.tapeKeyWrite e c) := ⟨rfl, rfl⟩
theorem tapeClose (die : Nat) (k : Nat) : Statement (.tapeClose die k) := ⟨rfl, rfl⟩
theorem tapeRegeneration (die : Nat) (k : Nat) : Statement (.tapeRegeneration die k) := ⟨rfl, rfl⟩
theorem dcmpjEngineStart (e : ElemId) (j : Fin 4) : Statement (.dcmpjEngineStart e j) := ⟨rfl, rfl⟩
theorem dcmpjCompletion (e : ElemId) (j : Fin 4) : Statement (.dcmpjCompletion e j) := ⟨rfl, rfl⟩
theorem tableActivation (p : Nat) : Statement (.tableActivation p) := ⟨rfl, rfl⟩
theorem runStart (p : Nat) (k : Nat) : Statement (.runStart p k) := ⟨rfl, rfl⟩
theorem countTake (p : Nat) (k : Nat) : Statement (.countTake p k) := ⟨rfl, rfl⟩
theorem deadline (run : Nat) : Statement (.deadline run) := ⟨rfl, rfl⟩
theorem completionRecordWrite (run : Nat) : Statement (.completionRecordWrite run) := ⟨rfl, rfl⟩
theorem modeChangePoint (p : Nat) : Statement (.modeChangePoint p) := ⟨rfl, rfl⟩
theorem ctxldDone (op : Nat) : Statement (.ctxldDone op) := ⟨rfl, rfl⟩
theorem partmDone (op : Nat) : Statement (.partmDone op) := ⟨rfl, rfl⟩
theorem doffDone (op : Nat) : Statement (.doffDone op) := ⟨rfl, rfl⟩
theorem spareDone (op : Nat) : Statement (.spareDone op) := ⟨rfl, rfl⟩
theorem voteCompare (run : Nat) : Statement (.voteCompare run) := ⟨rfl, rfl⟩
theorem voteCopyStart (run : Nat) : Statement (.voteCopyStart run) := ⟨rfl, rfl⟩
theorem keeperAdvance (die : Nat) (r : Nat) : Statement (.keeperAdvance die r) := ⟨rfl, rfl⟩
theorem keeperCompare (k : Nat) : Statement (.keeperCompare k) := ⟨rfl, rfl⟩
theorem rollback (run : Nat) (copy : Nat) : Statement (.rollback run copy) := ⟨rfl, rfl⟩
theorem configReload (e : ElemId) (c : Ctx) : Statement (.configReload e c) := ⟨rfl, rfl⟩
theorem machineCheck (e : ElemId) : Statement (.machineCheck e) := ⟨rfl, rfl⟩
theorem sensorFrame (port : BitVec 5) (frame : Frame) : Statement (.sensorFrame port frame) := ⟨rfl, rfl⟩
theorem tileMoveCompletion (e : ElemId) : Statement (.tileMoveCompletion e) := ⟨rfl, rfl⟩
theorem cinchAnswerArrival (e : ElemId) : Statement (.cinchAnswerArrival e) := ⟨rfl, rfl⟩
theorem migrationSweep (k : Nat) : Statement (.migrationSweep k) := ⟨rfl, rfl⟩
theorem nopTask : Statement .nopTask :=
  ⟨rfl, by simp (disch := decide) only [encodeTask, Option.map, fld_hi, fld_ofNat, Nat.reduceSub]; rfl⟩
theorem addTask (d : BitVec 5) (a : BitVec 5) (b : BitVec 5) : Statement (.addTask d a b) :=
  ⟨rfl, by simp (disch := decide) only [encodeTask, Option.map, fld_hi, fld_ofNat, Nat.reduceSub]; rfl⟩
theorem subTask (d : BitVec 5) (a : BitVec 5) (b : BitVec 5) : Statement (.subTask d a b) :=
  ⟨rfl, by simp (disch := decide) only [encodeTask, Option.map, fld_hi, fld_ofNat, Nat.reduceSub]; rfl⟩
theorem addiTask (d : BitVec 5) (a : BitVec 5) (i : BitVec 14) : Statement (.addiTask d a i) :=
  ⟨rfl, by simp (disch := decide) only [encodeTask, Option.map, fld_hi, fld_ofNat, Nat.reduceSub]; rfl⟩
theorem mulTask (d : BitVec 5) (a : BitVec 5) (b : BitVec 5) : Statement (.mulTask d a b) :=
  ⟨rfl, by simp (disch := decide) only [encodeTask, Option.map, fld_hi, fld_ofNat, Nat.reduceSub]; rfl⟩
theorem mulhTask (d : BitVec 5) (a : BitVec 5) (b : BitVec 5) : Statement (.mulhTask d a b) :=
  ⟨rfl, by simp (disch := decide) only [encodeTask, Option.map, fld_hi, fld_ofNat, Nat.reduceSub]; rfl⟩
theorem mulhnTask (d : BitVec 5) (a : BitVec 5) (b : BitVec 5) : Statement (.mulhnTask d a b) :=
  ⟨rfl, by simp (disch := decide) only [encodeTask, Option.map, fld_hi, fld_ofNat, Nat.reduceSub]; rfl⟩
theorem div (d : BitVec 5) (a : BitVec 5) (b : BitVec 5) : Statement (.div d a b) :=
  ⟨rfl, by simp (disch := decide) only [encodeTask, Option.map, fld_hi, fld_ofNat, Nat.reduceSub]; rfl⟩
theorem divn (d : BitVec 5) (a : BitVec 5) (b : BitVec 5) : Statement (.divn d a b) :=
  ⟨rfl, by simp (disch := decide) only [encodeTask, Option.map, fld_hi, fld_ofNat, Nat.reduceSub]; rfl⟩
theorem rem (d : BitVec 5) (a : BitVec 5) (b : BitVec 5) : Statement (.rem d a b) :=
  ⟨rfl, by simp (disch := decide) only [encodeTask, Option.map, fld_hi, fld_ofNat, Nat.reduceSub]; rfl⟩
theorem remn (d : BitVec 5) (a : BitVec 5) (b : BitVec 5) : Statement (.remn d a b) :=
  ⟨rfl, by simp (disch := decide) only [encodeTask, Option.map, fld_hi, fld_ofNat, Nat.reduceSub]; rfl⟩
theorem minTask (d : BitVec 5) (a : BitVec 5) (b : BitVec 5) : Statement (.minTask d a b) :=
  ⟨rfl, by simp (disch := decide) only [encodeTask, Option.map, fld_hi, fld_ofNat, Nat.reduceSub]; rfl⟩
theorem maxTask (d : BitVec 5) (a : BitVec 5) (b : BitVec 5) : Statement (.maxTask d a b) :=
  ⟨rfl, by simp (disch := decide) only [encodeTask, Option.map, fld_hi, fld_ofNat, Nat.reduceSub]; rfl⟩
theorem minnTask (d : BitVec 5) (a : BitVec 5) (b : BitVec 5) : Statement (.minnTask d a b) :=
  ⟨rfl, by simp (disch := decide) only [encodeTask, Option.map, fld_hi, fld_ofNat, Nat.reduceSub]; rfl⟩
theorem maxnTask (d : BitVec 5) (a : BitVec 5) (b : BitVec 5) : Statement (.maxnTask d a b) :=
  ⟨rfl, by simp (disch := decide) only [encodeTask, Option.map, fld_hi, fld_ofNat, Nat.reduceSub]; rfl⟩
theorem absTask (d : BitVec 5) (a : BitVec 5) : Statement (.absTask d a) :=
  ⟨rfl, by simp (disch := decide) only [encodeTask, Option.map, fld_hi, fld_ofNat, Nat.reduceSub]; rfl⟩
theorem negTask (d : BitVec 5) (a : BitVec 5) : Statement (.negTask d a) :=
  ⟨rfl, by simp (disch := decide) only [encodeTask, Option.map, fld_hi, fld_ofNat, Nat.reduceSub]; rfl⟩
theorem andTask (d : BitVec 5) (a : BitVec 5) (b : BitVec 5) : Statement (.andTask d a b) :=
  ⟨rfl, by simp (disch := decide) only [encodeTask, Option.map, fld_hi, fld_ofNat, Nat.reduceSub]; rfl⟩
theorem orTask (d : BitVec 5) (a : BitVec 5) (b : BitVec 5) : Statement (.orTask d a b) :=
  ⟨rfl, by simp (disch := decide) only [encodeTask, Option.map, fld_hi, fld_ofNat, Nat.reduceSub]; rfl⟩
theorem xorTask (d : BitVec 5) (a : BitVec 5) (b : BitVec 5) : Statement (.xorTask d a b) :=
  ⟨rfl, by simp (disch := decide) only [encodeTask, Option.map, fld_hi, fld_ofNat, Nat.reduceSub]; rfl⟩
theorem andnTask (d : BitVec 5) (a : BitVec 5) (b : BitVec 5) : Statement (.andnTask d a b) :=
  ⟨rfl, by simp (disch := decide) only [encodeTask, Option.map, fld_hi, fld_ofNat, Nat.reduceSub]; rfl⟩
theorem notTask (d : BitVec 5) (a : BitVec 5) : Statement (.notTask d a) :=
  ⟨rfl, by simp (disch := decide) only [encodeTask, Option.map, fld_hi, fld_ofNat, Nat.reduceSub]; rfl⟩
theorem shlTask (d : BitVec 5) (a : BitVec 5) (b : BitVec 5) : Statement (.shlTask d a b) :=
  ⟨rfl, by simp (disch := decide) only [encodeTask, Option.map, fld_hi, fld_ofNat, Nat.reduceSub]; rfl⟩
theorem shrTask (d : BitVec 5) (a : BitVec 5) (b : BitVec 5) : Statement (.shrTask d a b) :=
  ⟨rfl, by simp (disch := decide) only [encodeTask, Option.map, fld_hi, fld_ofNat, Nat.reduceSub]; rfl⟩
theorem shaTask (d : BitVec 5) (a : BitVec 5) (b : BitVec 5) : Statement (.shaTask d a b) :=
  ⟨rfl, by simp (disch := decide) only [encodeTask, Option.map, fld_hi, fld_ofNat, Nat.reduceSub]; rfl⟩
theorem rotTask (d : BitVec 5) (a : BitVec 5) (b : BitVec 5) : Statement (.rotTask d a b) :=
  ⟨rfl, by simp (disch := decide) only [encodeTask, Option.map, fld_hi, fld_ofNat, Nat.reduceSub]; rfl⟩
theorem clzTask (d : BitVec 5) (a : BitVec 5) : Statement (.clzTask d a) :=
  ⟨rfl, by simp (disch := decide) only [encodeTask, Option.map, fld_hi, fld_ofNat, Nat.reduceSub]; rfl⟩
theorem popcTask (d : BitVec 5) (a : BitVec 5) : Statement (.popcTask d a) :=
  ⟨rfl, by simp (disch := decide) only [encodeTask, Option.map, fld_hi, fld_ofNat, Nat.reduceSub]; rfl⟩
theorem selTask (d : BitVec 5) (a : BitVec 5) (b : BitVec 5) : Statement (.selTask d a b) :=
  ⟨rfl, by simp (disch := decide) only [encodeTask, Option.map, fld_hi, fld_ofNat, Nat.reduceSub]; rfl⟩
theorem cmpeqTask (d : BitVec 5) (a : BitVec 5) (b : BitVec 5) : Statement (.cmpeqTask d a b) :=
  ⟨rfl, by simp (disch := decide) only [encodeTask, Option.map, fld_hi, fld_ofNat, Nat.reduceSub]; rfl⟩
theorem cmpneTask (d : BitVec 5) (a : BitVec 5) (b : BitVec 5) : Statement (.cmpneTask d a b) :=
  ⟨rfl, by simp (disch := decide) only [encodeTask, Option.map, fld_hi, fld_ofNat, Nat.reduceSub]; rfl⟩
theorem cmpltTask (d : BitVec 5) (a : BitVec 5) (b : BitVec 5) : Statement (.cmpltTask d a b) :=
  ⟨rfl, by simp (disch := decide) only [encodeTask, Option.map, fld_hi, fld_ofNat, Nat.reduceSub]; rfl⟩
theorem cmpleTask (d : BitVec 5) (a : BitVec 5) (b : BitVec 5) : Statement (.cmpleTask d a b) :=
  ⟨rfl, by simp (disch := decide) only [encodeTask, Option.map, fld_hi, fld_ofNat, Nat.reduceSub]; rfl⟩
theorem cmpltnTask (d : BitVec 5) (a : BitVec 5) (b : BitVec 5) : Statement (.cmpltnTask d a b) :=
  ⟨rfl, by simp (disch := decide) only [encodeTask, Option.map, fld_hi, fld_ofNat, Nat.reduceSub]; rfl⟩
theorem cmplenTask (d : BitVec 5) (a : BitVec 5) (b : BitVec 5) : Statement (.cmplenTask d a b) :=
  ⟨rfl, by simp (disch := decide) only [encodeTask, Option.map, fld_hi, fld_ofNat, Nat.reduceSub]; rfl⟩
theorem moviTask (d : BitVec 5) (i : BitVec 14) : Statement (.moviTask d i) :=
  ⟨rfl, by simp (disch := decide) only [encodeTask, Option.map, fld_hi, fld_ofNat, Nat.reduceSub]; rfl⟩
theorem movhiTask (d : BitVec 5) (i : BitVec 14) : Statement (.movhiTask d i) :=
  ⟨rfl, by simp (disch := decide) only [encodeTask, Option.map, fld_hi, fld_ofNat, Nat.reduceSub]; rfl⟩
theorem movTask (d : BitVec 5) (a : BitVec 5) : Statement (.movTask d a) :=
  ⟨rfl, by simp (disch := decide) only [encodeTask, Option.map, fld_hi, fld_ofNat, Nat.reduceSub]; rfl⟩
theorem sextTask (d : BitVec 5) (a : BitVec 5) (b : BitVec 5) : Statement (.sextTask d a b) :=
  ⟨rfl, by simp (disch := decide) only [encodeTask, Option.map, fld_hi, fld_ofNat, Nat.reduceSub]; rfl⟩
theorem bfxTask (d : BitVec 5) (a : BitVec 5) (b : BitVec 5) : Statement (.bfxTask d a b) :=
  ⟨rfl, by simp (disch := decide) only [encodeTask, Option.map, fld_hi, fld_ofNat, Nat.reduceSub]; rfl⟩
theorem bfiTask (d : BitVec 5) (a : BitVec 5) (b : BitVec 5) : Statement (.bfiTask d a b) :=
  ⟨rfl, by simp (disch := decide) only [encodeTask, Option.map, fld_hi, fld_ofNat, Nat.reduceSub]; rfl⟩
theorem addsTask (d : BitVec 5) (a : BitVec 5) (b : BitVec 5) : Statement (.addsTask d a b) :=
  ⟨rfl, by simp (disch := decide) only [encodeTask, Option.map, fld_hi, fld_ofNat, Nat.reduceSub]; rfl⟩
theorem subsTask (d : BitVec 5) (a : BitVec 5) (b : BitVec 5) : Statement (.subsTask d a b) :=
  ⟨rfl, by simp (disch := decide) only [encodeTask, Option.map, fld_hi, fld_ofNat, Nat.reduceSub]; rfl⟩
theorem gldTask (d : BitVec 5) (a : BitVec 5) (i : BitVec 14) : Statement (.gldTask d a i) :=
  ⟨rfl, by simp (disch := decide) only [encodeTask, Option.map, fld_hi, fld_ofNat, Nat.reduceSub]; rfl⟩
theorem gstTask (d : BitVec 5) (a : BitVec 5) (i : BitVec 14) : Statement (.gstTask d a i) :=
  ⟨rfl, by simp (disch := decide) only [encodeTask, Option.map, fld_hi, fld_ofNat, Nat.reduceSub]; rfl⟩
theorem gldsTask (d : BitVec 4) (a : BitVec 5) (i : BitVec 14) : Statement (.gldsTask d a i) :=
  ⟨rfl, by simp (disch := decide) only [encodeTask, Option.map, fld_hi, fld_ofNat, Nat.reduceSub]; rfl⟩
theorem gstfTask (d : BitVec 4) (a : BitVec 5) (i : BitVec 14) : Statement (.gstfTask d a i) :=
  ⟨rfl, by simp (disch := decide) only [encodeTask, Option.map, fld_hi, fld_ofNat, Nat.reduceSub]; rfl⟩
theorem aaddTask (d : BitVec 5) (a : BitVec 5) (b : BitVec 5) : Statement (.aaddTask d a b) :=
  ⟨rfl, by simp (disch := decide) only [encodeTask, Option.map, fld_hi, fld_ofNat, Nat.reduceSub]; rfl⟩
theorem aminTask (d : BitVec 5) (a : BitVec 5) (b : BitVec 5) : Statement (.aminTask d a b) :=
  ⟨rfl, by simp (disch := decide) only [encodeTask, Option.map, fld_hi, fld_ofNat, Nat.reduceSub]; rfl⟩
theorem amaxTask (d : BitVec 5) (a : BitVec 5) (b : BitVec 5) : Statement (.amaxTask d a b) :=
  ⟨rfl, by simp (disch := decide) only [encodeTask, Option.map, fld_hi, fld_ofNat, Nat.reduceSub]; rfl⟩
theorem aandTask (d : BitVec 5) (a : BitVec 5) (b : BitVec 5) : Statement (.aandTask d a b) :=
  ⟨rfl, by simp (disch := decide) only [encodeTask, Option.map, fld_hi, fld_ofNat, Nat.reduceSub]; rfl⟩
theorem aorTask (d : BitVec 5) (a : BitVec 5) (b : BitVec 5) : Statement (.aorTask d a b) :=
  ⟨rfl, by simp (disch := decide) only [encodeTask, Option.map, fld_hi, fld_ofNat, Nat.reduceSub]; rfl⟩
theorem axchTask (d : BitVec 5) (a : BitVec 5) (b : BitVec 5) : Statement (.axchTask d a b) :=
  ⟨rfl, by simp (disch := decide) only [encodeTask, Option.map, fld_hi, fld_ofNat, Nat.reduceSub]; rfl⟩
theorem acasTask (d : BitVec 5) (a : BitVec 5) (b : BitVec 5) : Statement (.acasTask d a b) :=
  ⟨rfl, by simp (disch := decide) only [encodeTask, Option.map, fld_hi, fld_ofNat, Nat.reduceSub]; rfl⟩
theorem afaddTask (d : BitVec 5) (a : BitVec 5) (b : BitVec 5) : Statement (.afaddTask d a b) :=
  ⟨rfl, by simp (disch := decide) only [encodeTask, Option.map, fld_hi, fld_ofNat, Nat.reduceSub]; rfl⟩
theorem fenceTask (s : BitVec 3) : Statement (.fenceTask s) :=
  ⟨rfl, by simp (disch := decide) only [encodeTask, Option.map, fld_hi, fld_ofNat, Nat.reduceSub]; rfl⟩
theorem relsTask : Statement .relsTask :=
  ⟨rfl, by simp (disch := decide) only [encodeTask, Option.map, fld_hi, fld_ofNat, Nat.reduceSub]; rfl⟩
theorem acqsTask : Statement .acqsTask :=
  ⟨rfl, by simp (disch := decide) only [encodeTask, Option.map, fld_hi, fld_ofNat, Nat.reduceSub]; rfl⟩
theorem xferTask (d : BitVec 5) (a : BitVec 5) : Statement (.xferTask d a) :=
  ⟨rfl, by simp (disch := decide) only [encodeTask, Option.map, fld_hi, fld_ofNat, Nat.reduceSub]; rfl⟩
theorem mirrTask (d : BitVec 5) (a : BitVec 5) : Statement (.mirrTask d a) :=
  ⟨rfl, by simp (disch := decide) only [encodeTask, Option.map, fld_hi, fld_ofNat, Nat.reduceSub]; rfl⟩
theorem pagem (d : BitVec 5) (a : BitVec 5) : Statement (.pagem d a) :=
  ⟨rfl, by simp (disch := decide) only [encodeTask, Option.map, fld_hi, fld_ofNat, Nat.reduceSub]; rfl⟩
theorem purge (d : BitVec 5) (a : BitVec 5) : Statement (.purge d a) :=
  ⟨rfl, by simp (disch := decide) only [encodeTask, Option.map, fld_hi, fld_ofNat, Nat.reduceSub]; rfl⟩
theorem keepc (d : BitVec 5) (a : BitVec 5) : Statement (.keepc d a) :=
  ⟨rfl, by simp (disch := decide) only [encodeTask, Option.map, fld_hi, fld_ofNat, Nat.reduceSub]; rfl⟩
theorem verdTask (d : BitVec 5) (a : BitVec 5) (b : BitVec 5) : Statement (.verdTask d a b) :=
  ⟨rfl, by simp (disch := decide) only [encodeTask, Option.map, fld_hi, fld_ofNat, Nat.reduceSub]; rfl⟩
theorem lnch (d : BitVec 5) (a : BitVec 5) (b : BitVec 5) : Statement (.lnch d a b) :=
  ⟨rfl, by simp (disch := decide) only [encodeTask, Option.map, fld_hi, fld_ofNat, Nat.reduceSub]; rfl⟩
theorem lnchi (d : BitVec 5) (a : BitVec 5) (b : BitVec 5) : Statement (.lnchi d a b) :=
  ⟨rfl, by simp (disch := decide) only [encodeTask, Option.map, fld_hi, fld_ofNat, Nat.reduceSub]; rfl⟩
theorem tblsw (d : BitVec 5) (a : BitVec 5) : Statement (.tblsw d a) :=
  ⟨rfl, by simp (disch := decide) only [encodeTask, Option.map, fld_hi, fld_ofNat, Nat.reduceSub]; rfl⟩
theorem ctxld (d : BitVec 5) (a : BitVec 5) (b : BitVec 5) : Statement (.ctxld d a b) :=
  ⟨rfl, by simp (disch := decide) only [encodeTask, Option.map, fld_hi, fld_ofNat, Nat.reduceSub]; rfl⟩
theorem ctxsw (d : BitVec 5) (a : BitVec 5) (b : BitVec 5) : Statement (.ctxsw d a b) :=
  ⟨rfl, by simp (disch := decide) only [encodeTask, Option.map, fld_hi, fld_ofNat, Nat.reduceSub]; rfl⟩
theorem drnq (d : BitVec 5) (a : BitVec 5) (b : BitVec 5) : Statement (.drnq d a b) :=
  ⟨rfl, by simp (disch := decide) only [encodeTask, Option.map, fld_hi, fld_ofNat, Nat.reduceSub]; rfl⟩
theorem ovrq (d : BitVec 5) (a : BitVec 5) : Statement (.ovrq d a) :=
  ⟨rfl, by simp (disch := decide) only [encodeTask, Option.map, fld_hi, fld_ofNat, Nat.reduceSub]; rfl⟩
theorem fbsel (d : BitVec 5) (a : BitVec 5) (b : BitVec 5) : Statement (.fbsel d a b) :=
  ⟨rfl, by simp (disch := decide) only [encodeTask, Option.map, fld_hi, fld_ofNat, Nat.reduceSub]; rfl⟩
theorem teard (d : BitVec 5) (a : BitVec 5) (b : BitVec 5) : Statement (.teard d a b) :=
  ⟨rfl, by simp (disch := decide) only [encodeTask, Option.map, fld_hi, fld_ofNat, Nat.reduceSub]; rfl⟩
theorem partm (d : BitVec 5) (a : BitVec 5) (b : BitVec 5) : Statement (.partm d a b) :=
  ⟨rfl, by simp (disch := decide) only [encodeTask, Option.map, fld_hi, fld_ofNat, Nat.reduceSub]; rfl⟩
theorem doff (d : BitVec 5) (a : BitVec 5) (b : BitVec 5) : Statement (.doff d a b) :=
  ⟨rfl, by simp (disch := decide) only [encodeTask, Option.map, fld_hi, fld_ofNat, Nat.reduceSub]; rfl⟩
theorem spare (d : BitVec 5) (a : BitVec 5) (b : BitVec 5) : Statement (.spare d a b) :=
  ⟨rfl, by simp (disch := decide) only [encodeTask, Option.map, fld_hi, fld_ofNat, Nat.reduceSub]; rfl⟩
theorem br (f : BitVec 19) : Statement (.br f) :=
  ⟨rfl, by simp (disch := decide) only [encodeTask, Option.map, fld_hi, fld_ofNat, Nat.reduceSub]; rfl⟩
theorem brz (a : BitVec 5) (f : BitVec 19) : Statement (.brz a f) :=
  ⟨rfl, by simp (disch := decide) only [encodeTask, Option.map, fld_hi, fld_ofNat, Nat.reduceSub]; rfl⟩
theorem brnz (a : BitVec 5) (f : BitVec 19) : Statement (.brnz a f) :=
  ⟨rfl, by simp (disch := decide) only [encodeTask, Option.map, fld_hi, fld_ofNat, Nat.reduceSub]; rfl⟩
theorem call (f : BitVec 19) : Statement (.call f) :=
  ⟨rfl, by simp (disch := decide) only [encodeTask, Option.map, fld_hi, fld_ofNat, Nat.reduceSub]; rfl⟩
theorem ret : Statement .ret :=
  ⟨rfl, by simp (disch := decide) only [encodeTask, Option.map, fld_hi, fld_ofNat, Nat.reduceSub]; rfl⟩
theorem ldk (d : BitVec 5) (a : BitVec 5) (i : BitVec 14) : Statement (.ldk d a i) :=
  ⟨rfl, by simp (disch := decide) only [encodeTask, Option.map, fld_hi, fld_ofNat, Nat.reduceSub]; rfl⟩
theorem stk (d : BitVec 5) (a : BitVec 5) (i : BitVec 14) : Statement (.stk d a i) :=
  ⟨rfl, by simp (disch := decide) only [encodeTask, Option.map, fld_hi, fld_ofNat, Nat.reduceSub]; rfl⟩
theorem ldio (d : BitVec 5) (a : BitVec 5) (i : BitVec 14) : Statement (.ldio d a i) :=
  ⟨rfl, by simp (disch := decide) only [encodeTask, Option.map, fld_hi, fld_ofNat, Nat.reduceSub]; rfl⟩
theorem stio (d : BitVec 5) (a : BitVec 5) (i : BitVec 14) : Statement (.stio d a i) :=
  ⟨rfl, by simp (disch := decide) only [encodeTask, Option.map, fld_hi, fld_ofNat, Nat.reduceSub]; rfl⟩
theorem send (d : BitVec 5) (a : BitVec 5) (c : BitVec 6) : Statement (.send d a c) :=
  ⟨rfl, by simp (disch := decide) only [encodeTask, Option.map, fld_hi, fld_ofNat, Nat.reduceSub]; rfl⟩
theorem recv (d : BitVec 5) (a : BitVec 5) (c : BitVec 6) : Statement (.recv d a c) :=
  ⟨rfl, by simp (disch := decide) only [encodeTask, Option.map, fld_hi, fld_ofNat, Nat.reduceSub]; rfl⟩
theorem tend : Statement .tend :=
  ⟨rfl, by simp (disch := decide) only [encodeTask, Option.map, fld_hi, fld_ofNat, Nat.reduceSub]; rfl⟩
theorem tbind (d : BitVec 5) (a : BitVec 5) (b : BitVec 5) (c : BitVec 6) : Statement (.tbind d a b c) :=
  ⟨rfl, by simp (disch := decide) only [encodeTask, Option.map, fld_hi, fld_ofNat, Nat.reduceSub]; rfl⟩
theorem chpri (d : BitVec 5) (a : BitVec 5) (c : BitVec 6) : Statement (.chpri d a c) :=
  ⟨rfl, by simp (disch := decide) only [encodeTask, Option.map, fld_hi, fld_ofNat, Nat.reduceSub]; rfl⟩
theorem traps (i : BitVec 9) : Statement (.traps i) :=
  ⟨rfl, by simp (disch := decide) only [encodeTask, Option.map, fld_hi, fld_ofNat, Nat.reduceSub]; rfl⟩
theorem timeq (d : BitVec 5) (a : BitVec 5) (b : BitVec 5) : Statement (.timeq d a b) :=
  ⟨rfl, by simp (disch := decide) only [encodeTask, Option.map, fld_hi, fld_ofNat, Nat.reduceSub]; rfl⟩
theorem hashb (d : BitVec 5) (a : BitVec 5) : Statement (.hashb d a) :=
  ⟨rfl, by simp (disch := decide) only [encodeTask, Option.map, fld_hi, fld_ofNat, Nat.reduceSub]; rfl⟩
theorem sigv (d : BitVec 5) (a : BitVec 5) : Statement (.sigv d a) :=
  ⟨rfl, by simp (disch := decide) only [encodeTask, Option.map, fld_hi, fld_ofNat, Nat.reduceSub]; rfl⟩
theorem sysx (d : BitVec 5) (a : BitVec 5) (i : BitVec 9) : Statement (.sysx d a i) :=
  ⟨rfl, by simp (disch := decide) only [encodeTask, Option.map, fld_hi, fld_ofNat, Nat.reduceSub]; rfl⟩
theorem ident (c : Cmd) : Statement (.ident c) := ⟨rfl, rfl⟩
theorem status (c : Cmd) : Statement (.status c) := ⟨rfl, rfl⟩
theorem featnegRead (c : Cmd) : Statement (.featnegRead c) := ⟨rfl, rfl⟩
theorem featnegWrite (c : Cmd) : Statement (.featnegWrite c) := ⟨rfl, rfl⟩
theorem loadimg (c : Cmd) : Statement (.loadimg c) := ⟨rfl, rfl⟩
theorem loadtbl (c : Cmd) : Statement (.loadtbl c) := ⟨rfl, rfl⟩
theorem startMode (c : Cmd) : Statement (.startMode c) := ⟨rfl, rfl⟩
theorem startEntry (c : Cmd) : Statement (.startEntry c) := ⟨rfl, rfl⟩
theorem hostLaunch (c : Cmd) : Statement (.hostLaunch c) := ⟨rfl, rfl⟩
theorem modesw (c : Cmd) : Statement (.modesw c) := ⟨rfl, rfl⟩
theorem qrec (c : Cmd) : Statement (.qrec c) := ⟨rfl, rfl⟩
theorem purgeCmd (c : Cmd) : Statement (.purgeCmd c) := ⟨rfl, rfl⟩
theorem mircfg (c : Cmd) : Statement (.mircfg c) := ⟨rfl, rfl⟩
theorem timecfg (c : Cmd) : Statement (.timecfg c) := ⟨rfl, rfl⟩
theorem partmode (c : Cmd) : Statement (.partmode c) := ⟨rfl, rfl⟩
theorem dieoff (c : Cmd) : Statement (.dieoff c) := ⟨rfl, rfl⟩
theorem attest (c : Cmd) : Statement (.attest c) := ⟨rfl, rfl⟩
theorem throttle (c : Cmd) : Statement (.throttle c) := ⟨rfl, rfl⟩
theorem keyinst (c : Cmd) : Statement (.keyinst c) := ⟨rfl, rfl⟩
theorem sysmapMap (c : Cmd) : Statement (.sysmapMap c) := ⟨rfl, rfl⟩
theorem sysmapUnmap (c : Cmd) : Statement (.sysmapUnmap c) := ⟨rfl, rfl⟩
theorem taskDispatch : Statement .taskDispatch := ⟨rfl, rfl⟩
theorem watchdog : Statement .watchdog := ⟨rfl, rfl⟩
theorem monitorSample (block : BitVec 4) (readings : List W32) : Statement (.monitorSample block readings) := ⟨rfl, rfl⟩
theorem thrlvlWrite (block : BitVec 4) (v : W64) : Statement (.thrlvlWrite block v) := ⟨rfl, rfl⟩
theorem alertstWrite (block : BitVec 4) (v : W64) : Statement (.alertstWrite block v) := ⟨rfl, rfl⟩
theorem registerWrite (addr : BitVec 24) (v : W64) : Statement (.registerWrite addr v) := ⟨rfl, rfl⟩
theorem ingcfgWrite (addr : BitVec 24) (v : W64) : Statement (.ingcfgWrite addr v) := ⟨rfl, rfl⟩
theorem safeevWrite (v : W64) : Statement (.safeevWrite v) := ⟨rfl, rfl⟩
theorem pommelStoreDrain : Statement .pommelStoreDrain := ⟨rfl, rfl⟩
theorem dieLinkRetrainFailure (die : Nat) : Statement (.dieLinkRetrainFailure die) := ⟨rfl, rfl⟩
theorem heartbeatSend : Statement .heartbeatSend := ⟨rfl, rfl⟩
theorem heartbeatReceive (seq : W64) : Statement (.heartbeatReceive seq) := ⟨rfl, rfl⟩
theorem heartbeatTimeout : Statement .heartbeatTimeout := ⟨rfl, rfl⟩
theorem pfaultAssert : Statement .pfaultAssert := ⟨rfl, rfl⟩
theorem berylLinkDown : Statement .berylLinkDown := ⟨rfl, rfl⟩
theorem tickCounterAdvance : Statement .tickCounterAdvance := ⟨rfl, rfl⟩
theorem ptpServoAdjust (p : Nat) (rate : W32) : Statement (.ptpServoAdjust p rate) := ⟨rfl, rfl⟩
theorem ptpSynchronisation (p : Nat) (sync : Bool) : Statement (.ptpSynchronisation p sync) := ⟨rfl, rfl⟩
theorem illegalInstruction : Statement .illegalInstruction := ⟨rfl, rfl⟩
theorem fetchFault : Statement .fetchFault := ⟨rfl, rfl⟩
theorem unknownCommandCode (code : BitVec 16) (c : Cmd) : Statement (.unknownCommandCode code c) := ⟨rfl, rfl⟩

/-- The same of every instruction. -/
theorem all : ∀ i, Statement i
  | .nop t wr => nop t wr
  | .add t i wr => add t i wr
  | .sub t i wr => sub t i wr
  | .addi t i wr => addi t i wr
  | .mul t i wr => mul t i wr
  | .mulh t i wr => mulh t i wr
  | .mulhn t i wr => mulhn t i wr
  | .min t i wr => min t i wr
  | .max t i wr => max t i wr
  | .minn t i wr => minn t i wr
  | .maxn t i wr => maxn t i wr
  | .abs t i wr => abs t i wr
  | .neg t i wr => neg t i wr
  | .and t i wr => and t i wr
  | .or t i wr => or t i wr
  | .xor t i wr => xor t i wr
  | .andn t i wr => andn t i wr
  | .not t i wr => not t i wr
  | .shl t i wr => shl t i wr
  | .shr t i wr => shr t i wr
  | .sha t i wr => sha t i wr
  | .rot t i wr => rot t i wr
  | .clz t i wr => clz t i wr
  | .popc t i wr => popc t i wr
  | .sel t i wr => sel t i wr
  | .cmpeq t i wr => cmpeq t i wr
  | .cmpne t i wr => cmpne t i wr
  | .cmplt t i wr => cmplt t i wr
  | .cmple t i wr => cmple t i wr
  | .cmpltn t i wr => cmpltn t i wr
  | .cmplen t i wr => cmplen t i wr
  | .movi i wr => movi i wr
  | .movhi i wr => movhi i wr
  | .mov t i wr => mov t i wr
  | .movSpecialRead t s wr => movSpecialRead t s wr
  | .movSpecialWrite t s wr => movSpecialWrite t s wr
  | .sext t i wr => sext t i wr
  | .bfx t i wr => bfx t i wr
  | .bfi t i wr => bfi t i wr
  | .adds t i wr => adds t i wr
  | .subs t i wr => subs t i wr
  | .fadd r t wr => fadd r t wr
  | .fsub r t wr => fsub r t wr
  | .fmul r t wr => fmul r t wr
  | .fma r t wr => fma r t wr
  | .fms r t wr => fms r t wr
  | .fnma r t wr => fnma r t wr
  | .fmin t wr => fmin t wr
  | .fmax t wr => fmax t wr
  | .fabs t wr => fabs t wr
  | .fneg t wr => fneg t wr
  | .fcmpeq t wr => fcmpeq t wr
  | .fcmplt t wr => fcmplt t wr
  | .fcmple t wr => fcmple t wr
  | .fcmpun t wr => fcmpun t wr
  | .fcvt r s t wr => fcvt r s t wr
  | .fclass t wr => fclass t wr
  | .frnd r t wr => frnd r t wr
  | .ftoi r s t wr => ftoi r s t wr
  | .itof r t wr => itof r t wr
  | .fscale r t wr => fscale r t wr
  | .fdot2 r t wr => fdot2 r t wr
  | .fexpn t wr => fexpn t wr
  | .fmant t wr => fmant t wr
  | .qnt r s t m e wr => qnt r s t m e wr
  | .dqnt r t wr => dqnt r t wr
  | .lut r t k wr => lut r t k wr
  | .lutix t m s wr => lutix t m s wr
  | .rredf t wr => rredf t wr
  | .rredn t wr => rredn t wr
  | .rexp r t wr => rexp r t wr
  | .lutsel r t wr => lutsel r t wr
  | .steer c o m wr => steer c o m wr
  | .merge c o wr => merge c o wr
  | .mergea o wr => mergea o wr
  | .gate c o m wr => gate c o m wr
  | .drop c o m wr => drop c o m wr
  | .cemit c o m wr => cemit c o m wr
  | .ctest o m wr => ctest o m wr
  | .cand c o m wr => cand c o m wr
  | .cor c o m wr => cor c o m wr
  | .cnot c o wr => cnot c o wr
  | .eose c m wr => eose c m wr
  | .eosq o m wr => eosq o m wr
  | .cnti m wr => cnti m wr
  | .cnts c o m wr => cnts c o m wr
  | .cntl m wr => cntl m wr
  | .phase c m wr => phase c m wr
  | .ctxp c m wr => ctxp c m wr
  | .rowq m wr => rowq m wr
  | .iofq m wr => iofq m wr
  | .frmq m wr => frmq m wr
  | .dly m wr => dly m wr
  | .armx c o m wr => armx c o m wr
  | .talloc b w s q wr => talloc b w s q wr
  | .tfree w s q wr => tfree w s q wr
  | .tqry w s q v u wr => tqry w s q v u wr
  | .ldt w z x t p i wr => ldt w z x t p i wr
  | .stt w z t p i wr => stt w z t p i wr
  | .ldts w z x t p i wr => ldts w z x t p i wr
  | .sttf w z t p i wr => sttf w z t p i wr
  | .ldte w z x t p i wr => ldte w z x t p i wr
  | .feset w z t p i wr => feset w z t p i wr
  | .feq w z t p i wr => feq w z t p i wr
  | .tcopy b w s q wr => tcopy b w s q wr
  | .tfill b w s q wr => tfill b w s q wr
  | .tlevel w s q v u wr => tlevel w s q v u wr
  | .gld w z x t p i wr => gld w z x t p i wr
  | .gst w z t p i wr => gst w z t p i wr
  | .glds w z x t p i wr => glds w z x t p i wr
  | .gstf w z t p i wr => gstf w z t p i wr
  | .strmi b w s q u wr => strmi b w s q u wr
  | .strmo b w s q u wr => strmo b w s q u wr
  | .gath b w s q u wr => gath b w s q u wr
  | .scat b w s q u wr => scat b w s q u wr
  | .sprg w s q v u wr => sprg w s q v u wr
  | .sabt w s q v wr => sabt w s q v wr
  | .sres w s q v wr => sres w s q v wr
  | .aadd w z t p i wr => aadd w z t p i wr
  | .amin w z t p i wr => amin w z t p i wr
  | .amax w z t p i wr => amax w z t p i wr
  | .aand w z t p i wr => aand w z t p i wr
  | .aor w z t p i wr => aor w z t p i wr
  | .axch w z t p i wr => axch w z t p i wr
  | .acas w z t p i wr => acas w z t p i wr
  | .afadd w t p i wr => afadd w t p i wr
  | .fence u wr => fence u wr
  | .rels wr => rels wr
  | .acqs wr => acqs wr
  | .xfer b w s q wr => xfer b w s q wr
  | .mirr b w s q wr => mirr b w s q wr
  | .coll b w s q wr => coll b w s q wr
  | .mma b w s q wr => mma b w s q wr
  | .mmas b w s q wr => mmas b w s q wr
  | .mmav b w s q wr => mmav b w s q wr
  | .mmab b w s q wr => mmab b w s q wr
  | .macc b w s q u wr => macc b w s q u wr
  | .mdrn b w s q v wr => mdrn b w s q v wr
  | .mprg u wr => mprg u wr
  | .mres wr => mres wr
  | .mabt wr => mabt wr
  | .mshp w s q wr => mshp w s q wr
  | .xld b w s q v u wr => xld b w s q v u wr
  | .xst b w s q wr => xst b w s q wr
  | .cbld b w s q u wr => cbld b w s q u wr
  | .vqx w s q v u wr => vqx w s q v u wr
  | .compm b w s q wr => compm b w s q wr
  | .expdm b w s q wr => expdm b w s q wr
  | .fibp b w s q wr => fibp b w s q wr
  | .fibu b w s q wr => fibu b w s q wr
  | .isect b w s q u wr => isect b w s q u wr
  | .dcmpj b w s q wr => dcmpj b w s q wr
  | .dcmpq w s q v u wr => dcmpq w s q v u wr
  | .lzcp b w s q u wr => lzcp b w s q u wr
  | .layw b wr => layw b wr
  | .layr b v wr => layr b v wr
  | .trns b w s q wr => trns b w s q wr
  | .redx b w s q wr => redx b w s q wr
  | .cinit b wr => cinit b wr
  | .carr b v wr => carr b v wr
  | .cexpb b wr => cexpb b wr
  | .cqry b u wr => cqry b u wr
  | .cdrop b wr => cdrop b wr
  | .tapeb b wr => tapeb b wr
  | .tapee wr => tapee wr
  | .tapev b v wr => tapev b v wr
  | .taper b wr => taper b wr
  | .tapep b wr => tapep b wr
  | .tapec wr => tapec wr
  | .tapeq u wr => tapeq u wr
  | .tapek b wr => tapek b wr
  | .mark wr => mark wr
  | .snapq u wr => snapq u wr
  | .rtag wr => rtag wr
  | .poisn u wr => poisn u wr
  | .poisq wr => poisq wr
  | .verd u wr => verd u wr
  | .cmpv b wr => cmpv b wr
  | .powerUp helper outcomes => powerUp helper outcomes
  | .timerCompare slot => timerCompare slot
  | .cryptoCompletion job => cryptoCompletion job
  | .throttleLevelApply die => throttleLevelApply die
  | .linkTokenArrival e c l => linkTokenArrival e c l
  | .controlTokenArrival e c l => controlTokenArrival e c l
  | .bypassHop e c d => bypassHop e c d
  | .laneDiscardDrop e c l => laneDiscardDrop e c l
  | .markerTaken e c l => markerTaken e c l
  | .teardownToken e c => teardownToken e c
  | .scalarAccessCompletion e => scalarAccessCompletion e
  | .parkedAccessRetest k => parkedAccessRetest k
  | .jobElement e j => jobElement e j
  | .jobFaultStop e j => jobFaultStop e j
  | .jobRetirement e j => jobRetirement e j
  | .portWeightRecompute e => portWeightRecompute e
  | .heldOpRetirement e => heldOpRetirement e
  | .hostWrite addr data => hostWrite addr data
  | .migrationSwitch k => migrationSwitch k
  | .pagemCompletion k => pagemCompletion k
  | .pommelJobCompletion k => pommelJobCompletion k
  | .mirrorWriteReceive flit => mirrorWriteReceive flit
  | .matrixGroupCommit e => matrixGroupCommit e
  | .matrixCommandRetirement e => matrixCommandRetirement e
  | .matrixFeedFault e => matrixFeedFault e
  | .mdDrainToken e => mdDrainToken e
  | .cinchRequestArrival k => cinchRequestArrival k
  | .cinchPendSubtract die k n => cinchPendSubtract die k n
  | .collContributionArrival k => collContributionArrival k
  | .collRetirement e => collRetirement e
  | .tapeRecordAccept die k => tapeRecordAccept die k
  | .tapeKeyWrite e c => tapeKeyWrite e c
  | .tapeClose die k => tapeClose die k
  | .tapeRegeneration die k => tapeRegeneration die k
  | .dcmpjEngineStart e j => dcmpjEngineStart e j
  | .dcmpjCompletion e j => dcmpjCompletion e j
  | .tableActivation p => tableActivation p
  | .runStart p k => runStart p k
  | .countTake p k => countTake p k
  | .deadline run => deadline run
  | .completionRecordWrite run => completionRecordWrite run
  | .modeChangePoint p => modeChangePoint p
  | .ctxldDone op => ctxldDone op
  | .partmDone op => partmDone op
  | .doffDone op => doffDone op
  | .spareDone op => spareDone op
  | .voteCompare run => voteCompare run
  | .voteCopyStart run => voteCopyStart run
  | .keeperAdvance die r => keeperAdvance die r
  | .keeperCompare k => keeperCompare k
  | .rollback run copy => rollback run copy
  | .configReload e c => configReload e c
  | .machineCheck e => machineCheck e
  | .sensorFrame port frame => sensorFrame port frame
  | .tileMoveCompletion e => tileMoveCompletion e
  | .cinchAnswerArrival e => cinchAnswerArrival e
  | .migrationSweep k => migrationSweep k
  | .nopTask => nopTask
  | .addTask d a b => addTask d a b
  | .subTask d a b => subTask d a b
  | .addiTask d a i => addiTask d a i
  | .mulTask d a b => mulTask d a b
  | .mulhTask d a b => mulhTask d a b
  | .mulhnTask d a b => mulhnTask d a b
  | .div d a b => div d a b
  | .divn d a b => divn d a b
  | .rem d a b => rem d a b
  | .remn d a b => remn d a b
  | .minTask d a b => minTask d a b
  | .maxTask d a b => maxTask d a b
  | .minnTask d a b => minnTask d a b
  | .maxnTask d a b => maxnTask d a b
  | .absTask d a => absTask d a
  | .negTask d a => negTask d a
  | .andTask d a b => andTask d a b
  | .orTask d a b => orTask d a b
  | .xorTask d a b => xorTask d a b
  | .andnTask d a b => andnTask d a b
  | .notTask d a => notTask d a
  | .shlTask d a b => shlTask d a b
  | .shrTask d a b => shrTask d a b
  | .shaTask d a b => shaTask d a b
  | .rotTask d a b => rotTask d a b
  | .clzTask d a => clzTask d a
  | .popcTask d a => popcTask d a
  | .selTask d a b => selTask d a b
  | .cmpeqTask d a b => cmpeqTask d a b
  | .cmpneTask d a b => cmpneTask d a b
  | .cmpltTask d a b => cmpltTask d a b
  | .cmpleTask d a b => cmpleTask d a b
  | .cmpltnTask d a b => cmpltnTask d a b
  | .cmplenTask d a b => cmplenTask d a b
  | .moviTask d i => moviTask d i
  | .movhiTask d i => movhiTask d i
  | .movTask d a => movTask d a
  | .sextTask d a b => sextTask d a b
  | .bfxTask d a b => bfxTask d a b
  | .bfiTask d a b => bfiTask d a b
  | .addsTask d a b => addsTask d a b
  | .subsTask d a b => subsTask d a b
  | .gldTask d a i => gldTask d a i
  | .gstTask d a i => gstTask d a i
  | .gldsTask d a i => gldsTask d a i
  | .gstfTask d a i => gstfTask d a i
  | .aaddTask d a b => aaddTask d a b
  | .aminTask d a b => aminTask d a b
  | .amaxTask d a b => amaxTask d a b
  | .aandTask d a b => aandTask d a b
  | .aorTask d a b => aorTask d a b
  | .axchTask d a b => axchTask d a b
  | .acasTask d a b => acasTask d a b
  | .afaddTask d a b => afaddTask d a b
  | .fenceTask s => fenceTask s
  | .relsTask => relsTask
  | .acqsTask => acqsTask
  | .xferTask d a => xferTask d a
  | .mirrTask d a => mirrTask d a
  | .pagem d a => pagem d a
  | .purge d a => purge d a
  | .keepc d a => keepc d a
  | .verdTask d a b => verdTask d a b
  | .lnch d a b => lnch d a b
  | .lnchi d a b => lnchi d a b
  | .tblsw d a => tblsw d a
  | .ctxld d a b => ctxld d a b
  | .ctxsw d a b => ctxsw d a b
  | .drnq d a b => drnq d a b
  | .ovrq d a => ovrq d a
  | .fbsel d a b => fbsel d a b
  | .teard d a b => teard d a b
  | .partm d a b => partm d a b
  | .doff d a b => doff d a b
  | .spare d a b => spare d a b
  | .br f => br f
  | .brz a f => brz a f
  | .brnz a f => brnz a f
  | .call f => call f
  | .ret => ret
  | .ldk d a i => ldk d a i
  | .stk d a i => stk d a i
  | .ldio d a i => ldio d a i
  | .stio d a i => stio d a i
  | .send d a c => send d a c
  | .recv d a c => recv d a c
  | .tend => tend
  | .tbind d a b c => tbind d a b c
  | .chpri d a c => chpri d a c
  | .traps i => traps i
  | .timeq d a b => timeq d a b
  | .hashb d a => hashb d a
  | .sigv d a => sigv d a
  | .sysx d a i => sysx d a i
  | .ident c => ident c
  | .status c => status c
  | .featnegRead c => featnegRead c
  | .featnegWrite c => featnegWrite c
  | .loadimg c => loadimg c
  | .loadtbl c => loadtbl c
  | .startMode c => startMode c
  | .startEntry c => startEntry c
  | .hostLaunch c => hostLaunch c
  | .modesw c => modesw c
  | .qrec c => qrec c
  | .purgeCmd c => purgeCmd c
  | .mircfg c => mircfg c
  | .timecfg c => timecfg c
  | .partmode c => partmode c
  | .dieoff c => dieoff c
  | .attest c => attest c
  | .throttle c => throttle c
  | .keyinst c => keyinst c
  | .sysmapMap c => sysmapMap c
  | .sysmapUnmap c => sysmapUnmap c
  | .taskDispatch => taskDispatch
  | .watchdog => watchdog
  | .monitorSample block readings => monitorSample block readings
  | .thrlvlWrite block v => thrlvlWrite block v
  | .alertstWrite block v => alertstWrite block v
  | .registerWrite addr v => registerWrite addr v
  | .ingcfgWrite addr v => ingcfgWrite addr v
  | .safeevWrite v => safeevWrite v
  | .pommelStoreDrain => pommelStoreDrain
  | .dieLinkRetrainFailure die => dieLinkRetrainFailure die
  | .heartbeatSend => heartbeatSend
  | .heartbeatReceive seq => heartbeatReceive seq
  | .heartbeatTimeout => heartbeatTimeout
  | .pfaultAssert => pfaultAssert
  | .berylLinkDown => berylLinkDown
  | .tickCounterAdvance => tickCounterAdvance
  | .ptpServoAdjust p rate => ptpServoAdjust p rate
  | .ptpSynchronisation p sync => ptpSynchronisation p sync
  | .illegalInstruction => illegalInstruction
  | .fetchFault => fetchFault
  | .unknownCommandCode code c => unknownCommandCode code c

end Sys2Proof.Laws.Opcode
end

