-- ==== Sys2Proof/Laws/State.lean ====
section
/-! SUPPORT. What the updates of State leave alone: for each update of the fabric, of a slot and of Pommel, the fields that it does not
write, and the value of the field that it writes. -/

namespace Sys2Proof.Machine

/-! ### Fab.setElem -/

@[simp] theorem Fab.setElem_clock (f : Fab) (e : ElemId) (x : Elem) : (f.setElem e x).clock = f.clock := rfl
@[simp] theorem Fab.setElem_cur (f : Fab) (e : ElemId) (x : Elem) : (f.setElem e x).cur = f.cur := rfl
@[simp] theorem Fab.setElem_armP (f : Fab) (e : ElemId) (x : Elem) : (f.setElem e x).armP = f.armP := rfl
@[simp] theorem Fab.setElem_runs (f : Fab) (e : ElemId) (x : Elem) : (f.setElem e x).runs = f.runs := rfl
@[simp] theorem Fab.setElem_images (f : Fab) (e : ElemId) (x : Elem) : (f.setElem e x).images = f.images := rfl
@[simp] theorem Fab.setElem_mem (f : Fab) (e : ElemId) (x : Elem) : (f.setElem e x).mem = f.mem := rfl
@[simp] theorem Fab.setElem_tags (f : Fab) (e : ElemId) (x : Elem) : (f.setElem e x).tags = f.tags := rfl
@[simp] theorem Fab.setElem_evq (f : Fab) (e : ElemId) (x : Elem) : (f.setElem e x).evq = f.evq := rfl
@[simp] theorem Fab.setElem_chans (f : Fab) (e : ElemId) (x : Elem) : (f.setElem e x).chans = f.chans := rfl
@[simp] theorem Fab.setElem_pom (f : Fab) (e : ElemId) (x : Elem) : (f.setElem e x).pom = f.pom := rfl
@[simp] theorem Fab.setElem_blocks (f : Fab) (e : ElemId) (x : Elem) : (f.setElem e x).blocks = f.blocks := rfl
@[simp] theorem Fab.setElem_ingress (f : Fab) (e : ElemId) (x : Elem) : (f.setElem e x).ingress = f.ingress := rfl
@[simp] theorem Fab.setElem_host (f : Fab) (e : ElemId) (x : Elem) : (f.setElem e x).host = f.host := rfl
@[simp] theorem Fab.setElem_beryl (f : Fab) (e : ElemId) (x : Elem) : (f.setElem e x).beryl = f.beryl := rfl
@[simp] theorem Fab.setElem_parts (f : Fab) (e : ElemId) (x : Elem) : (f.setElem e x).parts = f.parts := rfl
@[simp] theorem Fab.setElem_pmode (f : Fab) (e : ElemId) (x : Elem) : (f.setElem e x).pmode = f.pmode := rfl
@[simp] theorem Fab.setElem_sysRoot (f : Fab) (e : ElemId) (x : Elem) : (f.setElem e x).sysRoot = f.sysRoot := rfl
@[simp] theorem Fab.setElem_sysFrames (f : Fab) (e : ElemId) (x : Elem) : (f.setElem e x).sysFrames = f.sysFrames := rfl
@[simp] theorem Fab.setElem_tlb (f : Fab) (e : ElemId) (x : Elem) : (f.setElem e x).tlb = f.tlb := rfl
@[simp] theorem Fab.setElem_migs (f : Fab) (e : ElemId) (x : Elem) : (f.setElem e x).migs = f.migs := rfl
@[simp] theorem Fab.setElem_corr (f : Fab) (e : ElemId) (x : Elem) : (f.setElem e x).corr = f.corr := rfl
@[simp] theorem Fab.setElem_cinches (f : Fab) (e : ElemId) (x : Elem) : (f.setElem e x).cinches = f.cinches := rfl
@[simp] theorem Fab.setElem_colls (f : Fab) (e : ElemId) (x : Elem) : (f.setElem e x).colls = f.colls := rfl
@[simp] theorem Fab.setElem_tapes (f : Fab) (e : ElemId) (x : Elem) : (f.setElem e x).tapes = f.tapes := rfl
@[simp] theorem Fab.setElem_dieRes (f : Fab) (e : ElemId) (x : Elem) : (f.setElem e x).dieRes = f.dieRes := rfl
@[simp] theorem Fab.setElem_tables (f : Fab) (e : ElemId) (x : Elem) : (f.setElem e x).tables = f.tables := rfl
@[simp] theorem Fab.setElem_ents (f : Fab) (e : ElemId) (x : Elem) : (f.setElem e x).ents = f.ents := rfl
@[simp] theorem Fab.setElem_insts (f : Fab) (e : ElemId) (x : Elem) : (f.setElem e x).insts = f.insts := rfl
@[simp] theorem Fab.setElem_ops (f : Fab) (e : ElemId) (x : Elem) : (f.setElem e x).ops = f.ops := rfl
@[simp] theorem Fab.setElem_dies (f : Fab) (e : ElemId) (x : Elem) : (f.setElem e x).dies = f.dies := rfl
@[simp] theorem Fab.setElem_spares (f : Fab) (e : ElemId) (x : Elem) : (f.setElem e x).spares = f.spares := rfl
@[simp] theorem Fab.setElem_keepers (f : Fab) (e : ElemId) (x : Elem) : (f.setElem e x).keepers = f.keepers := rfl
@[simp] theorem Fab.setElem_keepq (f : Fab) (e : ElemId) (x : Elem) : (f.setElem e x).keepq = f.keepq := rfl
@[simp] theorem Fab.setElem_seq (f : Fab) (e : ElemId) (x : Elem) : (f.setElem e x).seq = f.seq := rfl
@[simp] theorem Fab.setElem_free (f : Fab) (e : ElemId) (x : Elem) : (f.setElem e x).free = f.free := rfl
@[simp] theorem Fab.setElem_big (f : Fab) (e : ElemId) (x : Elem) : (f.setElem e x).big = f.big := rfl

/-! ### Fab.modElem -/

@[simp] theorem Fab.modElem_clock (f : Fab) (e : ElemId) (g : Elem → Elem) : (f.modElem e g).clock = f.clock := rfl
@[simp] theorem Fab.modElem_cur (f : Fab) (e : ElemId) (g : Elem → Elem) : (f.modElem e g).cur = f.cur := rfl
@[simp] theorem Fab.modElem_armP (f : Fab) (e : ElemId) (g : Elem → Elem) : (f.modElem e g).armP = f.armP := rfl
@[simp] theorem Fab.modElem_runs (f : Fab) (e : ElemId) (g : Elem → Elem) : (f.modElem e g).runs = f.runs := rfl
@[simp] theorem Fab.modElem_images (f : Fab) (e : ElemId) (g : Elem → Elem) : (f.modElem e g).images = f.images := rfl
@[simp] theorem Fab.modElem_mem (f : Fab) (e : ElemId) (g : Elem → Elem) : (f.modElem e g).mem = f.mem := rfl
@[simp] theorem Fab.modElem_tags (f : Fab) (e : ElemId) (g : Elem → Elem) : (f.modElem e g).tags = f.tags := rfl
@[simp] theorem Fab.modElem_evq (f : Fab) (e : ElemId) (g : Elem → Elem) : (f.modElem e g).evq = f.evq := rfl
@[simp] theorem Fab.modElem_chans (f : Fab) (e : ElemId) (g : Elem → Elem) : (f.modElem e g).chans = f.chans := rfl
@[simp] theorem Fab.modElem_pom (f : Fab) (e : ElemId) (g : Elem → Elem) : (f.modElem e g).pom = f.pom := rfl
@[simp] theorem Fab.modElem_blocks (f : Fab) (e : ElemId) (g : Elem → Elem) : (f.modElem e g).blocks = f.blocks := rfl
@[simp] theorem Fab.modElem_ingress (f : Fab) (e : ElemId) (g : Elem → Elem) : (f.modElem e g).ingress = f.ingress := rfl
@[simp] theorem Fab.modElem_host (f : Fab) (e : ElemId) (g : Elem → Elem) : (f.modElem e g).host = f.host := rfl
@[simp] theorem Fab.modElem_beryl (f : Fab) (e : ElemId) (g : Elem → Elem) : (f.modElem e g).beryl = f.beryl := rfl
@[simp] theorem Fab.modElem_parts (f : Fab) (e : ElemId) (g : Elem → Elem) : (f.modElem e g).parts = f.parts := rfl
@[simp] theorem Fab.modElem_pmode (f : Fab) (e : ElemId) (g : Elem → Elem) : (f.modElem e g).pmode = f.pmode := rfl
@[simp] theorem Fab.modElem_sysRoot (f : Fab) (e : ElemId) (g : Elem → Elem) : (f.modElem e g).sysRoot = f.sysRoot := rfl
@[simp] theorem Fab.modElem_sysFrames (f : Fab) (e : ElemId) (g : Elem → Elem) : (f.modElem e g).sysFrames = f.sysFrames := rfl
@[simp] theorem Fab.modElem_tlb (f : Fab) (e : ElemId) (g : Elem → Elem) : (f.modElem e g).tlb = f.tlb := rfl
@[simp] theorem Fab.modElem_migs (f : Fab) (e : ElemId) (g : Elem → Elem) : (f.modElem e g).migs = f.migs := rfl
@[simp] theorem Fab.modElem_corr (f : Fab) (e : ElemId) (g : Elem → Elem) : (f.modElem e g).corr = f.corr := rfl
@[simp] theorem Fab.modElem_cinches (f : Fab) (e : ElemId) (g : Elem → Elem) : (f.modElem e g).cinches = f.cinches := rfl
@[simp] theorem Fab.modElem_colls (f : Fab) (e : ElemId) (g : Elem → Elem) : (f.modElem e g).colls = f.colls := rfl
@[simp] theorem Fab.modElem_tapes (f : Fab) (e : ElemId) (g : Elem → Elem) : (f.modElem e g).tapes = f.tapes := rfl
@[simp] theorem Fab.modElem_dieRes (f : Fab) (e : ElemId) (g : Elem → Elem) : (f.modElem e g).dieRes = f.dieRes := rfl
@[simp] theorem Fab.modElem_tables (f : Fab) (e : ElemId) (g : Elem → Elem) : (f.modElem e g).tables = f.tables := rfl
@[simp] theorem Fab.modElem_ents (f : Fab) (e : ElemId) (g : Elem → Elem) : (f.modElem e g).ents = f.ents := rfl
@[simp] theorem Fab.modElem_insts (f : Fab) (e : ElemId) (g : Elem → Elem) : (f.modElem e g).insts = f.insts := rfl
@[simp] theorem Fab.modElem_ops (f : Fab) (e : ElemId) (g : Elem → Elem) : (f.modElem e g).ops = f.ops := rfl
@[simp] theorem Fab.modElem_dies (f : Fab) (e : ElemId) (g : Elem → Elem) : (f.modElem e g).dies = f.dies := rfl
@[simp] theorem Fab.modElem_spares (f : Fab) (e : ElemId) (g : Elem → Elem) : (f.modElem e g).spares = f.spares := rfl
@[simp] theorem Fab.modElem_keepers (f : Fab) (e : ElemId) (g : Elem → Elem) : (f.modElem e g).keepers = f.keepers := rfl
@[simp] theorem Fab.modElem_keepq (f : Fab) (e : ElemId) (g : Elem → Elem) : (f.modElem e g).keepq = f.keepq := rfl
@[simp] theorem Fab.modElem_seq (f : Fab) (e : ElemId) (g : Elem → Elem) : (f.modElem e g).seq = f.seq := rfl
@[simp] theorem Fab.modElem_free (f : Fab) (e : ElemId) (g : Elem → Elem) : (f.modElem e g).free = f.free := rfl
@[simp] theorem Fab.modElem_big (f : Fab) (e : ElemId) (g : Elem → Elem) : (f.modElem e g).big = f.big := rfl

/-! ### Fab.modSlot -/

@[simp] theorem Fab.modSlot_clock (f : Fab) (e : ElemId) (c : Ctx) (g : Slot → Slot) : (f.modSlot e c g).clock = f.clock := rfl
@[simp] theorem Fab.modSlot_cur (f : Fab) (e : ElemId) (c : Ctx) (g : Slot → Slot) : (f.modSlot e c g).cur = f.cur := rfl
@[simp] theorem Fab.modSlot_armP (f : Fab) (e : ElemId) (c : Ctx) (g : Slot → Slot) : (f.modSlot e c g).armP = f.armP := rfl
@[simp] theorem Fab.modSlot_runs (f : Fab) (e : ElemId) (c : Ctx) (g : Slot → Slot) : (f.modSlot e c g).runs = f.runs := rfl
@[simp] theorem Fab.modSlot_images (f : Fab) (e : ElemId) (c : Ctx) (g : Slot → Slot) : (f.modSlot e c g).images = f.images := rfl
@[simp] theorem Fab.modSlot_mem (f : Fab) (e : ElemId) (c : Ctx) (g : Slot → Slot) : (f.modSlot e c g).mem = f.mem := rfl
@[simp] theorem Fab.modSlot_tags (f : Fab) (e : ElemId) (c : Ctx) (g : Slot → Slot) : (f.modSlot e c g).tags = f.tags := rfl
@[simp] theorem Fab.modSlot_evq (f : Fab) (e : ElemId) (c : Ctx) (g : Slot → Slot) : (f.modSlot e c g).evq = f.evq := rfl
@[simp] theorem Fab.modSlot_chans (f : Fab) (e : ElemId) (c : Ctx) (g : Slot → Slot) : (f.modSlot e c g).chans = f.chans := rfl
@[simp] theorem Fab.modSlot_pom (f : Fab) (e : ElemId) (c : Ctx) (g : Slot → Slot) : (f.modSlot e c g).pom = f.pom := rfl
@[simp] theorem Fab.modSlot_blocks (f : Fab) (e : ElemId) (c : Ctx) (g : Slot → Slot) : (f.modSlot e c g).blocks = f.blocks := rfl
@[simp] theorem Fab.modSlot_ingress (f : Fab) (e : ElemId) (c : Ctx) (g : Slot → Slot) : (f.modSlot e c g).ingress = f.ingress := rfl
@[simp] theorem Fab.modSlot_host (f : Fab) (e : ElemId) (c : Ctx) (g : Slot → Slot) : (f.modSlot e c g).host = f.host := rfl
@[simp] theorem Fab.modSlot_beryl (f : Fab) (e : ElemId) (c : Ctx) (g : Slot → Slot) : (f.modSlot e c g).beryl = f.beryl := rfl
@[simp] theorem Fab.modSlot_parts (f : Fab) (e : ElemId) (c : Ctx) (g : Slot → Slot) : (f.modSlot e c g).parts = f.parts := rfl
@[simp] theorem Fab.modSlot_pmode (f : Fab) (e : ElemId) (c : Ctx) (g : Slot → Slot) : (f.modSlot e c g).pmode = f.pmode := rfl
@[simp] theorem Fab.modSlot_sysRoot (f : Fab) (e : ElemId) (c : Ctx) (g : Slot → Slot) : (f.modSlot e c g).sysRoot = f.sysRoot := rfl
@[simp] theorem Fab.modSlot_sysFrames (f : Fab) (e : ElemId) (c : Ctx) (g : Slot → Slot) : (f.modSlot e c g).sysFrames = f.sysFrames := rfl
@[simp] theorem Fab.modSlot_tlb (f : Fab) (e : ElemId) (c : Ctx) (g : Slot → Slot) : (f.modSlot e c g).tlb = f.tlb := rfl
@[simp] theorem Fab.modSlot_migs (f : Fab) (e : ElemId) (c : Ctx) (g : Slot → Slot) : (f.modSlot e c g).migs = f.migs := rfl
@[simp] theorem Fab.modSlot_corr (f : Fab) (e : ElemId) (c : Ctx) (g : Slot → Slot) : (f.modSlot e c g).corr = f.corr := rfl
@[simp] theorem Fab.modSlot_cinches (f : Fab) (e : ElemId) (c : Ctx) (g : Slot → Slot) : (f.modSlot e c g).cinches = f.cinches := rfl
@[simp] theorem Fab.modSlot_colls (f : Fab) (e : ElemId) (c : Ctx) (g : Slot → Slot) : (f.modSlot e c g).colls = f.colls := rfl
@[simp] theorem Fab.modSlot_tapes (f : Fab) (e : ElemId) (c : Ctx) (g : Slot → Slot) : (f.modSlot e c g).tapes = f.tapes := rfl
@[simp] theorem Fab.modSlot_dieRes (f : Fab) (e : ElemId) (c : Ctx) (g : Slot → Slot) : (f.modSlot e c g).dieRes = f.dieRes := rfl
@[simp] theorem Fab.modSlot_tables (f : Fab) (e : ElemId) (c : Ctx) (g : Slot → Slot) : (f.modSlot e c g).tables = f.tables := rfl
@[simp] theorem Fab.modSlot_ents (f : Fab) (e : ElemId) (c : Ctx) (g : Slot → Slot) : (f.modSlot e c g).ents = f.ents := rfl
@[simp] theorem Fab.modSlot_insts (f : Fab) (e : ElemId) (c : Ctx) (g : Slot → Slot) : (f.modSlot e c g).insts = f.insts := rfl
@[simp] theorem Fab.modSlot_ops (f : Fab) (e : ElemId) (c : Ctx) (g : Slot → Slot) : (f.modSlot e c g).ops = f.ops := rfl
@[simp] theorem Fab.modSlot_dies (f : Fab) (e : ElemId) (c : Ctx) (g : Slot → Slot) : (f.modSlot e c g).dies = f.dies := rfl
@[simp] theorem Fab.modSlot_spares (f : Fab) (e : ElemId) (c : Ctx) (g : Slot → Slot) : (f.modSlot e c g).spares = f.spares := rfl
@[simp] theorem Fab.modSlot_keepers (f : Fab) (e : ElemId) (c : Ctx) (g : Slot → Slot) : (f.modSlot e c g).keepers = f.keepers := rfl
@[simp] theorem Fab.modSlot_keepq (f : Fab) (e : ElemId) (c : Ctx) (g : Slot → Slot) : (f.modSlot e c g).keepq = f.keepq := rfl
@[simp] theorem Fab.modSlot_seq (f : Fab) (e : ElemId) (c : Ctx) (g : Slot → Slot) : (f.modSlot e c g).seq = f.seq := rfl
@[simp] theorem Fab.modSlot_free (f : Fab) (e : ElemId) (c : Ctx) (g : Slot → Slot) : (f.modSlot e c g).free = f.free := rfl
@[simp] theorem Fab.modSlot_big (f : Fab) (e : ElemId) (c : Ctx) (g : Slot → Slot) : (f.modSlot e c g).big = f.big := rfl

/-! ### Fab.modLane -/

@[simp] theorem Fab.modLane_clock (f : Fab) (e : ElemId) (c : Ctx) (l : LaneNo) (g : Lane → Lane) : (f.modLane e c l g).clock = f.clock := rfl
@[simp] theorem Fab.modLane_cur (f : Fab) (e : ElemId) (c : Ctx) (l : LaneNo) (g : Lane → Lane) : (f.modLane e c l g).cur = f.cur := rfl
@[simp] theorem Fab.modLane_armP (f : Fab) (e : ElemId) (c : Ctx) (l : LaneNo) (g : Lane → Lane) : (f.modLane e c l g).armP = f.armP := rfl
@[simp] theorem Fab.modLane_runs (f : Fab) (e : ElemId) (c : Ctx) (l : LaneNo) (g : Lane → Lane) : (f.modLane e c l g).runs = f.runs := rfl
@[simp] theorem Fab.modLane_images (f : Fab) (e : ElemId) (c : Ctx) (l : LaneNo) (g : Lane → Lane) : (f.modLane e c l g).images = f.images := rfl
@[simp] theorem Fab.modLane_mem (f : Fab) (e : ElemId) (c : Ctx) (l : LaneNo) (g : Lane → Lane) : (f.modLane e c l g).mem = f.mem := rfl
@[simp] theorem Fab.modLane_tags (f : Fab) (e : ElemId) (c : Ctx) (l : LaneNo) (g : Lane → Lane) : (f.modLane e c l g).tags = f.tags := rfl
@[simp] theorem Fab.modLane_evq (f : Fab) (e : ElemId) (c : Ctx) (l : LaneNo) (g : Lane → Lane) : (f.modLane e c l g).evq = f.evq := rfl
@[simp] theorem Fab.modLane_chans (f : Fab) (e : ElemId) (c : Ctx) (l : LaneNo) (g : Lane → Lane) : (f.modLane e c l g).chans = f.chans := rfl
@[simp] theorem Fab.modLane_pom (f : Fab) (e : ElemId) (c : Ctx) (l : LaneNo) (g : Lane → Lane) : (f.modLane e c l g).pom = f.pom := rfl
@[simp] theorem Fab.modLane_blocks (f : Fab) (e : ElemId) (c : Ctx) (l : LaneNo) (g : Lane → Lane) : (f.modLane e c l g).blocks = f.blocks := rfl
@[simp] theorem Fab.modLane_ingress (f : Fab) (e : ElemId) (c : Ctx) (l : LaneNo) (g : Lane → Lane) : (f.modLane e c l g).ingress = f.ingress := rfl
@[simp] theorem Fab.modLane_host (f : Fab) (e : ElemId) (c : Ctx) (l : LaneNo) (g : Lane → Lane) : (f.modLane e c l g).host = f.host := rfl
@[simp] theorem Fab.modLane_beryl (f : Fab) (e : ElemId) (c : Ctx) (l : LaneNo) (g : Lane → Lane) : (f.modLane e c l g).beryl = f.beryl := rfl
@[simp] theorem Fab.modLane_parts (f : Fab) (e : ElemId) (c : Ctx) (l : LaneNo) (g : Lane → Lane) : (f.modLane e c l g).parts = f.parts := rfl
@[simp] theorem Fab.modLane_pmode (f : Fab) (e : ElemId) (c : Ctx) (l : LaneNo) (g : Lane → Lane) : (f.modLane e c l g).pmode = f.pmode := rfl
@[simp] theorem Fab.modLane_sysRoot (f : Fab) (e : ElemId) (c : Ctx) (l : LaneNo) (g : Lane → Lane) : (f.modLane e c l g).sysRoot = f.sysRoot := rfl
@[simp] theorem Fab.modLane_sysFrames (f : Fab) (e : ElemId) (c : Ctx) (l : LaneNo) (g : Lane → Lane) : (f.modLane e c l g).sysFrames = f.sysFrames := rfl
@[simp] theorem Fab.modLane_tlb (f : Fab) (e : ElemId) (c : Ctx) (l : LaneNo) (g : Lane → Lane) : (f.modLane e c l g).tlb = f.tlb := rfl
@[simp] theorem Fab.modLane_migs (f : Fab) (e : ElemId) (c : Ctx) (l : LaneNo) (g : Lane → Lane) : (f.modLane e c l g).migs = f.migs := rfl
@[simp] theorem Fab.modLane_corr (f : Fab) (e : ElemId) (c : Ctx) (l : LaneNo) (g : Lane → Lane) : (f.modLane e c l g).corr = f.corr := rfl
@[simp] theorem Fab.modLane_cinches (f : Fab) (e : ElemId) (c : Ctx) (l : LaneNo) (g : Lane → Lane) : (f.modLane e c l g).cinches = f.cinches := rfl
@[simp] theorem Fab.modLane_colls (f : Fab) (e : ElemId) (c : Ctx) (l : LaneNo) (g : Lane → Lane) : (f.modLane e c l g).colls = f.colls := rfl
@[simp] theorem Fab.modLane_tapes (f : Fab) (e : ElemId) (c : Ctx) (l : LaneNo) (g : Lane → Lane) : (f.modLane e c l g).tapes = f.tapes := rfl
@[simp] theorem Fab.modLane_dieRes (f : Fab) (e : ElemId) (c : Ctx) (l : LaneNo) (g : Lane → Lane) : (f.modLane e c l g).dieRes = f.dieRes := rfl
@[simp] theorem Fab.modLane_tables (f : Fab) (e : ElemId) (c : Ctx) (l : LaneNo) (g : Lane → Lane) : (f.modLane e c l g).tables = f.tables := rfl
@[simp] theorem Fab.modLane_ents (f : Fab) (e : ElemId) (c : Ctx) (l : LaneNo) (g : Lane → Lane) : (f.modLane e c l g).ents = f.ents := rfl
@[simp] theorem Fab.modLane_insts (f : Fab) (e : ElemId) (c : Ctx) (l : LaneNo) (g : Lane → Lane) : (f.modLane e c l g).insts = f.insts := rfl
@[simp] theorem Fab.modLane_ops (f : Fab) (e : ElemId) (c : Ctx) (l : LaneNo) (g : Lane → Lane) : (f.modLane e c l g).ops = f.ops := rfl
@[simp] theorem Fab.modLane_dies (f : Fab) (e : ElemId) (c : Ctx) (l : LaneNo) (g : Lane → Lane) : (f.modLane e c l g).dies = f.dies := rfl
@[simp] theorem Fab.modLane_spares (f : Fab) (e : ElemId) (c : Ctx) (l : LaneNo) (g : Lane → Lane) : (f.modLane e c l g).spares = f.spares := rfl
@[simp] theorem Fab.modLane_keepers (f : Fab) (e : ElemId) (c : Ctx) (l : LaneNo) (g : Lane → Lane) : (f.modLane e c l g).keepers = f.keepers := rfl
@[simp] theorem Fab.modLane_keepq (f : Fab) (e : ElemId) (c : Ctx) (l : LaneNo) (g : Lane → Lane) : (f.modLane e c l g).keepq = f.keepq := rfl
@[simp] theorem Fab.modLane_seq (f : Fab) (e : ElemId) (c : Ctx) (l : LaneNo) (g : Lane → Lane) : (f.modLane e c l g).seq = f.seq := rfl
@[simp] theorem Fab.modLane_free (f : Fab) (e : ElemId) (c : Ctx) (l : LaneNo) (g : Lane → Lane) : (f.modLane e c l g).free = f.free := rfl
@[simp] theorem Fab.modLane_big (f : Fab) (e : ElemId) (c : Ctx) (l : LaneNo) (g : Lane → Lane) : (f.modLane e c l g).big = f.big := rfl

/-! ### Fab.modJob -/

@[simp] theorem Fab.modJob_clock (f : Fab) (e : ElemId) (j : Fin 4) (g : Job → Job) : (f.modJob e j g).clock = f.clock := rfl
@[simp] theorem Fab.modJob_cur (f : Fab) (e : ElemId) (j : Fin 4) (g : Job → Job) : (f.modJob e j g).cur = f.cur := rfl
@[simp] theorem Fab.modJob_armP (f : Fab) (e : ElemId) (j : Fin 4) (g : Job → Job) : (f.modJob e j g).armP = f.armP := rfl
@[simp] theorem Fab.modJob_runs (f : Fab) (e : ElemId) (j : Fin 4) (g : Job → Job) : (f.modJob e j g).runs = f.runs := rfl
@[simp] theorem Fab.modJob_images (f : Fab) (e : ElemId) (j : Fin 4) (g : Job → Job) : (f.modJob e j g).images = f.images := rfl
@[simp] theorem Fab.modJob_mem (f : Fab) (e : ElemId) (j : Fin 4) (g : Job → Job) : (f.modJob e j g).mem = f.mem := rfl
@[simp] theorem Fab.modJob_tags (f : Fab) (e : ElemId) (j : Fin 4) (g : Job → Job) : (f.modJob e j g).tags = f.tags := rfl
@[simp] theorem Fab.modJob_evq (f : Fab) (e : ElemId) (j : Fin 4) (g : Job → Job) : (f.modJob e j g).evq = f.evq := rfl
@[simp] theorem Fab.modJob_chans (f : Fab) (e : ElemId) (j : Fin 4) (g : Job → Job) : (f.modJob e j g).chans = f.chans := rfl
@[simp] theorem Fab.modJob_pom (f : Fab) (e : ElemId) (j : Fin 4) (g : Job → Job) : (f.modJob e j g).pom = f.pom := rfl
@[simp] theorem Fab.modJob_blocks (f : Fab) (e : ElemId) (j : Fin 4) (g : Job → Job) : (f.modJob e j g).blocks = f.blocks := rfl
@[simp] theorem Fab.modJob_ingress (f : Fab) (e : ElemId) (j : Fin 4) (g : Job → Job) : (f.modJob e j g).ingress = f.ingress := rfl
@[simp] theorem Fab.modJob_host (f : Fab) (e : ElemId) (j : Fin 4) (g : Job → Job) : (f.modJob e j g).host = f.host := rfl
@[simp] theorem Fab.modJob_beryl (f : Fab) (e : ElemId) (j : Fin 4) (g : Job → Job) : (f.modJob e j g).beryl = f.beryl := rfl
@[simp] theorem Fab.modJob_parts (f : Fab) (e : ElemId) (j : Fin 4) (g : Job → Job) : (f.modJob e j g).parts = f.parts := rfl
@[simp] theorem Fab.modJob_pmode (f : Fab) (e : ElemId) (j : Fin 4) (g : Job → Job) : (f.modJob e j g).pmode = f.pmode := rfl
@[simp] theorem Fab.modJob_sysRoot (f : Fab) (e : ElemId) (j : Fin 4) (g : Job → Job) : (f.modJob e j g).sysRoot = f.sysRoot := rfl
@[simp] theorem Fab.modJob_sysFrames (f : Fab) (e : ElemId) (j : Fin 4) (g : Job → Job) : (f.modJob e j g).sysFrames = f.sysFrames := rfl
@[simp] theorem Fab.modJob_tlb (f : Fab) (e : ElemId) (j : Fin 4) (g : Job → Job) : (f.modJob e j g).tlb = f.tlb := rfl
@[simp] theorem Fab.modJob_migs (f : Fab) (e : ElemId) (j : Fin 4) (g : Job → Job) : (f.modJob e j g).migs = f.migs := rfl
@[simp] theorem Fab.modJob_corr (f : Fab) (e : ElemId) (j : Fin 4) (g : Job → Job) : (f.modJob e j g).corr = f.corr := rfl
@[simp] theorem Fab.modJob_cinches (f : Fab) (e : ElemId) (j : Fin 4) (g : Job → Job) : (f.modJob e j g).cinches = f.cinches := rfl
@[simp] theorem Fab.modJob_colls (f : Fab) (e : ElemId) (j : Fin 4) (g : Job → Job) : (f.modJob e j g).colls = f.colls := rfl
@[simp] theorem Fab.modJob_tapes (f : Fab) (e : ElemId) (j : Fin 4) (g : Job → Job) : (f.modJob e j g).tapes = f.tapes := rfl
@[simp] theorem Fab.modJob_dieRes (f : Fab) (e : ElemId) (j : Fin 4) (g : Job → Job) : (f.modJob e j g).dieRes = f.dieRes := rfl
@[simp] theorem Fab.modJob_tables (f : Fab) (e : ElemId) (j : Fin 4) (g : Job → Job) : (f.modJob e j g).tables = f.tables := rfl
@[simp] theorem Fab.modJob_ents (f : Fab) (e : ElemId) (j : Fin 4) (g : Job → Job) : (f.modJob e j g).ents = f.ents := rfl
@[simp] theorem Fab.modJob_insts (f : Fab) (e : ElemId) (j : Fin 4) (g : Job → Job) : (f.modJob e j g).insts = f.insts := rfl
@[simp] theorem Fab.modJob_ops (f : Fab) (e : ElemId) (j : Fin 4) (g : Job → Job) : (f.modJob e j g).ops = f.ops := rfl
@[simp] theorem Fab.modJob_dies (f : Fab) (e : ElemId) (j : Fin 4) (g : Job → Job) : (f.modJob e j g).dies = f.dies := rfl
@[simp] theorem Fab.modJob_spares (f : Fab) (e : ElemId) (j : Fin 4) (g : Job → Job) : (f.modJob e j g).spares = f.spares := rfl
@[simp] theorem Fab.modJob_keepers (f : Fab) (e : ElemId) (j : Fin 4) (g : Job → Job) : (f.modJob e j g).keepers = f.keepers := rfl
@[simp] theorem Fab.modJob_keepq (f : Fab) (e : ElemId) (j : Fin 4) (g : Job → Job) : (f.modJob e j g).keepq = f.keepq := rfl
@[simp] theorem Fab.modJob_seq (f : Fab) (e : ElemId) (j : Fin 4) (g : Job → Job) : (f.modJob e j g).seq = f.seq := rfl
@[simp] theorem Fab.modJob_free (f : Fab) (e : ElemId) (j : Fin 4) (g : Job → Job) : (f.modJob e j g).free = f.free := rfl
@[simp] theorem Fab.modJob_big (f : Fab) (e : ElemId) (j : Fin 4) (g : Job → Job) : (f.modJob e j g).big = f.big := rfl

/-! ### Fab.modTile -/

@[simp] theorem Fab.modTile_clock (f : Fab) (e : ElemId) (h : Nat) (g : Tile → Tile) : (f.modTile e h g).clock = f.clock := rfl
@[simp] theorem Fab.modTile_cur (f : Fab) (e : ElemId) (h : Nat) (g : Tile → Tile) : (f.modTile e h g).cur = f.cur := rfl
@[simp] theorem Fab.modTile_armP (f : Fab) (e : ElemId) (h : Nat) (g : Tile → Tile) : (f.modTile e h g).armP = f.armP := rfl
@[simp] theorem Fab.modTile_runs (f : Fab) (e : ElemId) (h : Nat) (g : Tile → Tile) : (f.modTile e h g).runs = f.runs := rfl
@[simp] theorem Fab.modTile_images (f : Fab) (e : ElemId) (h : Nat) (g : Tile → Tile) : (f.modTile e h g).images = f.images := rfl
@[simp] theorem Fab.modTile_mem (f : Fab) (e : ElemId) (h : Nat) (g : Tile → Tile) : (f.modTile e h g).mem = f.mem := rfl
@[simp] theorem Fab.modTile_tags (f : Fab) (e : ElemId) (h : Nat) (g : Tile → Tile) : (f.modTile e h g).tags = f.tags := rfl
@[simp] theorem Fab.modTile_evq (f : Fab) (e : ElemId) (h : Nat) (g : Tile → Tile) : (f.modTile e h g).evq = f.evq := rfl
@[simp] theorem Fab.modTile_chans (f : Fab) (e : ElemId) (h : Nat) (g : Tile → Tile) : (f.modTile e h g).chans = f.chans := rfl
@[simp] theorem Fab.modTile_pom (f : Fab) (e : ElemId) (h : Nat) (g : Tile → Tile) : (f.modTile e h g).pom = f.pom := rfl
@[simp] theorem Fab.modTile_blocks (f : Fab) (e : ElemId) (h : Nat) (g : Tile → Tile) : (f.modTile e h g).blocks = f.blocks := rfl
@[simp] theorem Fab.modTile_ingress (f : Fab) (e : ElemId) (h : Nat) (g : Tile → Tile) : (f.modTile e h g).ingress = f.ingress := rfl
@[simp] theorem Fab.modTile_host (f : Fab) (e : ElemId) (h : Nat) (g : Tile → Tile) : (f.modTile e h g).host = f.host := rfl
@[simp] theorem Fab.modTile_beryl (f : Fab) (e : ElemId) (h : Nat) (g : Tile → Tile) : (f.modTile e h g).beryl = f.beryl := rfl
@[simp] theorem Fab.modTile_parts (f : Fab) (e : ElemId) (h : Nat) (g : Tile → Tile) : (f.modTile e h g).parts = f.parts := rfl
@[simp] theorem Fab.modTile_pmode (f : Fab) (e : ElemId) (h : Nat) (g : Tile → Tile) : (f.modTile e h g).pmode = f.pmode := rfl
@[simp] theorem Fab.modTile_sysRoot (f : Fab) (e : ElemId) (h : Nat) (g : Tile → Tile) : (f.modTile e h g).sysRoot = f.sysRoot := rfl
@[simp] theorem Fab.modTile_sysFrames (f : Fab) (e : ElemId) (h : Nat) (g : Tile → Tile) : (f.modTile e h g).sysFrames = f.sysFrames := rfl
@[simp] theorem Fab.modTile_tlb (f : Fab) (e : ElemId) (h : Nat) (g : Tile → Tile) : (f.modTile e h g).tlb = f.tlb := rfl
@[simp] theorem Fab.modTile_migs (f : Fab) (e : ElemId) (h : Nat) (g : Tile → Tile) : (f.modTile e h g).migs = f.migs := rfl
@[simp] theorem Fab.modTile_corr (f : Fab) (e : ElemId) (h : Nat) (g : Tile → Tile) : (f.modTile e h g).corr = f.corr := rfl
@[simp] theorem Fab.modTile_cinches (f : Fab) (e : ElemId) (h : Nat) (g : Tile → Tile) : (f.modTile e h g).cinches = f.cinches := rfl
@[simp] theorem Fab.modTile_colls (f : Fab) (e : ElemId) (h : Nat) (g : Tile → Tile) : (f.modTile e h g).colls = f.colls := rfl
@[simp] theorem Fab.modTile_tapes (f : Fab) (e : ElemId) (h : Nat) (g : Tile → Tile) : (f.modTile e h g).tapes = f.tapes := rfl
@[simp] theorem Fab.modTile_dieRes (f : Fab) (e : ElemId) (h : Nat) (g : Tile → Tile) : (f.modTile e h g).dieRes = f.dieRes := rfl
@[simp] theorem Fab.modTile_tables (f : Fab) (e : ElemId) (h : Nat) (g : Tile → Tile) : (f.modTile e h g).tables = f.tables := rfl
@[simp] theorem Fab.modTile_ents (f : Fab) (e : ElemId) (h : Nat) (g : Tile → Tile) : (f.modTile e h g).ents = f.ents := rfl
@[simp] theorem Fab.modTile_insts (f : Fab) (e : ElemId) (h : Nat) (g : Tile → Tile) : (f.modTile e h g).insts = f.insts := rfl
@[simp] theorem Fab.modTile_ops (f : Fab) (e : ElemId) (h : Nat) (g : Tile → Tile) : (f.modTile e h g).ops = f.ops := rfl
@[simp] theorem Fab.modTile_dies (f : Fab) (e : ElemId) (h : Nat) (g : Tile → Tile) : (f.modTile e h g).dies = f.dies := rfl
@[simp] theorem Fab.modTile_spares (f : Fab) (e : ElemId) (h : Nat) (g : Tile → Tile) : (f.modTile e h g).spares = f.spares := rfl
@[simp] theorem Fab.modTile_keepers (f : Fab) (e : ElemId) (h : Nat) (g : Tile → Tile) : (f.modTile e h g).keepers = f.keepers := rfl
@[simp] theorem Fab.modTile_keepq (f : Fab) (e : ElemId) (h : Nat) (g : Tile → Tile) : (f.modTile e h g).keepq = f.keepq := rfl
@[simp] theorem Fab.modTile_seq (f : Fab) (e : ElemId) (h : Nat) (g : Tile → Tile) : (f.modTile e h g).seq = f.seq := rfl
@[simp] theorem Fab.modTile_free (f : Fab) (e : ElemId) (h : Nat) (g : Tile → Tile) : (f.modTile e h g).free = f.free := rfl
@[simp] theorem Fab.modTile_big (f : Fab) (e : ElemId) (h : Nat) (g : Tile → Tile) : (f.modTile e h g).big = f.big := rfl

/-! ### Fab.modNode -/

@[simp] theorem Fab.modNode_clock (f : Fab) (e : ElemId) (g : Node → Node) : (f.modNode e g).clock = f.clock := rfl
@[simp] theorem Fab.modNode_cur (f : Fab) (e : ElemId) (g : Node → Node) : (f.modNode e g).cur = f.cur := rfl
@[simp] theorem Fab.modNode_armP (f : Fab) (e : ElemId) (g : Node → Node) : (f.modNode e g).armP = f.armP := rfl
@[simp] theorem Fab.modNode_runs (f : Fab) (e : ElemId) (g : Node → Node) : (f.modNode e g).runs = f.runs := rfl
@[simp] theorem Fab.modNode_images (f : Fab) (e : ElemId) (g : Node → Node) : (f.modNode e g).images = f.images := rfl
@[simp] theorem Fab.modNode_mem (f : Fab) (e : ElemId) (g : Node → Node) : (f.modNode e g).mem = f.mem := rfl
@[simp] theorem Fab.modNode_tags (f : Fab) (e : ElemId) (g : Node → Node) : (f.modNode e g).tags = f.tags := rfl
@[simp] theorem Fab.modNode_evq (f : Fab) (e : ElemId) (g : Node → Node) : (f.modNode e g).evq = f.evq := rfl
@[simp] theorem Fab.modNode_chans (f : Fab) (e : ElemId) (g : Node → Node) : (f.modNode e g).chans = f.chans := rfl
@[simp] theorem Fab.modNode_pom (f : Fab) (e : ElemId) (g : Node → Node) : (f.modNode e g).pom = f.pom := rfl
@[simp] theorem Fab.modNode_blocks (f : Fab) (e : ElemId) (g : Node → Node) : (f.modNode e g).blocks = f.blocks := rfl
@[simp] theorem Fab.modNode_ingress (f : Fab) (e : ElemId) (g : Node → Node) : (f.modNode e g).ingress = f.ingress := rfl
@[simp] theorem Fab.modNode_host (f : Fab) (e : ElemId) (g : Node → Node) : (f.modNode e g).host = f.host := rfl
@[simp] theorem Fab.modNode_beryl (f : Fab) (e : ElemId) (g : Node → Node) : (f.modNode e g).beryl = f.beryl := rfl
@[simp] theorem Fab.modNode_parts (f : Fab) (e : ElemId) (g : Node → Node) : (f.modNode e g).parts = f.parts := rfl
@[simp] theorem Fab.modNode_pmode (f : Fab) (e : ElemId) (g : Node → Node) : (f.modNode e g).pmode = f.pmode := rfl
@[simp] theorem Fab.modNode_sysRoot (f : Fab) (e : ElemId) (g : Node → Node) : (f.modNode e g).sysRoot = f.sysRoot := rfl
@[simp] theorem Fab.modNode_sysFrames (f : Fab) (e : ElemId) (g : Node → Node) : (f.modNode e g).sysFrames = f.sysFrames := rfl
@[simp] theorem Fab.modNode_tlb (f : Fab) (e : ElemId) (g : Node → Node) : (f.modNode e g).tlb = f.tlb := rfl
@[simp] theorem Fab.modNode_migs (f : Fab) (e : ElemId) (g : Node → Node) : (f.modNode e g).migs = f.migs := rfl
@[simp] theorem Fab.modNode_corr (f : Fab) (e : ElemId) (g : Node → Node) : (f.modNode e g).corr = f.corr := rfl
@[simp] theorem Fab.modNode_cinches (f : Fab) (e : ElemId) (g : Node → Node) : (f.modNode e g).cinches = f.cinches := rfl
@[simp] theorem Fab.modNode_colls (f : Fab) (e : ElemId) (g : Node → Node) : (f.modNode e g).colls = f.colls := rfl
@[simp] theorem Fab.modNode_tapes (f : Fab) (e : ElemId) (g : Node → Node) : (f.modNode e g).tapes = f.tapes := rfl
@[simp] theorem Fab.modNode_dieRes (f : Fab) (e : ElemId) (g : Node → Node) : (f.modNode e g).dieRes = f.dieRes := rfl
@[simp] theorem Fab.modNode_tables (f : Fab) (e : ElemId) (g : Node → Node) : (f.modNode e g).tables = f.tables := rfl
@[simp] theorem Fab.modNode_ents (f : Fab) (e : ElemId) (g : Node → Node) : (f.modNode e g).ents = f.ents := rfl
@[simp] theorem Fab.modNode_insts (f : Fab) (e : ElemId) (g : Node → Node) : (f.modNode e g).insts = f.insts := rfl
@[simp] theorem Fab.modNode_ops (f : Fab) (e : ElemId) (g : Node → Node) : (f.modNode e g).ops = f.ops := rfl
@[simp] theorem Fab.modNode_dies (f : Fab) (e : ElemId) (g : Node → Node) : (f.modNode e g).dies = f.dies := rfl
@[simp] theorem Fab.modNode_spares (f : Fab) (e : ElemId) (g : Node → Node) : (f.modNode e g).spares = f.spares := rfl
@[simp] theorem Fab.modNode_keepers (f : Fab) (e : ElemId) (g : Node → Node) : (f.modNode e g).keepers = f.keepers := rfl
@[simp] theorem Fab.modNode_keepq (f : Fab) (e : ElemId) (g : Node → Node) : (f.modNode e g).keepq = f.keepq := rfl
@[simp] theorem Fab.modNode_seq (f : Fab) (e : ElemId) (g : Node → Node) : (f.modNode e g).seq = f.seq := rfl
@[simp] theorem Fab.modNode_free (f : Fab) (e : ElemId) (g : Node → Node) : (f.modNode e g).free = f.free := rfl
@[simp] theorem Fab.modNode_big (f : Fab) (e : ElemId) (g : Node → Node) : (f.modNode e g).big = f.big := rfl

/-! ### Fab.hold -/

@[simp] theorem Fab.hold_clock (f : Fab) (e : ElemId) (h : Hold) (t : Nat) : (f.hold e h t).clock = f.clock := rfl
@[simp] theorem Fab.hold_cur (f : Fab) (e : ElemId) (h : Hold) (t : Nat) : (f.hold e h t).cur = f.cur := rfl
@[simp] theorem Fab.hold_armP (f : Fab) (e : ElemId) (h : Hold) (t : Nat) : (f.hold e h t).armP = f.armP := rfl
@[simp] theorem Fab.hold_runs (f : Fab) (e : ElemId) (h : Hold) (t : Nat) : (f.hold e h t).runs = f.runs := rfl
@[simp] theorem Fab.hold_images (f : Fab) (e : ElemId) (h : Hold) (t : Nat) : (f.hold e h t).images = f.images := rfl
@[simp] theorem Fab.hold_mem (f : Fab) (e : ElemId) (h : Hold) (t : Nat) : (f.hold e h t).mem = f.mem := rfl
@[simp] theorem Fab.hold_tags (f : Fab) (e : ElemId) (h : Hold) (t : Nat) : (f.hold e h t).tags = f.tags := rfl
@[simp] theorem Fab.hold_evq (f : Fab) (e : ElemId) (h : Hold) (t : Nat) : (f.hold e h t).evq = f.evq := rfl
@[simp] theorem Fab.hold_chans (f : Fab) (e : ElemId) (h : Hold) (t : Nat) : (f.hold e h t).chans = f.chans := rfl
@[simp] theorem Fab.hold_pom (f : Fab) (e : ElemId) (h : Hold) (t : Nat) : (f.hold e h t).pom = f.pom := rfl
@[simp] theorem Fab.hold_blocks (f : Fab) (e : ElemId) (h : Hold) (t : Nat) : (f.hold e h t).blocks = f.blocks := rfl
@[simp] theorem Fab.hold_ingress (f : Fab) (e : ElemId) (h : Hold) (t : Nat) : (f.hold e h t).ingress = f.ingress := rfl
@[simp] theorem Fab.hold_host (f : Fab) (e : ElemId) (h : Hold) (t : Nat) : (f.hold e h t).host = f.host := rfl
@[simp] theorem Fab.hold_beryl (f : Fab) (e : ElemId) (h : Hold) (t : Nat) : (f.hold e h t).beryl = f.beryl := rfl
@[simp] theorem Fab.hold_parts (f : Fab) (e : ElemId) (h : Hold) (t : Nat) : (f.hold e h t).parts = f.parts := rfl
@[simp] theorem Fab.hold_pmode (f : Fab) (e : ElemId) (h : Hold) (t : Nat) : (f.hold e h t).pmode = f.pmode := rfl
@[simp] theorem Fab.hold_sysRoot (f : Fab) (e : ElemId) (h : Hold) (t : Nat) : (f.hold e h t).sysRoot = f.sysRoot := rfl
@[simp] theorem Fab.hold_sysFrames (f : Fab) (e : ElemId) (h : Hold) (t : Nat) : (f.hold e h t).sysFrames = f.sysFrames := rfl
@[simp] theorem Fab.hold_tlb (f : Fab) (e : ElemId) (h : Hold) (t : Nat) : (f.hold e h t).tlb = f.tlb := rfl
@[simp] theorem Fab.hold_migs (f : Fab) (e : ElemId) (h : Hold) (t : Nat) : (f.hold e h t).migs = f.migs := rfl
@[simp] theorem Fab.hold_corr (f : Fab) (e : ElemId) (h : Hold) (t : Nat) : (f.hold e h t).corr = f.corr := rfl
@[simp] theorem Fab.hold_cinches (f : Fab) (e : ElemId) (h : Hold) (t : Nat) : (f.hold e h t).cinches = f.cinches := rfl
@[simp] theorem Fab.hold_colls (f : Fab) (e : ElemId) (h : Hold) (t : Nat) : (f.hold e h t).colls = f.colls := rfl
@[simp] theorem Fab.hold_tapes (f : Fab) (e : ElemId) (h : Hold) (t : Nat) : (f.hold e h t).tapes = f.tapes := rfl
@[simp] theorem Fab.hold_dieRes (f : Fab) (e : ElemId) (h : Hold) (t : Nat) : (f.hold e h t).dieRes = f.dieRes := rfl
@[simp] theorem Fab.hold_tables (f : Fab) (e : ElemId) (h : Hold) (t : Nat) : (f.hold e h t).tables = f.tables := rfl
@[simp] theorem Fab.hold_ents (f : Fab) (e : ElemId) (h : Hold) (t : Nat) : (f.hold e h t).ents = f.ents := rfl
@[simp] theorem Fab.hold_insts (f : Fab) (e : ElemId) (h : Hold) (t : Nat) : (f.hold e h t).insts = f.insts := rfl
@[simp] theorem Fab.hold_ops (f : Fab) (e : ElemId) (h : Hold) (t : Nat) : (f.hold e h t).ops = f.ops := rfl
@[simp] theorem Fab.hold_dies (f : Fab) (e : ElemId) (h : Hold) (t : Nat) : (f.hold e h t).dies = f.dies := rfl
@[simp] theorem Fab.hold_spares (f : Fab) (e : ElemId) (h : Hold) (t : Nat) : (f.hold e h t).spares = f.spares := rfl
@[simp] theorem Fab.hold_keepers (f : Fab) (e : ElemId) (h : Hold) (t : Nat) : (f.hold e h t).keepers = f.keepers := rfl
@[simp] theorem Fab.hold_keepq (f : Fab) (e : ElemId) (h : Hold) (t : Nat) : (f.hold e h t).keepq = f.keepq := rfl
@[simp] theorem Fab.hold_seq (f : Fab) (e : ElemId) (h : Hold) (t : Nat) : (f.hold e h t).seq = f.seq := rfl
@[simp] theorem Fab.hold_free (f : Fab) (e : ElemId) (h : Hold) (t : Nat) : (f.hold e h t).free = f.free := rfl
@[simp] theorem Fab.hold_big (f : Fab) (e : ElemId) (h : Hold) (t : Nat) : (f.hold e h t).big = f.big := rfl

/-! ### Fab.unhold -/

@[simp] theorem Fab.unhold_clock (f : Fab) (e : ElemId) : (f.unhold e).clock = f.clock := rfl
@[simp] theorem Fab.unhold_cur (f : Fab) (e : ElemId) : (f.unhold e).cur = f.cur := rfl
@[simp] theorem Fab.unhold_armP (f : Fab) (e : ElemId) : (f.unhold e).armP = f.armP := rfl
@[simp] theorem Fab.unhold_runs (f : Fab) (e : ElemId) : (f.unhold e).runs = f.runs := rfl
@[simp] theorem Fab.unhold_images (f : Fab) (e : ElemId) : (f.unhold e).images = f.images := rfl
@[simp] theorem Fab.unhold_mem (f : Fab) (e : ElemId) : (f.unhold e).mem = f.mem := rfl
@[simp] theorem Fab.unhold_tags (f : Fab) (e : ElemId) : (f.unhold e).tags = f.tags := rfl
@[simp] theorem Fab.unhold_evq (f : Fab) (e : ElemId) : (f.unhold e).evq = f.evq := rfl
@[simp] theorem Fab.unhold_chans (f : Fab) (e : ElemId) : (f.unhold e).chans = f.chans := rfl
@[simp] theorem Fab.unhold_pom (f : Fab) (e : ElemId) : (f.unhold e).pom = f.pom := rfl
@[simp] theorem Fab.unhold_blocks (f : Fab) (e : ElemId) : (f.unhold e).blocks = f.blocks := rfl
@[simp] theorem Fab.unhold_ingress (f : Fab) (e : ElemId) : (f.unhold e).ingress = f.ingress := rfl
@[simp] theorem Fab.unhold_host (f : Fab) (e : ElemId) : (f.unhold e).host = f.host := rfl
@[simp] theorem Fab.unhold_beryl (f : Fab) (e : ElemId) : (f.unhold e).beryl = f.beryl := rfl
@[simp] theorem Fab.unhold_parts (f : Fab) (e : ElemId) : (f.unhold e).parts = f.parts := rfl
@[simp] theorem Fab.unhold_pmode (f : Fab) (e : ElemId) : (f.unhold e).pmode = f.pmode := rfl
@[simp] theorem Fab.unhold_sysRoot (f : Fab) (e : ElemId) : (f.unhold e).sysRoot = f.sysRoot := rfl
@[simp] theorem Fab.unhold_sysFrames (f : Fab) (e : ElemId) : (f.unhold e).sysFrames = f.sysFrames := rfl
@[simp] theorem Fab.unhold_tlb (f : Fab) (e : ElemId) : (f.unhold e).tlb = f.tlb := rfl
@[simp] theorem Fab.unhold_migs (f : Fab) (e : ElemId) : (f.unhold e).migs = f.migs := rfl
@[simp] theorem Fab.unhold_corr (f : Fab) (e : ElemId) : (f.unhold e).corr = f.corr := rfl
@[simp] theorem Fab.unhold_cinches (f : Fab) (e : ElemId) : (f.unhold e).cinches = f.cinches := rfl
@[simp] theorem Fab.unhold_colls (f : Fab) (e : ElemId) : (f.unhold e).colls = f.colls := rfl
@[simp] theorem Fab.unhold_tapes (f : Fab) (e : ElemId) : (f.unhold e).tapes = f.tapes := rfl
@[simp] theorem Fab.unhold_dieRes (f : Fab) (e : ElemId) : (f.unhold e).dieRes = f.dieRes := rfl
@[simp] theorem Fab.unhold_tables (f : Fab) (e : ElemId) : (f.unhold e).tables = f.tables := rfl
@[simp] theorem Fab.unhold_ents (f : Fab) (e : ElemId) : (f.unhold e).ents = f.ents := rfl
@[simp] theorem Fab.unhold_insts (f : Fab) (e : ElemId) : (f.unhold e).insts = f.insts := rfl
@[simp] theorem Fab.unhold_ops (f : Fab) (e : ElemId) : (f.unhold e).ops = f.ops := rfl
@[simp] theorem Fab.unhold_dies (f : Fab) (e : ElemId) : (f.unhold e).dies = f.dies := rfl
@[simp] theorem Fab.unhold_spares (f : Fab) (e : ElemId) : (f.unhold e).spares = f.spares := rfl
@[simp] theorem Fab.unhold_keepers (f : Fab) (e : ElemId) : (f.unhold e).keepers = f.keepers := rfl
@[simp] theorem Fab.unhold_keepq (f : Fab) (e : ElemId) : (f.unhold e).keepq = f.keepq := rfl
@[simp] theorem Fab.unhold_seq (f : Fab) (e : ElemId) : (f.unhold e).seq = f.seq := rfl
@[simp] theorem Fab.unhold_free (f : Fab) (e : ElemId) : (f.unhold e).free = f.free := rfl
@[simp] theorem Fab.unhold_big (f : Fab) (e : ElemId) : (f.unhold e).big = f.big := rfl

/-! ### Fab.store -/

@[simp] theorem Fab.store_clock (f : Fab) (a : Nat) (bs : List Byte) : (f.store a bs).clock = f.clock := rfl
@[simp] theorem Fab.store_cur (f : Fab) (a : Nat) (bs : List Byte) : (f.store a bs).cur = f.cur := rfl
@[simp] theorem Fab.store_armP (f : Fab) (a : Nat) (bs : List Byte) : (f.store a bs).armP = f.armP := rfl
@[simp] theorem Fab.store_elems (f : Fab) (a : Nat) (bs : List Byte) : (f.store a bs).elems = f.elems := rfl
@[simp] theorem Fab.store_runs (f : Fab) (a : Nat) (bs : List Byte) : (f.store a bs).runs = f.runs := rfl
@[simp] theorem Fab.store_images (f : Fab) (a : Nat) (bs : List Byte) : (f.store a bs).images = f.images := rfl
@[simp] theorem Fab.store_tags (f : Fab) (a : Nat) (bs : List Byte) : (f.store a bs).tags = f.tags := rfl
@[simp] theorem Fab.store_evq (f : Fab) (a : Nat) (bs : List Byte) : (f.store a bs).evq = f.evq := rfl
@[simp] theorem Fab.store_chans (f : Fab) (a : Nat) (bs : List Byte) : (f.store a bs).chans = f.chans := rfl
@[simp] theorem Fab.store_pom (f : Fab) (a : Nat) (bs : List Byte) : (f.store a bs).pom = f.pom := rfl
@[simp] theorem Fab.store_blocks (f : Fab) (a : Nat) (bs : List Byte) : (f.store a bs).blocks = f.blocks := rfl
@[simp] theorem Fab.store_ingress (f : Fab) (a : Nat) (bs : List Byte) : (f.store a bs).ingress = f.ingress := rfl
@[simp] theorem Fab.store_host (f : Fab) (a : Nat) (bs : List Byte) : (f.store a bs).host = f.host := rfl
@[simp] theorem Fab.store_beryl (f : Fab) (a : Nat) (bs : List Byte) : (f.store a bs).beryl = f.beryl := rfl
@[simp] theorem Fab.store_parts (f : Fab) (a : Nat) (bs : List Byte) : (f.store a bs).parts = f.parts := rfl
@[simp] theorem Fab.store_pmode (f : Fab) (a : Nat) (bs : List Byte) : (f.store a bs).pmode = f.pmode := rfl
@[simp] theorem Fab.store_sysRoot (f : Fab) (a : Nat) (bs : List Byte) : (f.store a bs).sysRoot = f.sysRoot := rfl
@[simp] theorem Fab.store_sysFrames (f : Fab) (a : Nat) (bs : List Byte) : (f.store a bs).sysFrames = f.sysFrames := rfl
@[simp] theorem Fab.store_tlb (f : Fab) (a : Nat) (bs : List Byte) : (f.store a bs).tlb = f.tlb := rfl
@[simp] theorem Fab.store_migs (f : Fab) (a : Nat) (bs : List Byte) : (f.store a bs).migs = f.migs := rfl
@[simp] theorem Fab.store_corr (f : Fab) (a : Nat) (bs : List Byte) : (f.store a bs).corr = f.corr := rfl
@[simp] theorem Fab.store_cinches (f : Fab) (a : Nat) (bs : List Byte) : (f.store a bs).cinches = f.cinches := rfl
@[simp] theorem Fab.store_colls (f : Fab) (a : Nat) (bs : List Byte) : (f.store a bs).colls = f.colls := rfl
@[simp] theorem Fab.store_tapes (f : Fab) (a : Nat) (bs : List Byte) : (f.store a bs).tapes = f.tapes := rfl
@[simp] theorem Fab.store_dieRes (f : Fab) (a : Nat) (bs : List Byte) : (f.store a bs).dieRes = f.dieRes := rfl
@[simp] theorem Fab.store_tables (f : Fab) (a : Nat) (bs : List Byte) : (f.store a bs).tables = f.tables := rfl
@[simp] theorem Fab.store_ents (f : Fab) (a : Nat) (bs : List Byte) : (f.store a bs).ents = f.ents := rfl
@[simp] theorem Fab.store_insts (f : Fab) (a : Nat) (bs : List Byte) : (f.store a bs).insts = f.insts := rfl
@[simp] theorem Fab.store_ops (f : Fab) (a : Nat) (bs : List Byte) : (f.store a bs).ops = f.ops := rfl
@[simp] theorem Fab.store_dies (f : Fab) (a : Nat) (bs : List Byte) : (f.store a bs).dies = f.dies := rfl
@[simp] theorem Fab.store_spares (f : Fab) (a : Nat) (bs : List Byte) : (f.store a bs).spares = f.spares := rfl
@[simp] theorem Fab.store_keepers (f : Fab) (a : Nat) (bs : List Byte) : (f.store a bs).keepers = f.keepers := rfl
@[simp] theorem Fab.store_keepq (f : Fab) (a : Nat) (bs : List Byte) : (f.store a bs).keepq = f.keepq := rfl
@[simp] theorem Fab.store_seq (f : Fab) (a : Nat) (bs : List Byte) : (f.store a bs).seq = f.seq := rfl
@[simp] theorem Fab.store_free (f : Fab) (a : Nat) (bs : List Byte) : (f.store a bs).free = f.free := rfl
@[simp] theorem Fab.store_big (f : Fab) (a : Nat) (bs : List Byte) : (f.store a bs).big = f.big := rfl

/-! ### Fab.setSram -/

@[simp] theorem Fab.setSram_clock (f : Fab) (a : Nat) (bs : List Byte) : (f.setSram a bs).clock = f.clock := rfl
@[simp] theorem Fab.setSram_cur (f : Fab) (a : Nat) (bs : List Byte) : (f.setSram a bs).cur = f.cur := rfl
@[simp] theorem Fab.setSram_armP (f : Fab) (a : Nat) (bs : List Byte) : (f.setSram a bs).armP = f.armP := rfl
@[simp] theorem Fab.setSram_elems (f : Fab) (a : Nat) (bs : List Byte) : (f.setSram a bs).elems = f.elems := rfl
@[simp] theorem Fab.setSram_runs (f : Fab) (a : Nat) (bs : List Byte) : (f.setSram a bs).runs = f.runs := rfl
@[simp] theorem Fab.setSram_images (f : Fab) (a : Nat) (bs : List Byte) : (f.setSram a bs).images = f.images := rfl
@[simp] theorem Fab.setSram_tags (f : Fab) (a : Nat) (bs : List Byte) : (f.setSram a bs).tags = f.tags := rfl
@[simp] theorem Fab.setSram_evq (f : Fab) (a : Nat) (bs : List Byte) : (f.setSram a bs).evq = f.evq := rfl
@[simp] theorem Fab.setSram_chans (f : Fab) (a : Nat) (bs : List Byte) : (f.setSram a bs).chans = f.chans := rfl
@[simp] theorem Fab.setSram_pom (f : Fab) (a : Nat) (bs : List Byte) : (f.setSram a bs).pom = f.pom := rfl
@[simp] theorem Fab.setSram_blocks (f : Fab) (a : Nat) (bs : List Byte) : (f.setSram a bs).blocks = f.blocks := rfl
@[simp] theorem Fab.setSram_ingress (f : Fab) (a : Nat) (bs : List Byte) : (f.setSram a bs).ingress = f.ingress := rfl
@[simp] theorem Fab.setSram_host (f : Fab) (a : Nat) (bs : List Byte) : (f.setSram a bs).host = f.host := rfl
@[simp] theorem Fab.setSram_beryl (f : Fab) (a : Nat) (bs : List Byte) : (f.setSram a bs).beryl = f.beryl := rfl
@[simp] theorem Fab.setSram_parts (f : Fab) (a : Nat) (bs : List Byte) : (f.setSram a bs).parts = f.parts := rfl
@[simp] theorem Fab.setSram_pmode (f : Fab) (a : Nat) (bs : List Byte) : (f.setSram a bs).pmode = f.pmode := rfl
@[simp] theorem Fab.setSram_sysRoot (f : Fab) (a : Nat) (bs : List Byte) : (f.setSram a bs).sysRoot = f.sysRoot := rfl
@[simp] theorem Fab.setSram_sysFrames (f : Fab) (a : Nat) (bs : List Byte) : (f.setSram a bs).sysFrames = f.sysFrames := rfl
@[simp] theorem Fab.setSram_tlb (f : Fab) (a : Nat) (bs : List Byte) : (f.setSram a bs).tlb = f.tlb := rfl
@[simp] theorem Fab.setSram_migs (f : Fab) (a : Nat) (bs : List Byte) : (f.setSram a bs).migs = f.migs := rfl
@[simp] theorem Fab.setSram_corr (f : Fab) (a : Nat) (bs : List Byte) : (f.setSram a bs).corr = f.corr := rfl
@[simp] theorem Fab.setSram_cinches (f : Fab) (a : Nat) (bs : List Byte) : (f.setSram a bs).cinches = f.cinches := rfl
@[simp] theorem Fab.setSram_colls (f : Fab) (a : Nat) (bs : List Byte) : (f.setSram a bs).colls = f.colls := rfl
@[simp] theorem Fab.setSram_tapes (f : Fab) (a : Nat) (bs : List Byte) : (f.setSram a bs).tapes = f.tapes := rfl
@[simp] theorem Fab.setSram_dieRes (f : Fab) (a : Nat) (bs : List Byte) : (f.setSram a bs).dieRes = f.dieRes := rfl
@[simp] theorem Fab.setSram_tables (f : Fab) (a : Nat) (bs : List Byte) : (f.setSram a bs).tables = f.tables := rfl
@[simp] theorem Fab.setSram_ents (f : Fab) (a : Nat) (bs : List Byte) : (f.setSram a bs).ents = f.ents := rfl
@[simp] theorem Fab.setSram_insts (f : Fab) (a : Nat) (bs : List Byte) : (f.setSram a bs).insts = f.insts := rfl
@[simp] theorem Fab.setSram_ops (f : Fab) (a : Nat) (bs : List Byte) : (f.setSram a bs).ops = f.ops := rfl
@[simp] theorem Fab.setSram_dies (f : Fab) (a : Nat) (bs : List Byte) : (f.setSram a bs).dies = f.dies := rfl
@[simp] theorem Fab.setSram_spares (f : Fab) (a : Nat) (bs : List Byte) : (f.setSram a bs).spares = f.spares := rfl
@[simp] theorem Fab.setSram_keepers (f : Fab) (a : Nat) (bs : List Byte) : (f.setSram a bs).keepers = f.keepers := rfl
@[simp] theorem Fab.setSram_keepq (f : Fab) (a : Nat) (bs : List Byte) : (f.setSram a bs).keepq = f.keepq := rfl
@[simp] theorem Fab.setSram_seq (f : Fab) (a : Nat) (bs : List Byte) : (f.setSram a bs).seq = f.seq := rfl
@[simp] theorem Fab.setSram_free (f : Fab) (a : Nat) (bs : List Byte) : (f.setSram a bs).free = f.free := rfl
@[simp] theorem Fab.setSram_big (f : Fab) (a : Nat) (bs : List Byte) : (f.setSram a bs).big = f.big := rfl

/-! ### Fab.setTag -/

@[simp] theorem Fab.setTag_clock (f : Fab) (a t : Nat) : (f.setTag a t).clock = f.clock := rfl
@[simp] theorem Fab.setTag_cur (f : Fab) (a t : Nat) : (f.setTag a t).cur = f.cur := rfl
@[simp] theorem Fab.setTag_armP (f : Fab) (a t : Nat) : (f.setTag a t).armP = f.armP := rfl
@[simp] theorem Fab.setTag_elems (f : Fab) (a t : Nat) : (f.setTag a t).elems = f.elems := rfl
@[simp] theorem Fab.setTag_runs (f : Fab) (a t : Nat) : (f.setTag a t).runs = f.runs := rfl
@[simp] theorem Fab.setTag_images (f : Fab) (a t : Nat) : (f.setTag a t).images = f.images := rfl
@[simp] theorem Fab.setTag_mem (f : Fab) (a t : Nat) : (f.setTag a t).mem = f.mem := rfl
@[simp] theorem Fab.setTag_evq (f : Fab) (a t : Nat) : (f.setTag a t).evq = f.evq := rfl
@[simp] theorem Fab.setTag_chans (f : Fab) (a t : Nat) : (f.setTag a t).chans = f.chans := rfl
@[simp] theorem Fab.setTag_pom (f : Fab) (a t : Nat) : (f.setTag a t).pom = f.pom := rfl
@[simp] theorem Fab.setTag_blocks (f : Fab) (a t : Nat) : (f.setTag a t).blocks = f.blocks := rfl
@[simp] theorem Fab.setTag_ingress (f : Fab) (a t : Nat) : (f.setTag a t).ingress = f.ingress := rfl
@[simp] theorem Fab.setTag_host (f : Fab) (a t : Nat) : (f.setTag a t).host = f.host := rfl
@[simp] theorem Fab.setTag_beryl (f : Fab) (a t : Nat) : (f.setTag a t).beryl = f.beryl := rfl
@[simp] theorem Fab.setTag_parts (f : Fab) (a t : Nat) : (f.setTag a t).parts = f.parts := rfl
@[simp] theorem Fab.setTag_pmode (f : Fab) (a t : Nat) : (f.setTag a t).pmode = f.pmode := rfl
@[simp] theorem Fab.setTag_sysRoot (f : Fab) (a t : Nat) : (f.setTag a t).sysRoot = f.sysRoot := rfl
@[simp] theorem Fab.setTag_sysFrames (f : Fab) (a t : Nat) : (f.setTag a t).sysFrames = f.sysFrames := rfl
@[simp] theorem Fab.setTag_tlb (f : Fab) (a t : Nat) : (f.setTag a t).tlb = f.tlb := rfl
@[simp] theorem Fab.setTag_migs (f : Fab) (a t : Nat) : (f.setTag a t).migs = f.migs := rfl
@[simp] theorem Fab.setTag_corr (f : Fab) (a t : Nat) : (f.setTag a t).corr = f.corr := rfl
@[simp] theorem Fab.setTag_cinches (f : Fab) (a t : Nat) : (f.setTag a t).cinches = f.cinches := rfl
@[simp] theorem Fab.setTag_colls (f : Fab) (a t : Nat) : (f.setTag a t).colls = f.colls := rfl
@[simp] theorem Fab.setTag_tapes (f : Fab) (a t : Nat) : (f.setTag a t).tapes = f.tapes := rfl
@[simp] theorem Fab.setTag_dieRes (f : Fab) (a t : Nat) : (f.setTag a t).dieRes = f.dieRes := rfl
@[simp] theorem Fab.setTag_tables (f : Fab) (a t : Nat) : (f.setTag a t).tables = f.tables := rfl
@[simp] theorem Fab.setTag_ents (f : Fab) (a t : Nat) : (f.setTag a t).ents = f.ents := rfl
@[simp] theorem Fab.setTag_insts (f : Fab) (a t : Nat) : (f.setTag a t).insts = f.insts := rfl
@[simp] theorem Fab.setTag_ops (f : Fab) (a t : Nat) : (f.setTag a t).ops = f.ops := rfl
@[simp] theorem Fab.setTag_dies (f : Fab) (a t : Nat) : (f.setTag a t).dies = f.dies := rfl
@[simp] theorem Fab.setTag_spares (f : Fab) (a t : Nat) : (f.setTag a t).spares = f.spares := rfl
@[simp] theorem Fab.setTag_keepers (f : Fab) (a t : Nat) : (f.setTag a t).keepers = f.keepers := rfl
@[simp] theorem Fab.setTag_keepq (f : Fab) (a t : Nat) : (f.setTag a t).keepq = f.keepq := rfl
@[simp] theorem Fab.setTag_seq (f : Fab) (a t : Nat) : (f.setTag a t).seq = f.seq := rfl
@[simp] theorem Fab.setTag_free (f : Fab) (a t : Nat) : (f.setTag a t).free = f.free := rfl
@[simp] theorem Fab.setTag_big (f : Fab) (a t : Nat) : (f.setTag a t).big = f.big := rfl

/-! ### Fab.setFull -/

@[simp] theorem Fab.setFull_clock (f : Fab) (a : Nat) (b : Bool) : (f.setFull a b).clock = f.clock := rfl
@[simp] theorem Fab.setFull_cur (f : Fab) (a : Nat) (b : Bool) : (f.setFull a b).cur = f.cur := rfl
@[simp] theorem Fab.setFull_armP (f : Fab) (a : Nat) (b : Bool) : (f.setFull a b).armP = f.armP := rfl
@[simp] theorem Fab.setFull_elems (f : Fab) (a : Nat) (b : Bool) : (f.setFull a b).elems = f.elems := rfl
@[simp] theorem Fab.setFull_runs (f : Fab) (a : Nat) (b : Bool) : (f.setFull a b).runs = f.runs := rfl
@[simp] theorem Fab.setFull_images (f : Fab) (a : Nat) (b : Bool) : (f.setFull a b).images = f.images := rfl
@[simp] theorem Fab.setFull_mem (f : Fab) (a : Nat) (b : Bool) : (f.setFull a b).mem = f.mem := rfl
@[simp] theorem Fab.setFull_evq (f : Fab) (a : Nat) (b : Bool) : (f.setFull a b).evq = f.evq := rfl
@[simp] theorem Fab.setFull_chans (f : Fab) (a : Nat) (b : Bool) : (f.setFull a b).chans = f.chans := rfl
@[simp] theorem Fab.setFull_pom (f : Fab) (a : Nat) (b : Bool) : (f.setFull a b).pom = f.pom := rfl
@[simp] theorem Fab.setFull_blocks (f : Fab) (a : Nat) (b : Bool) : (f.setFull a b).blocks = f.blocks := rfl
@[simp] theorem Fab.setFull_ingress (f : Fab) (a : Nat) (b : Bool) : (f.setFull a b).ingress = f.ingress := rfl
@[simp] theorem Fab.setFull_host (f : Fab) (a : Nat) (b : Bool) : (f.setFull a b).host = f.host := rfl
@[simp] theorem Fab.setFull_beryl (f : Fab) (a : Nat) (b : Bool) : (f.setFull a b).beryl = f.beryl := rfl
@[simp] theorem Fab.setFull_parts (f : Fab) (a : Nat) (b : Bool) : (f.setFull a b).parts = f.parts := rfl
@[simp] theorem Fab.setFull_pmode (f : Fab) (a : Nat) (b : Bool) : (f.setFull a b).pmode = f.pmode := rfl
@[simp] theorem Fab.setFull_sysRoot (f : Fab) (a : Nat) (b : Bool) : (f.setFull a b).sysRoot = f.sysRoot := rfl
@[simp] theorem Fab.setFull_sysFrames (f : Fab) (a : Nat) (b : Bool) : (f.setFull a b).sysFrames = f.sysFrames := rfl
@[simp] theorem Fab.setFull_tlb (f : Fab) (a : Nat) (b : Bool) : (f.setFull a b).tlb = f.tlb := rfl
@[simp] theorem Fab.setFull_migs (f : Fab) (a : Nat) (b : Bool) : (f.setFull a b).migs = f.migs := rfl
@[simp] theorem Fab.setFull_corr (f : Fab) (a : Nat) (b : Bool) : (f.setFull a b).corr = f.corr := rfl
@[simp] theorem Fab.setFull_cinches (f : Fab) (a : Nat) (b : Bool) : (f.setFull a b).cinches = f.cinches := rfl
@[simp] theorem Fab.setFull_colls (f : Fab) (a : Nat) (b : Bool) : (f.setFull a b).colls = f.colls := rfl
@[simp] theorem Fab.setFull_tapes (f : Fab) (a : Nat) (b : Bool) : (f.setFull a b).tapes = f.tapes := rfl
@[simp] theorem Fab.setFull_dieRes (f : Fab) (a : Nat) (b : Bool) : (f.setFull a b).dieRes = f.dieRes := rfl
@[simp] theorem Fab.setFull_tables (f : Fab) (a : Nat) (b : Bool) : (f.setFull a b).tables = f.tables := rfl
@[simp] theorem Fab.setFull_ents (f : Fab) (a : Nat) (b : Bool) : (f.setFull a b).ents = f.ents := rfl
@[simp] theorem Fab.setFull_insts (f : Fab) (a : Nat) (b : Bool) : (f.setFull a b).insts = f.insts := rfl
@[simp] theorem Fab.setFull_ops (f : Fab) (a : Nat) (b : Bool) : (f.setFull a b).ops = f.ops := rfl
@[simp] theorem Fab.setFull_dies (f : Fab) (a : Nat) (b : Bool) : (f.setFull a b).dies = f.dies := rfl
@[simp] theorem Fab.setFull_spares (f : Fab) (a : Nat) (b : Bool) : (f.setFull a b).spares = f.spares := rfl
@[simp] theorem Fab.setFull_keepers (f : Fab) (a : Nat) (b : Bool) : (f.setFull a b).keepers = f.keepers := rfl
@[simp] theorem Fab.setFull_keepq (f : Fab) (a : Nat) (b : Bool) : (f.setFull a b).keepq = f.keepq := rfl
@[simp] theorem Fab.setFull_seq (f : Fab) (a : Nat) (b : Bool) : (f.setFull a b).seq = f.seq := rfl
@[simp] theorem Fab.setFull_free (f : Fab) (a : Nat) (b : Bool) : (f.setFull a b).free = f.free := rfl
@[simp] theorem Fab.setFull_big (f : Fab) (a : Nat) (b : Bool) : (f.setFull a b).big = f.big := rfl

/-! ### Fab.setPoison -/

@[simp] theorem Fab.setPoison_clock (f : Fab) (a : Nat) (b : Bool) : (f.setPoison a b).clock = f.clock := rfl
@[simp] theorem Fab.setPoison_cur (f : Fab) (a : Nat) (b : Bool) : (f.setPoison a b).cur = f.cur := rfl
@[simp] theorem Fab.setPoison_armP (f : Fab) (a : Nat) (b : Bool) : (f.setPoison a b).armP = f.armP := rfl
@[simp] theorem Fab.setPoison_elems (f : Fab) (a : Nat) (b : Bool) : (f.setPoison a b).elems = f.elems := rfl
@[simp] theorem Fab.setPoison_runs (f : Fab) (a : Nat) (b : Bool) : (f.setPoison a b).runs = f.runs := rfl
@[simp] theorem Fab.setPoison_images (f : Fab) (a : Nat) (b : Bool) : (f.setPoison a b).images = f.images := rfl
@[simp] theorem Fab.setPoison_mem (f : Fab) (a : Nat) (b : Bool) : (f.setPoison a b).mem = f.mem := rfl
@[simp] theorem Fab.setPoison_evq (f : Fab) (a : Nat) (b : Bool) : (f.setPoison a b).evq = f.evq := rfl
@[simp] theorem Fab.setPoison_chans (f : Fab) (a : Nat) (b : Bool) : (f.setPoison a b).chans = f.chans := rfl
@[simp] theorem Fab.setPoison_pom (f : Fab) (a : Nat) (b : Bool) : (f.setPoison a b).pom = f.pom := rfl
@[simp] theorem Fab.setPoison_blocks (f : Fab) (a : Nat) (b : Bool) : (f.setPoison a b).blocks = f.blocks := rfl
@[simp] theorem Fab.setPoison_ingress (f : Fab) (a : Nat) (b : Bool) : (f.setPoison a b).ingress = f.ingress := rfl
@[simp] theorem Fab.setPoison_host (f : Fab) (a : Nat) (b : Bool) : (f.setPoison a b).host = f.host := rfl
@[simp] theorem Fab.setPoison_beryl (f : Fab) (a : Nat) (b : Bool) : (f.setPoison a b).beryl = f.beryl := rfl
@[simp] theorem Fab.setPoison_parts (f : Fab) (a : Nat) (b : Bool) : (f.setPoison a b).parts = f.parts := rfl
@[simp] theorem Fab.setPoison_pmode (f : Fab) (a : Nat) (b : Bool) : (f.setPoison a b).pmode = f.pmode := rfl
@[simp] theorem Fab.setPoison_sysRoot (f : Fab) (a : Nat) (b : Bool) : (f.setPoison a b).sysRoot = f.sysRoot := rfl
@[simp] theorem Fab.setPoison_sysFrames (f : Fab) (a : Nat) (b : Bool) : (f.setPoison a b).sysFrames = f.sysFrames := rfl
@[simp] theorem Fab.setPoison_tlb (f : Fab) (a : Nat) (b : Bool) : (f.setPoison a b).tlb = f.tlb := rfl
@[simp] theorem Fab.setPoison_migs (f : Fab) (a : Nat) (b : Bool) : (f.setPoison a b).migs = f.migs := rfl
@[simp] theorem Fab.setPoison_corr (f : Fab) (a : Nat) (b : Bool) : (f.setPoison a b).corr = f.corr := rfl
@[simp] theorem Fab.setPoison_cinches (f : Fab) (a : Nat) (b : Bool) : (f.setPoison a b).cinches = f.cinches := rfl
@[simp] theorem Fab.setPoison_colls (f : Fab) (a : Nat) (b : Bool) : (f.setPoison a b).colls = f.colls := rfl
@[simp] theorem Fab.setPoison_tapes (f : Fab) (a : Nat) (b : Bool) : (f.setPoison a b).tapes = f.tapes := rfl
@[simp] theorem Fab.setPoison_dieRes (f : Fab) (a : Nat) (b : Bool) : (f.setPoison a b).dieRes = f.dieRes := rfl
@[simp] theorem Fab.setPoison_tables (f : Fab) (a : Nat) (b : Bool) : (f.setPoison a b).tables = f.tables := rfl
@[simp] theorem Fab.setPoison_ents (f : Fab) (a : Nat) (b : Bool) : (f.setPoison a b).ents = f.ents := rfl
@[simp] theorem Fab.setPoison_insts (f : Fab) (a : Nat) (b : Bool) : (f.setPoison a b).insts = f.insts := rfl
@[simp] theorem Fab.setPoison_ops (f : Fab) (a : Nat) (b : Bool) : (f.setPoison a b).ops = f.ops := rfl
@[simp] theorem Fab.setPoison_dies (f : Fab) (a : Nat) (b : Bool) : (f.setPoison a b).dies = f.dies := rfl
@[simp] theorem Fab.setPoison_spares (f : Fab) (a : Nat) (b : Bool) : (f.setPoison a b).spares = f.spares := rfl
@[simp] theorem Fab.setPoison_keepers (f : Fab) (a : Nat) (b : Bool) : (f.setPoison a b).keepers = f.keepers := rfl
@[simp] theorem Fab.setPoison_keepq (f : Fab) (a : Nat) (b : Bool) : (f.setPoison a b).keepq = f.keepq := rfl
@[simp] theorem Fab.setPoison_seq (f : Fab) (a : Nat) (b : Bool) : (f.setPoison a b).seq = f.seq := rfl
@[simp] theorem Fab.setPoison_free (f : Fab) (a : Nat) (b : Bool) : (f.setPoison a b).free = f.free := rfl
@[simp] theorem Fab.setPoison_big (f : Fab) (a : Nat) (b : Bool) : (f.setPoison a b).big = f.big := rfl

/-! ### Fab.at -/

@[simp] theorem Fab.at_clock (f : Fab) (t ph : Nat) (i : Instr) : (f.at t ph i).clock = f.clock := rfl
@[simp] theorem Fab.at_cur (f : Fab) (t ph : Nat) (i : Instr) : (f.at t ph i).cur = f.cur := rfl
@[simp] theorem Fab.at_armP (f : Fab) (t ph : Nat) (i : Instr) : (f.at t ph i).armP = f.armP := rfl
@[simp] theorem Fab.at_elems (f : Fab) (t ph : Nat) (i : Instr) : (f.at t ph i).elems = f.elems := rfl
@[simp] theorem Fab.at_runs (f : Fab) (t ph : Nat) (i : Instr) : (f.at t ph i).runs = f.runs := rfl
@[simp] theorem Fab.at_images (f : Fab) (t ph : Nat) (i : Instr) : (f.at t ph i).images = f.images := rfl
@[simp] theorem Fab.at_mem (f : Fab) (t ph : Nat) (i : Instr) : (f.at t ph i).mem = f.mem := rfl
@[simp] theorem Fab.at_tags (f : Fab) (t ph : Nat) (i : Instr) : (f.at t ph i).tags = f.tags := rfl
@[simp] theorem Fab.at_chans (f : Fab) (t ph : Nat) (i : Instr) : (f.at t ph i).chans = f.chans := rfl
@[simp] theorem Fab.at_pom (f : Fab) (t ph : Nat) (i : Instr) : (f.at t ph i).pom = f.pom := rfl
@[simp] theorem Fab.at_blocks (f : Fab) (t ph : Nat) (i : Instr) : (f.at t ph i).blocks = f.blocks := rfl
@[simp] theorem Fab.at_ingress (f : Fab) (t ph : Nat) (i : Instr) : (f.at t ph i).ingress = f.ingress := rfl
@[simp] theorem Fab.at_host (f : Fab) (t ph : Nat) (i : Instr) : (f.at t ph i).host = f.host := rfl
@[simp] theorem Fab.at_beryl (f : Fab) (t ph : Nat) (i : Instr) : (f.at t ph i).beryl = f.beryl := rfl
@[simp] theorem Fab.at_parts (f : Fab) (t ph : Nat) (i : Instr) : (f.at t ph i).parts = f.parts := rfl
@[simp] theorem Fab.at_pmode (f : Fab) (t ph : Nat) (i : Instr) : (f.at t ph i).pmode = f.pmode := rfl
@[simp] theorem Fab.at_sysRoot (f : Fab) (t ph : Nat) (i : Instr) : (f.at t ph i).sysRoot = f.sysRoot := rfl
@[simp] theorem Fab.at_sysFrames (f : Fab) (t ph : Nat) (i : Instr) : (f.at t ph i).sysFrames = f.sysFrames := rfl
@[simp] theorem Fab.at_tlb (f : Fab) (t ph : Nat) (i : Instr) : (f.at t ph i).tlb = f.tlb := rfl
@[simp] theorem Fab.at_migs (f : Fab) (t ph : Nat) (i : Instr) : (f.at t ph i).migs = f.migs := rfl
@[simp] theorem Fab.at_corr (f : Fab) (t ph : Nat) (i : Instr) : (f.at t ph i).corr = f.corr := rfl
@[simp] theorem Fab.at_cinches (f : Fab) (t ph : Nat) (i : Instr) : (f.at t ph i).cinches = f.cinches := rfl
@[simp] theorem Fab.at_colls (f : Fab) (t ph : Nat) (i : Instr) : (f.at t ph i).colls = f.colls := rfl
@[simp] theorem Fab.at_tapes (f : Fab) (t ph : Nat) (i : Instr) : (f.at t ph i).tapes = f.tapes := rfl
@[simp] theorem Fab.at_dieRes (f : Fab) (t ph : Nat) (i : Instr) : (f.at t ph i).dieRes = f.dieRes := rfl
@[simp] theorem Fab.at_tables (f : Fab) (t ph : Nat) (i : Instr) : (f.at t ph i).tables = f.tables := rfl
@[simp] theorem Fab.at_ents (f : Fab) (t ph : Nat) (i : Instr) : (f.at t ph i).ents = f.ents := rfl
@[simp] theorem Fab.at_insts (f : Fab) (t ph : Nat) (i : Instr) : (f.at t ph i).insts = f.insts := rfl
@[simp] theorem Fab.at_ops (f : Fab) (t ph : Nat) (i : Instr) : (f.at t ph i).ops = f.ops := rfl
@[simp] theorem Fab.at_dies (f : Fab) (t ph : Nat) (i : Instr) : (f.at t ph i).dies = f.dies := rfl
@[simp] theorem Fab.at_spares (f : Fab) (t ph : Nat) (i : Instr) : (f.at t ph i).spares = f.spares := rfl
@[simp] theorem Fab.at_keepers (f : Fab) (t ph : Nat) (i : Instr) : (f.at t ph i).keepers = f.keepers := rfl
@[simp] theorem Fab.at_keepq (f : Fab) (t ph : Nat) (i : Instr) : (f.at t ph i).keepq = f.keepq := rfl
@[simp] theorem Fab.at_seq (f : Fab) (t ph : Nat) (i : Instr) : (f.at t ph i).seq = f.seq := rfl
@[simp] theorem Fab.at_free (f : Fab) (t ph : Nat) (i : Instr) : (f.at t ph i).free = f.free := rfl
@[simp] theorem Fab.at_big (f : Fab) (t ph : Nat) (i : Instr) : (f.at t ph i).big = f.big := rfl

/-! ### Fab.modRun -/

@[simp] theorem Fab.modRun_clock (f : Fab) (r : Nat) (g : Run → Run) : (f.modRun r g).clock = f.clock := rfl
@[simp] theorem Fab.modRun_cur (f : Fab) (r : Nat) (g : Run → Run) : (f.modRun r g).cur = f.cur := rfl
@[simp] theorem Fab.modRun_armP (f : Fab) (r : Nat) (g : Run → Run) : (f.modRun r g).armP = f.armP := rfl
@[simp] theorem Fab.modRun_elems (f : Fab) (r : Nat) (g : Run → Run) : (f.modRun r g).elems = f.elems := rfl
@[simp] theorem Fab.modRun_images (f : Fab) (r : Nat) (g : Run → Run) : (f.modRun r g).images = f.images := rfl
@[simp] theorem Fab.modRun_mem (f : Fab) (r : Nat) (g : Run → Run) : (f.modRun r g).mem = f.mem := rfl
@[simp] theorem Fab.modRun_tags (f : Fab) (r : Nat) (g : Run → Run) : (f.modRun r g).tags = f.tags := rfl
@[simp] theorem Fab.modRun_evq (f : Fab) (r : Nat) (g : Run → Run) : (f.modRun r g).evq = f.evq := rfl
@[simp] theorem Fab.modRun_chans (f : Fab) (r : Nat) (g : Run → Run) : (f.modRun r g).chans = f.chans := rfl
@[simp] theorem Fab.modRun_pom (f : Fab) (r : Nat) (g : Run → Run) : (f.modRun r g).pom = f.pom := rfl
@[simp] theorem Fab.modRun_blocks (f : Fab) (r : Nat) (g : Run → Run) : (f.modRun r g).blocks = f.blocks := rfl
@[simp] theorem Fab.modRun_ingress (f : Fab) (r : Nat) (g : Run → Run) : (f.modRun r g).ingress = f.ingress := rfl
@[simp] theorem Fab.modRun_host (f : Fab) (r : Nat) (g : Run → Run) : (f.modRun r g).host = f.host := rfl
@[simp] theorem Fab.modRun_beryl (f : Fab) (r : Nat) (g : Run → Run) : (f.modRun r g).beryl = f.beryl := rfl
@[simp] theorem Fab.modRun_parts (f : Fab) (r : Nat) (g : Run → Run) : (f.modRun r g).parts = f.parts := rfl
@[simp] theorem Fab.modRun_pmode (f : Fab) (r : Nat) (g : Run → Run) : (f.modRun r g).pmode = f.pmode := rfl
@[simp] theorem Fab.modRun_sysRoot (f : Fab) (r : Nat) (g : Run → Run) : (f.modRun r g).sysRoot = f.sysRoot := rfl
@[simp] theorem Fab.modRun_sysFrames (f : Fab) (r : Nat) (g : Run → Run) : (f.modRun r g).sysFrames = f.sysFrames := rfl
@[simp] theorem Fab.modRun_tlb (f : Fab) (r : Nat) (g : Run → Run) : (f.modRun r g).tlb = f.tlb := rfl
@[simp] theorem Fab.modRun_migs (f : Fab) (r : Nat) (g : Run → Run) : (f.modRun r g).migs = f.migs := rfl
@[simp] theorem Fab.modRun_corr (f : Fab) (r : Nat) (g : Run → Run) : (f.modRun r g).corr = f.corr := rfl
@[simp] theorem Fab.modRun_cinches (f : Fab) (r : Nat) (g : Run → Run) : (f.modRun r g).cinches = f.cinches := rfl
@[simp] theorem Fab.modRun_colls (f : Fab) (r : Nat) (g : Run → Run) : (f.modRun r g).colls = f.colls := rfl
@[simp] theorem Fab.modRun_tapes (f : Fab) (r : Nat) (g : Run → Run) : (f.modRun r g).tapes = f.tapes := rfl
@[simp] theorem Fab.modRun_dieRes (f : Fab) (r : Nat) (g : Run → Run) : (f.modRun r g).dieRes = f.dieRes := rfl
@[simp] theorem Fab.modRun_tables (f : Fab) (r : Nat) (g : Run → Run) : (f.modRun r g).tables = f.tables := rfl
@[simp] theorem Fab.modRun_ents (f : Fab) (r : Nat) (g : Run → Run) : (f.modRun r g).ents = f.ents := rfl
@[simp] theorem Fab.modRun_insts (f : Fab) (r : Nat) (g : Run → Run) : (f.modRun r g).insts = f.insts := rfl
@[simp] theorem Fab.modRun_ops (f : Fab) (r : Nat) (g : Run → Run) : (f.modRun r g).ops = f.ops := rfl
@[simp] theorem Fab.modRun_dies (f : Fab) (r : Nat) (g : Run → Run) : (f.modRun r g).dies = f.dies := rfl
@[simp] theorem Fab.modRun_spares (f : Fab) (r : Nat) (g : Run → Run) : (f.modRun r g).spares = f.spares := rfl
@[simp] theorem Fab.modRun_keepers (f : Fab) (r : Nat) (g : Run → Run) : (f.modRun r g).keepers = f.keepers := rfl
@[simp] theorem Fab.modRun_keepq (f : Fab) (r : Nat) (g : Run → Run) : (f.modRun r g).keepq = f.keepq := rfl
@[simp] theorem Fab.modRun_seq (f : Fab) (r : Nat) (g : Run → Run) : (f.modRun r g).seq = f.seq := rfl
@[simp] theorem Fab.modRun_free (f : Fab) (r : Nat) (g : Run → Run) : (f.modRun r g).free = f.free := rfl
@[simp] theorem Fab.modRun_big (f : Fab) (r : Nat) (g : Run → Run) : (f.modRun r g).big = f.big := rfl

/-! ### Fab.modChan -/

@[simp] theorem Fab.modChan_clock (f : Fab) (ch : Nat) (g : Chan → Chan) : (f.modChan ch g).clock = f.clock := rfl
@[simp] theorem Fab.modChan_cur (f : Fab) (ch : Nat) (g : Chan → Chan) : (f.modChan ch g).cur = f.cur := rfl
@[simp] theorem Fab.modChan_armP (f : Fab) (ch : Nat) (g : Chan → Chan) : (f.modChan ch g).armP = f.armP := rfl
@[simp] theorem Fab.modChan_elems (f : Fab) (ch : Nat) (g : Chan → Chan) : (f.modChan ch g).elems = f.elems := rfl
@[simp] theorem Fab.modChan_runs (f : Fab) (ch : Nat) (g : Chan → Chan) : (f.modChan ch g).runs = f.runs := rfl
@[simp] theorem Fab.modChan_images (f : Fab) (ch : Nat) (g : Chan → Chan) : (f.modChan ch g).images = f.images := rfl
@[simp] theorem Fab.modChan_mem (f : Fab) (ch : Nat) (g : Chan → Chan) : (f.modChan ch g).mem = f.mem := rfl
@[simp] theorem Fab.modChan_tags (f : Fab) (ch : Nat) (g : Chan → Chan) : (f.modChan ch g).tags = f.tags := rfl
@[simp] theorem Fab.modChan_evq (f : Fab) (ch : Nat) (g : Chan → Chan) : (f.modChan ch g).evq = f.evq := rfl
@[simp] theorem Fab.modChan_pom (f : Fab) (ch : Nat) (g : Chan → Chan) : (f.modChan ch g).pom = f.pom := rfl
@[simp] theorem Fab.modChan_blocks (f : Fab) (ch : Nat) (g : Chan → Chan) : (f.modChan ch g).blocks = f.blocks := rfl
@[simp] theorem Fab.modChan_ingress (f : Fab) (ch : Nat) (g : Chan → Chan) : (f.modChan ch g).ingress = f.ingress := rfl
@[simp] theorem Fab.modChan_host (f : Fab) (ch : Nat) (g : Chan → Chan) : (f.modChan ch g).host = f.host := rfl
@[simp] theorem Fab.modChan_beryl (f : Fab) (ch : Nat) (g : Chan → Chan) : (f.modChan ch g).beryl = f.beryl := rfl
@[simp] theorem Fab.modChan_parts (f : Fab) (ch : Nat) (g : Chan → Chan) : (f.modChan ch g).parts = f.parts := rfl
@[simp] theorem Fab.modChan_pmode (f : Fab) (ch : Nat) (g : Chan → Chan) : (f.modChan ch g).pmode = f.pmode := rfl
@[simp] theorem Fab.modChan_sysRoot (f : Fab) (ch : Nat) (g : Chan → Chan) : (f.modChan ch g).sysRoot = f.sysRoot := rfl
@[simp] theorem Fab.modChan_sysFrames (f : Fab) (ch : Nat) (g : Chan → Chan) : (f.modChan ch g).sysFrames = f.sysFrames := rfl
@[simp] theorem Fab.modChan_tlb (f : Fab) (ch : Nat) (g : Chan → Chan) : (f.modChan ch g).tlb = f.tlb := rfl
@[simp] theorem Fab.modChan_migs (f : Fab) (ch : Nat) (g : Chan → Chan) : (f.modChan ch g).migs = f.migs := rfl
@[simp] theorem Fab.modChan_corr (f : Fab) (ch : Nat) (g : Chan → Chan) : (f.modChan ch g).corr = f.corr := rfl
@[simp] theorem Fab.modChan_cinches (f : Fab) (ch : Nat) (g : Chan → Chan) : (f.modChan ch g).cinches = f.cinches := rfl
@[simp] theorem Fab.modChan_colls (f : Fab) (ch : Nat) (g : Chan → Chan) : (f.modChan ch g).colls = f.colls := rfl
@[simp] theorem Fab.modChan_tapes (f : Fab) (ch : Nat) (g : Chan → Chan) : (f.modChan ch g).tapes = f.tapes := rfl
@[simp] theorem Fab.modChan_dieRes (f : Fab) (ch : Nat) (g : Chan → Chan) : (f.modChan ch g).dieRes = f.dieRes := rfl
@[simp] theorem Fab.modChan_tables (f : Fab) (ch : Nat) (g : Chan → Chan) : (f.modChan ch g).tables = f.tables := rfl
@[simp] theorem Fab.modChan_ents (f : Fab) (ch : Nat) (g : Chan → Chan) : (f.modChan ch g).ents = f.ents := rfl
@[simp] theorem Fab.modChan_insts (f : Fab) (ch : Nat) (g : Chan → Chan) : (f.modChan ch g).insts = f.insts := rfl
@[simp] theorem Fab.modChan_ops (f : Fab) (ch : Nat) (g : Chan → Chan) : (f.modChan ch g).ops = f.ops := rfl
@[simp] theorem Fab.modChan_dies (f : Fab) (ch : Nat) (g : Chan → Chan) : (f.modChan ch g).dies = f.dies := rfl
@[simp] theorem Fab.modChan_spares (f : Fab) (ch : Nat) (g : Chan → Chan) : (f.modChan ch g).spares = f.spares := rfl
@[simp] theorem Fab.modChan_keepers (f : Fab) (ch : Nat) (g : Chan → Chan) : (f.modChan ch g).keepers = f.keepers := rfl
@[simp] theorem Fab.modChan_keepq (f : Fab) (ch : Nat) (g : Chan → Chan) : (f.modChan ch g).keepq = f.keepq := rfl
@[simp] theorem Fab.modChan_seq (f : Fab) (ch : Nat) (g : Chan → Chan) : (f.modChan ch g).seq = f.seq := rfl
@[simp] theorem Fab.modChan_free (f : Fab) (ch : Nat) (g : Chan → Chan) : (f.modChan ch g).free = f.free := rfl
@[simp] theorem Fab.modChan_big (f : Fab) (ch : Nat) (g : Chan → Chan) : (f.modChan ch g).big = f.big := rfl

/-! ### Fab.modPom -/

@[simp] theorem Fab.modPom_clock (f : Fab) (g : Pommel → Pommel) : (f.modPom g).clock = f.clock := rfl
@[simp] theorem Fab.modPom_cur (f : Fab) (g : Pommel → Pommel) : (f.modPom g).cur = f.cur := rfl
@[simp] theorem Fab.modPom_armP (f : Fab) (g : Pommel → Pommel) : (f.modPom g).armP = f.armP := rfl
@[simp] theorem Fab.modPom_elems (f : Fab) (g : Pommel → Pommel) : (f.modPom g).elems = f.elems := rfl
@[simp] theorem Fab.modPom_runs (f : Fab) (g : Pommel → Pommel) : (f.modPom g).runs = f.runs := rfl
@[simp] theorem Fab.modPom_images (f : Fab) (g : Pommel → Pommel) : (f.modPom g).images = f.images := rfl
@[simp] theorem Fab.modPom_mem (f : Fab) (g : Pommel → Pommel) : (f.modPom g).mem = f.mem := rfl
@[simp] theorem Fab.modPom_tags (f : Fab) (g : Pommel → Pommel) : (f.modPom g).tags = f.tags := rfl
@[simp] theorem Fab.modPom_evq (f : Fab) (g : Pommel → Pommel) : (f.modPom g).evq = f.evq := rfl
@[simp] theorem Fab.modPom_chans (f : Fab) (g : Pommel → Pommel) : (f.modPom g).chans = f.chans := rfl
@[simp] theorem Fab.modPom_blocks (f : Fab) (g : Pommel → Pommel) : (f.modPom g).blocks = f.blocks := rfl
@[simp] theorem Fab.modPom_ingress (f : Fab) (g : Pommel → Pommel) : (f.modPom g).ingress = f.ingress := rfl
@[simp] theorem Fab.modPom_host (f : Fab) (g : Pommel → Pommel) : (f.modPom g).host = f.host := rfl
@[simp] theorem Fab.modPom_beryl (f : Fab) (g : Pommel → Pommel) : (f.modPom g).beryl = f.beryl := rfl
@[simp] theorem Fab.modPom_parts (f : Fab) (g : Pommel → Pommel) : (f.modPom g).parts = f.parts := rfl
@[simp] theorem Fab.modPom_pmode (f : Fab) (g : Pommel → Pommel) : (f.modPom g).pmode = f.pmode := rfl
@[simp] theorem Fab.modPom_sysRoot (f : Fab) (g : Pommel → Pommel) : (f.modPom g).sysRoot = f.sysRoot := rfl
@[simp] theorem Fab.modPom_sysFrames (f : Fab) (g : Pommel → Pommel) : (f.modPom g).sysFrames = f.sysFrames := rfl
@[simp] theorem Fab.modPom_tlb (f : Fab) (g : Pommel → Pommel) : (f.modPom g).tlb = f.tlb := rfl
@[simp] theorem Fab.modPom_migs (f : Fab) (g : Pommel → Pommel) : (f.modPom g).migs = f.migs := rfl
@[simp] theorem Fab.modPom_corr (f : Fab) (g : Pommel → Pommel) : (f.modPom g).corr = f.corr := rfl
@[simp] theorem Fab.modPom_cinches (f : Fab) (g : Pommel → Pommel) : (f.modPom g).cinches = f.cinches := rfl
@[simp] theorem Fab.modPom_colls (f : Fab) (g : Pommel → Pommel) : (f.modPom g).colls = f.colls := rfl
@[simp] theorem Fab.modPom_tapes (f : Fab) (g : Pommel → Pommel) : (f.modPom g).tapes = f.tapes := rfl
@[simp] theorem Fab.modPom_dieRes (f : Fab) (g : Pommel → Pommel) : (f.modPom g).dieRes = f.dieRes := rfl
@[simp] theorem Fab.modPom_tables (f : Fab) (g : Pommel → Pommel) : (f.modPom g).tables = f.tables := rfl
@[simp] theorem Fab.modPom_ents (f : Fab) (g : Pommel → Pommel) : (f.modPom g).ents = f.ents := rfl
@[simp] theorem Fab.modPom_insts (f : Fab) (g : Pommel → Pommel) : (f.modPom g).insts = f.insts := rfl
@[simp] theorem Fab.modPom_ops (f : Fab) (g : Pommel → Pommel) : (f.modPom g).ops = f.ops := rfl
@[simp] theorem Fab.modPom_dies (f : Fab) (g : Pommel → Pommel) : (f.modPom g).dies = f.dies := rfl
@[simp] theorem Fab.modPom_spares (f : Fab) (g : Pommel → Pommel) : (f.modPom g).spares = f.spares := rfl
@[simp] theorem Fab.modPom_keepers (f : Fab) (g : Pommel → Pommel) : (f.modPom g).keepers = f.keepers := rfl
@[simp] theorem Fab.modPom_keepq (f : Fab) (g : Pommel → Pommel) : (f.modPom g).keepq = f.keepq := rfl
@[simp] theorem Fab.modPom_seq (f : Fab) (g : Pommel → Pommel) : (f.modPom g).seq = f.seq := rfl
@[simp] theorem Fab.modPom_free (f : Fab) (g : Pommel → Pommel) : (f.modPom g).free = f.free := rfl
@[simp] theorem Fab.modPom_big (f : Fab) (g : Pommel → Pommel) : (f.modPom g).big = f.big := rfl

/-! ### Fab.taskNext -/

@[simp] theorem Fab.taskNext_clock (f : Fab) : (f.taskNext).clock = f.clock := rfl
@[simp] theorem Fab.taskNext_cur (f : Fab) : (f.taskNext).cur = f.cur := rfl
@[simp] theorem Fab.taskNext_armP (f : Fab) : (f.taskNext).armP = f.armP := rfl
@[simp] theorem Fab.taskNext_elems (f : Fab) : (f.taskNext).elems = f.elems := rfl
@[simp] theorem Fab.taskNext_runs (f : Fab) : (f.taskNext).runs = f.runs := rfl
@[simp] theorem Fab.taskNext_images (f : Fab) : (f.taskNext).images = f.images := rfl
@[simp] theorem Fab.taskNext_mem (f : Fab) : (f.taskNext).mem = f.mem := rfl
@[simp] theorem Fab.taskNext_tags (f : Fab) : (f.taskNext).tags = f.tags := rfl
@[simp] theorem Fab.taskNext_evq (f : Fab) : (f.taskNext).evq = f.evq := rfl
@[simp] theorem Fab.taskNext_chans (f : Fab) : (f.taskNext).chans = f.chans := rfl
@[simp] theorem Fab.taskNext_blocks (f : Fab) : (f.taskNext).blocks = f.blocks := rfl
@[simp] theorem Fab.taskNext_ingress (f : Fab) : (f.taskNext).ingress = f.ingress := rfl
@[simp] theorem Fab.taskNext_host (f : Fab) : (f.taskNext).host = f.host := rfl
@[simp] theorem Fab.taskNext_beryl (f : Fab) : (f.taskNext).beryl = f.beryl := rfl
@[simp] theorem Fab.taskNext_parts (f : Fab) : (f.taskNext).parts = f.parts := rfl
@[simp] theorem Fab.taskNext_pmode (f : Fab) : (f.taskNext).pmode = f.pmode := rfl
@[simp] theorem Fab.taskNext_sysRoot (f : Fab) : (f.taskNext).sysRoot = f.sysRoot := rfl
@[simp] theorem Fab.taskNext_sysFrames (f : Fab) : (f.taskNext).sysFrames = f.sysFrames := rfl
@[simp] theorem Fab.taskNext_tlb (f : Fab) : (f.taskNext).tlb = f.tlb := rfl
@[simp] theorem Fab.taskNext_migs (f : Fab) : (f.taskNext).migs = f.migs := rfl
@[simp] theorem Fab.taskNext_corr (f : Fab) : (f.taskNext).corr = f.corr := rfl
@[simp] theorem Fab.taskNext_cinches (f : Fab) : (f.taskNext).cinches = f.cinches := rfl
@[simp] theorem Fab.taskNext_colls (f : Fab) : (f.taskNext).colls = f.colls := rfl
@[simp] theorem Fab.taskNext_tapes (f : Fab) : (f.taskNext).tapes = f.tapes := rfl
@[simp] theorem Fab.taskNext_dieRes (f : Fab) : (f.taskNext).dieRes = f.dieRes := rfl
@[simp] theorem Fab.taskNext_tables (f : Fab) : (f.taskNext).tables = f.tables := rfl
@[simp] theorem Fab.taskNext_ents (f : Fab) : (f.taskNext).ents = f.ents := rfl
@[simp] theorem Fab.taskNext_insts (f : Fab) : (f.taskNext).insts = f.insts := rfl
@[simp] theorem Fab.taskNext_ops (f : Fab) : (f.taskNext).ops = f.ops := rfl
@[simp] theorem Fab.taskNext_dies (f : Fab) : (f.taskNext).dies = f.dies := rfl
@[simp] theorem Fab.taskNext_spares (f : Fab) : (f.taskNext).spares = f.spares := rfl
@[simp] theorem Fab.taskNext_keepers (f : Fab) : (f.taskNext).keepers = f.keepers := rfl
@[simp] theorem Fab.taskNext_keepq (f : Fab) : (f.taskNext).keepq = f.keepq := rfl
@[simp] theorem Fab.taskNext_seq (f : Fab) : (f.taskNext).seq = f.seq := rfl
@[simp] theorem Fab.taskNext_free (f : Fab) : (f.taskNext).free = f.free := rfl
@[simp] theorem Fab.taskNext_big (f : Fab) : (f.taskNext).big = f.big := rfl

/-! ### Fab.taskRet -/

@[simp] theorem Fab.taskRet_clock (f : Fab) (d : BitVec 5) (v : W64) (n : Nat) : (f.taskRet d v n).clock = f.clock := rfl
@[simp] theorem Fab.taskRet_cur (f : Fab) (d : BitVec 5) (v : W64) (n : Nat) : (f.taskRet d v n).cur = f.cur := rfl
@[simp] theorem Fab.taskRet_armP (f : Fab) (d : BitVec 5) (v : W64) (n : Nat) : (f.taskRet d v n).armP = f.armP := rfl
@[simp] theorem Fab.taskRet_elems (f : Fab) (d : BitVec 5) (v : W64) (n : Nat) : (f.taskRet d v n).elems = f.elems := rfl
@[simp] theorem Fab.taskRet_runs (f : Fab) (d : BitVec 5) (v : W64) (n : Nat) : (f.taskRet d v n).runs = f.runs := rfl
@[simp] theorem Fab.taskRet_images (f : Fab) (d : BitVec 5) (v : W64) (n : Nat) : (f.taskRet d v n).images = f.images := rfl
@[simp] theorem Fab.taskRet_mem (f : Fab) (d : BitVec 5) (v : W64) (n : Nat) : (f.taskRet d v n).mem = f.mem := rfl
@[simp] theorem Fab.taskRet_tags (f : Fab) (d : BitVec 5) (v : W64) (n : Nat) : (f.taskRet d v n).tags = f.tags := rfl
@[simp] theorem Fab.taskRet_evq (f : Fab) (d : BitVec 5) (v : W64) (n : Nat) : (f.taskRet d v n).evq = f.evq := rfl
@[simp] theorem Fab.taskRet_chans (f : Fab) (d : BitVec 5) (v : W64) (n : Nat) : (f.taskRet d v n).chans = f.chans := rfl
@[simp] theorem Fab.taskRet_blocks (f : Fab) (d : BitVec 5) (v : W64) (n : Nat) : (f.taskRet d v n).blocks = f.blocks := rfl
@[simp] theorem Fab.taskRet_ingress (f : Fab) (d : BitVec 5) (v : W64) (n : Nat) : (f.taskRet d v n).ingress = f.ingress := rfl
@[simp] theorem Fab.taskRet_host (f : Fab) (d : BitVec 5) (v : W64) (n : Nat) : (f.taskRet d v n).host = f.host := rfl
@[simp] theorem Fab.taskRet_beryl (f : Fab) (d : BitVec 5) (v : W64) (n : Nat) : (f.taskRet d v n).beryl = f.beryl := rfl
@[simp] theorem Fab.taskRet_parts (f : Fab) (d : BitVec 5) (v : W64) (n : Nat) : (f.taskRet d v n).parts = f.parts := rfl
@[simp] theorem Fab.taskRet_pmode (f : Fab) (d : BitVec 5) (v : W64) (n : Nat) : (f.taskRet d v n).pmode = f.pmode := rfl
@[simp] theorem Fab.taskRet_sysRoot (f : Fab) (d : BitVec 5) (v : W64) (n : Nat) : (f.taskRet d v n).sysRoot = f.sysRoot := rfl
@[simp] theorem Fab.taskRet_sysFrames (f : Fab) (d : BitVec 5) (v : W64) (n : Nat) : (f.taskRet d v n).sysFrames = f.sysFrames := rfl
@[simp] theorem Fab.taskRet_tlb (f : Fab) (d : BitVec 5) (v : W64) (n : Nat) : (f.taskRet d v n).tlb = f.tlb := rfl
@[simp] theorem Fab.taskRet_migs (f : Fab) (d : BitVec 5) (v : W64) (n : Nat) : (f.taskRet d v n).migs = f.migs := rfl
@[simp] theorem Fab.taskRet_corr (f : Fab) (d : BitVec 5) (v : W64) (n : Nat) : (f.taskRet d v n).corr = f.corr := rfl
@[simp] theorem Fab.taskRet_cinches (f : Fab) (d : BitVec 5) (v : W64) (n : Nat) : (f.taskRet d v n).cinches = f.cinches := rfl
@[simp] theorem Fab.taskRet_colls (f : Fab) (d : BitVec 5) (v : W64) (n : Nat) : (f.taskRet d v n).colls = f.colls := rfl
@[simp] theorem Fab.taskRet_tapes (f : Fab) (d : BitVec 5) (v : W64) (n : Nat) : (f.taskRet d v n).tapes = f.tapes := rfl
@[simp] theorem Fab.taskRet_dieRes (f : Fab) (d : BitVec 5) (v : W64) (n : Nat) : (f.taskRet d v n).dieRes = f.dieRes := rfl
@[simp] theorem Fab.taskRet_tables (f : Fab) (d : BitVec 5) (v : W64) (n : Nat) : (f.taskRet d v n).tables = f.tables := rfl
@[simp] theorem Fab.taskRet_ents (f : Fab) (d : BitVec 5) (v : W64) (n : Nat) : (f.taskRet d v n).ents = f.ents := rfl
@[simp] theorem Fab.taskRet_insts (f : Fab) (d : BitVec 5) (v : W64) (n : Nat) : (f.taskRet d v n).insts = f.insts := rfl
@[simp] theorem Fab.taskRet_ops (f : Fab) (d : BitVec 5) (v : W64) (n : Nat) : (f.taskRet d v n).ops = f.ops := rfl
@[simp] theorem Fab.taskRet_dies (f : Fab) (d : BitVec 5) (v : W64) (n : Nat) : (f.taskRet d v n).dies = f.dies := rfl
@[simp] theorem Fab.taskRet_spares (f : Fab) (d : BitVec 5) (v : W64) (n : Nat) : (f.taskRet d v n).spares = f.spares := rfl
@[simp] theorem Fab.taskRet_keepers (f : Fab) (d : BitVec 5) (v : W64) (n : Nat) : (f.taskRet d v n).keepers = f.keepers := rfl
@[simp] theorem Fab.taskRet_keepq (f : Fab) (d : BitVec 5) (v : W64) (n : Nat) : (f.taskRet d v n).keepq = f.keepq := rfl
@[simp] theorem Fab.taskRet_seq (f : Fab) (d : BitVec 5) (v : W64) (n : Nat) : (f.taskRet d v n).seq = f.seq := rfl
@[simp] theorem Fab.taskRet_free (f : Fab) (d : BitVec 5) (v : W64) (n : Nat) : (f.taskRet d v n).free = f.free := rfl
@[simp] theorem Fab.taskRet_big (f : Fab) (d : BitVec 5) (v : W64) (n : Nat) : (f.taskRet d v n).big = f.big := rfl

/-! ### Fab.modBlock -/

@[simp] theorem Fab.modBlock_clock (f : Fab) (b : Nat) (g : Block → Block) : (f.modBlock b g).clock = f.clock := rfl
@[simp] theorem Fab.modBlock_cur (f : Fab) (b : Nat) (g : Block → Block) : (f.modBlock b g).cur = f.cur := rfl
@[simp] theorem Fab.modBlock_armP (f : Fab) (b : Nat) (g : Block → Block) : (f.modBlock b g).armP = f.armP := rfl
@[simp] theorem Fab.modBlock_elems (f : Fab) (b : Nat) (g : Block → Block) : (f.modBlock b g).elems = f.elems := rfl
@[simp] theorem Fab.modBlock_runs (f : Fab) (b : Nat) (g : Block → Block) : (f.modBlock b g).runs = f.runs := rfl
@[simp] theorem Fab.modBlock_images (f : Fab) (b : Nat) (g : Block → Block) : (f.modBlock b g).images = f.images := rfl
@[simp] theorem Fab.modBlock_mem (f : Fab) (b : Nat) (g : Block → Block) : (f.modBlock b g).mem = f.mem := rfl
@[simp] theorem Fab.modBlock_tags (f : Fab) (b : Nat) (g : Block → Block) : (f.modBlock b g).tags = f.tags := rfl
@[simp] theorem Fab.modBlock_evq (f : Fab) (b : Nat) (g : Block → Block) : (f.modBlock b g).evq = f.evq := rfl
@[simp] theorem Fab.modBlock_chans (f : Fab) (b : Nat) (g : Block → Block) : (f.modBlock b g).chans = f.chans := rfl
@[simp] theorem Fab.modBlock_pom (f : Fab) (b : Nat) (g : Block → Block) : (f.modBlock b g).pom = f.pom := rfl
@[simp] theorem Fab.modBlock_ingress (f : Fab) (b : Nat) (g : Block → Block) : (f.modBlock b g).ingress = f.ingress := rfl
@[simp] theorem Fab.modBlock_host (f : Fab) (b : Nat) (g : Block → Block) : (f.modBlock b g).host = f.host := rfl
@[simp] theorem Fab.modBlock_beryl (f : Fab) (b : Nat) (g : Block → Block) : (f.modBlock b g).beryl = f.beryl := rfl
@[simp] theorem Fab.modBlock_parts (f : Fab) (b : Nat) (g : Block → Block) : (f.modBlock b g).parts = f.parts := rfl
@[simp] theorem Fab.modBlock_pmode (f : Fab) (b : Nat) (g : Block → Block) : (f.modBlock b g).pmode = f.pmode := rfl
@[simp] theorem Fab.modBlock_sysRoot (f : Fab) (b : Nat) (g : Block → Block) : (f.modBlock b g).sysRoot = f.sysRoot := rfl
@[simp] theorem Fab.modBlock_sysFrames (f : Fab) (b : Nat) (g : Block → Block) : (f.modBlock b g).sysFrames = f.sysFrames := rfl
@[simp] theorem Fab.modBlock_tlb (f : Fab) (b : Nat) (g : Block → Block) : (f.modBlock b g).tlb = f.tlb := rfl
@[simp] theorem Fab.modBlock_migs (f : Fab) (b : Nat) (g : Block → Block) : (f.modBlock b g).migs = f.migs := rfl
@[simp] theorem Fab.modBlock_corr (f : Fab) (b : Nat) (g : Block → Block) : (f.modBlock b g).corr = f.corr := rfl
@[simp] theorem Fab.modBlock_cinches (f : Fab) (b : Nat) (g : Block → Block) : (f.modBlock b g).cinches = f.cinches := rfl
@[simp] theorem Fab.modBlock_colls (f : Fab) (b : Nat) (g : Block → Block) : (f.modBlock b g).colls = f.colls := rfl
@[simp] theorem Fab.modBlock_tapes (f : Fab) (b : Nat) (g : Block → Block) : (f.modBlock b g).tapes = f.tapes := rfl
@[simp] theorem Fab.modBlock_dieRes (f : Fab) (b : Nat) (g : Block → Block) : (f.modBlock b g).dieRes = f.dieRes := rfl
@[simp] theorem Fab.modBlock_tables (f : Fab) (b : Nat) (g : Block → Block) : (f.modBlock b g).tables = f.tables := rfl
@[simp] theorem Fab.modBlock_ents (f : Fab) (b : Nat) (g : Block → Block) : (f.modBlock b g).ents = f.ents := rfl
@[simp] theorem Fab.modBlock_insts (f : Fab) (b : Nat) (g : Block → Block) : (f.modBlock b g).insts = f.insts := rfl
@[simp] theorem Fab.modBlock_ops (f : Fab) (b : Nat) (g : Block → Block) : (f.modBlock b g).ops = f.ops := rfl
@[simp] theorem Fab.modBlock_dies (f : Fab) (b : Nat) (g : Block → Block) : (f.modBlock b g).dies = f.dies := rfl
@[simp] theorem Fab.modBlock_spares (f : Fab) (b : Nat) (g : Block → Block) : (f.modBlock b g).spares = f.spares := rfl
@[simp] theorem Fab.modBlock_keepers (f : Fab) (b : Nat) (g : Block → Block) : (f.modBlock b g).keepers = f.keepers := rfl
@[simp] theorem Fab.modBlock_keepq (f : Fab) (b : Nat) (g : Block → Block) : (f.modBlock b g).keepq = f.keepq := rfl
@[simp] theorem Fab.modBlock_seq (f : Fab) (b : Nat) (g : Block → Block) : (f.modBlock b g).seq = f.seq := rfl
@[simp] theorem Fab.modBlock_free (f : Fab) (b : Nat) (g : Block → Block) : (f.modBlock b g).free = f.free := rfl
@[simp] theorem Fab.modBlock_big (f : Fab) (b : Nat) (g : Block → Block) : (f.modBlock b g).big = f.big := rfl

/-! ### Fab.modIng -/

@[simp] theorem Fab.modIng_clock (f : Fab) (p : Nat) (g : Ingress → Ingress) : (f.modIng p g).clock = f.clock := rfl
@[simp] theorem Fab.modIng_cur (f : Fab) (p : Nat) (g : Ingress → Ingress) : (f.modIng p g).cur = f.cur := rfl
@[simp] theorem Fab.modIng_armP (f : Fab) (p : Nat) (g : Ingress → Ingress) : (f.modIng p g).armP = f.armP := rfl
@[simp] theorem Fab.modIng_elems (f : Fab) (p : Nat) (g : Ingress → Ingress) : (f.modIng p g).elems = f.elems := rfl
@[simp] theorem Fab.modIng_runs (f : Fab) (p : Nat) (g : Ingress → Ingress) : (f.modIng p g).runs = f.runs := rfl
@[simp] theorem Fab.modIng_images (f : Fab) (p : Nat) (g : Ingress → Ingress) : (f.modIng p g).images = f.images := rfl
@[simp] theorem Fab.modIng_mem (f : Fab) (p : Nat) (g : Ingress → Ingress) : (f.modIng p g).mem = f.mem := rfl
@[simp] theorem Fab.modIng_tags (f : Fab) (p : Nat) (g : Ingress → Ingress) : (f.modIng p g).tags = f.tags := rfl
@[simp] theorem Fab.modIng_evq (f : Fab) (p : Nat) (g : Ingress → Ingress) : (f.modIng p g).evq = f.evq := rfl
@[simp] theorem Fab.modIng_chans (f : Fab) (p : Nat) (g : Ingress → Ingress) : (f.modIng p g).chans = f.chans := rfl
@[simp] theorem Fab.modIng_pom (f : Fab) (p : Nat) (g : Ingress → Ingress) : (f.modIng p g).pom = f.pom := rfl
@[simp] theorem Fab.modIng_blocks (f : Fab) (p : Nat) (g : Ingress → Ingress) : (f.modIng p g).blocks = f.blocks := rfl
@[simp] theorem Fab.modIng_host (f : Fab) (p : Nat) (g : Ingress → Ingress) : (f.modIng p g).host = f.host := rfl
@[simp] theorem Fab.modIng_beryl (f : Fab) (p : Nat) (g : Ingress → Ingress) : (f.modIng p g).beryl = f.beryl := rfl
@[simp] theorem Fab.modIng_parts (f : Fab) (p : Nat) (g : Ingress → Ingress) : (f.modIng p g).parts = f.parts := rfl
@[simp] theorem Fab.modIng_pmode (f : Fab) (p : Nat) (g : Ingress → Ingress) : (f.modIng p g).pmode = f.pmode := rfl
@[simp] theorem Fab.modIng_sysRoot (f : Fab) (p : Nat) (g : Ingress → Ingress) : (f.modIng p g).sysRoot = f.sysRoot := rfl
@[simp] theorem Fab.modIng_sysFrames (f : Fab) (p : Nat) (g : Ingress → Ingress) : (f.modIng p g).sysFrames = f.sysFrames := rfl
@[simp] theorem Fab.modIng_tlb (f : Fab) (p : Nat) (g : Ingress → Ingress) : (f.modIng p g).tlb = f.tlb := rfl
@[simp] theorem Fab.modIng_migs (f : Fab) (p : Nat) (g : Ingress → Ingress) : (f.modIng p g).migs = f.migs := rfl
@[simp] theorem Fab.modIng_corr (f : Fab) (p : Nat) (g : Ingress → Ingress) : (f.modIng p g).corr = f.corr := rfl
@[simp] theorem Fab.modIng_cinches (f : Fab) (p : Nat) (g : Ingress → Ingress) : (f.modIng p g).cinches = f.cinches := rfl
@[simp] theorem Fab.modIng_colls (f : Fab) (p : Nat) (g : Ingress → Ingress) : (f.modIng p g).colls = f.colls := rfl
@[simp] theorem Fab.modIng_tapes (f : Fab) (p : Nat) (g : Ingress → Ingress) : (f.modIng p g).tapes = f.tapes := rfl
@[simp] theorem Fab.modIng_dieRes (f : Fab) (p : Nat) (g : Ingress → Ingress) : (f.modIng p g).dieRes = f.dieRes := rfl
@[simp] theorem Fab.modIng_tables (f : Fab) (p : Nat) (g : Ingress → Ingress) : (f.modIng p g).tables = f.tables := rfl
@[simp] theorem Fab.modIng_ents (f : Fab) (p : Nat) (g : Ingress → Ingress) : (f.modIng p g).ents = f.ents := rfl
@[simp] theorem Fab.modIng_insts (f : Fab) (p : Nat) (g : Ingress → Ingress) : (f.modIng p g).insts = f.insts := rfl
@[simp] theorem Fab.modIng_ops (f : Fab) (p : Nat) (g : Ingress → Ingress) : (f.modIng p g).ops = f.ops := rfl
@[simp] theorem Fab.modIng_dies (f : Fab) (p : Nat) (g : Ingress → Ingress) : (f.modIng p g).dies = f.dies := rfl
@[simp] theorem Fab.modIng_spares (f : Fab) (p : Nat) (g : Ingress → Ingress) : (f.modIng p g).spares = f.spares := rfl
@[simp] theorem Fab.modIng_keepers (f : Fab) (p : Nat) (g : Ingress → Ingress) : (f.modIng p g).keepers = f.keepers := rfl
@[simp] theorem Fab.modIng_keepq (f : Fab) (p : Nat) (g : Ingress → Ingress) : (f.modIng p g).keepq = f.keepq := rfl
@[simp] theorem Fab.modIng_seq (f : Fab) (p : Nat) (g : Ingress → Ingress) : (f.modIng p g).seq = f.seq := rfl
@[simp] theorem Fab.modIng_free (f : Fab) (p : Nat) (g : Ingress → Ingress) : (f.modIng p g).free = f.free := rfl
@[simp] theorem Fab.modIng_big (f : Fab) (p : Nat) (g : Ingress → Ingress) : (f.modIng p g).big = f.big := rfl

/-! ### Fab.modPart -/

@[simp] theorem Fab.modPart_clock (f : Fab) (p : Nat) (g : Part → Part) : (f.modPart p g).clock = f.clock := rfl
@[simp] theorem Fab.modPart_cur (f : Fab) (p : Nat) (g : Part → Part) : (f.modPart p g).cur = f.cur := rfl
@[simp] theorem Fab.modPart_armP (f : Fab) (p : Nat) (g : Part → Part) : (f.modPart p g).armP = f.armP := rfl
@[simp] theorem Fab.modPart_elems (f : Fab) (p : Nat) (g : Part → Part) : (f.modPart p g).elems = f.elems := rfl
@[simp] theorem Fab.modPart_runs (f : Fab) (p : Nat) (g : Part → Part) : (f.modPart p g).runs = f.runs := rfl
@[simp] theorem Fab.modPart_images (f : Fab) (p : Nat) (g : Part → Part) : (f.modPart p g).images = f.images := rfl
@[simp] theorem Fab.modPart_mem (f : Fab) (p : Nat) (g : Part → Part) : (f.modPart p g).mem = f.mem := rfl
@[simp] theorem Fab.modPart_tags (f : Fab) (p : Nat) (g : Part → Part) : (f.modPart p g).tags = f.tags := rfl
@[simp] theorem Fab.modPart_evq (f : Fab) (p : Nat) (g : Part → Part) : (f.modPart p g).evq = f.evq := rfl
@[simp] theorem Fab.modPart_chans (f : Fab) (p : Nat) (g : Part → Part) : (f.modPart p g).chans = f.chans := rfl
@[simp] theorem Fab.modPart_pom (f : Fab) (p : Nat) (g : Part → Part) : (f.modPart p g).pom = f.pom := rfl
@[simp] theorem Fab.modPart_blocks (f : Fab) (p : Nat) (g : Part → Part) : (f.modPart p g).blocks = f.blocks := rfl
@[simp] theorem Fab.modPart_ingress (f : Fab) (p : Nat) (g : Part → Part) : (f.modPart p g).ingress = f.ingress := rfl
@[simp] theorem Fab.modPart_host (f : Fab) (p : Nat) (g : Part → Part) : (f.modPart p g).host = f.host := rfl
@[simp] theorem Fab.modPart_beryl (f : Fab) (p : Nat) (g : Part → Part) : (f.modPart p g).beryl = f.beryl := rfl
@[simp] theorem Fab.modPart_pmode (f : Fab) (p : Nat) (g : Part → Part) : (f.modPart p g).pmode = f.pmode := rfl
@[simp] theorem Fab.modPart_sysRoot (f : Fab) (p : Nat) (g : Part → Part) : (f.modPart p g).sysRoot = f.sysRoot := rfl
@[simp] theorem Fab.modPart_sysFrames (f : Fab) (p : Nat) (g : Part → Part) : (f.modPart p g).sysFrames = f.sysFrames := rfl
@[simp] theorem Fab.modPart_tlb (f : Fab) (p : Nat) (g : Part → Part) : (f.modPart p g).tlb = f.tlb := rfl
@[simp] theorem Fab.modPart_migs (f : Fab) (p : Nat) (g : Part → Part) : (f.modPart p g).migs = f.migs := rfl
@[simp] theorem Fab.modPart_corr (f : Fab) (p : Nat) (g : Part → Part) : (f.modPart p g).corr = f.corr := rfl
@[simp] theorem Fab.modPart_cinches (f : Fab) (p : Nat) (g : Part → Part) : (f.modPart p g).cinches = f.cinches := rfl
@[simp] theorem Fab.modPart_colls (f : Fab) (p : Nat) (g : Part → Part) : (f.modPart p g).colls = f.colls := rfl
@[simp] theorem Fab.modPart_tapes (f : Fab) (p : Nat) (g : Part → Part) : (f.modPart p g).tapes = f.tapes := rfl
@[simp] theorem Fab.modPart_dieRes (f : Fab) (p : Nat) (g : Part → Part) : (f.modPart p g).dieRes = f.dieRes := rfl
@[simp] theorem Fab.modPart_tables (f : Fab) (p : Nat) (g : Part → Part) : (f.modPart p g).tables = f.tables := rfl
@[simp] theorem Fab.modPart_ents (f : Fab) (p : Nat) (g : Part → Part) : (f.modPart p g).ents = f.ents := rfl
@[simp] theorem Fab.modPart_insts (f : Fab) (p : Nat) (g : Part → Part) : (f.modPart p g).insts = f.insts := rfl
@[simp] theorem Fab.modPart_ops (f : Fab) (p : Nat) (g : Part → Part) : (f.modPart p g).ops = f.ops := rfl
@[simp] theorem Fab.modPart_dies (f : Fab) (p : Nat) (g : Part → Part) : (f.modPart p g).dies = f.dies := rfl
@[simp] theorem Fab.modPart_spares (f : Fab) (p : Nat) (g : Part → Part) : (f.modPart p g).spares = f.spares := rfl
@[simp] theorem Fab.modPart_keepers (f : Fab) (p : Nat) (g : Part → Part) : (f.modPart p g).keepers = f.keepers := rfl
@[simp] theorem Fab.modPart_keepq (f : Fab) (p : Nat) (g : Part → Part) : (f.modPart p g).keepq = f.keepq := rfl
@[simp] theorem Fab.modPart_seq (f : Fab) (p : Nat) (g : Part → Part) : (f.modPart p g).seq = f.seq := rfl
@[simp] theorem Fab.modPart_free (f : Fab) (p : Nat) (g : Part → Part) : (f.modPart p g).free = f.free := rfl
@[simp] theorem Fab.modPart_big (f : Fab) (p : Nat) (g : Part → Part) : (f.modPart p g).big = f.big := rfl

/-! ### Fab.respond -/

@[simp] theorem Fab.respond_clock (f : Fab) (t : BitVec 16) (n : Nat) (bs : List Byte) : (f.respond t n bs).clock = f.clock := rfl
@[simp] theorem Fab.respond_cur (f : Fab) (t : BitVec 16) (n : Nat) (bs : List Byte) : (f.respond t n bs).cur = f.cur := rfl
@[simp] theorem Fab.respond_armP (f : Fab) (t : BitVec 16) (n : Nat) (bs : List Byte) : (f.respond t n bs).armP = f.armP := rfl
@[simp] theorem Fab.respond_elems (f : Fab) (t : BitVec 16) (n : Nat) (bs : List Byte) : (f.respond t n bs).elems = f.elems := rfl
@[simp] theorem Fab.respond_runs (f : Fab) (t : BitVec 16) (n : Nat) (bs : List Byte) : (f.respond t n bs).runs = f.runs := rfl
@[simp] theorem Fab.respond_images (f : Fab) (t : BitVec 16) (n : Nat) (bs : List Byte) : (f.respond t n bs).images = f.images := rfl
@[simp] theorem Fab.respond_mem (f : Fab) (t : BitVec 16) (n : Nat) (bs : List Byte) : (f.respond t n bs).mem = f.mem := rfl
@[simp] theorem Fab.respond_tags (f : Fab) (t : BitVec 16) (n : Nat) (bs : List Byte) : (f.respond t n bs).tags = f.tags := rfl
@[simp] theorem Fab.respond_evq (f : Fab) (t : BitVec 16) (n : Nat) (bs : List Byte) : (f.respond t n bs).evq = f.evq := rfl
@[simp] theorem Fab.respond_chans (f : Fab) (t : BitVec 16) (n : Nat) (bs : List Byte) : (f.respond t n bs).chans = f.chans := rfl
@[simp] theorem Fab.respond_pom (f : Fab) (t : BitVec 16) (n : Nat) (bs : List Byte) : (f.respond t n bs).pom = f.pom := rfl
@[simp] theorem Fab.respond_blocks (f : Fab) (t : BitVec 16) (n : Nat) (bs : List Byte) : (f.respond t n bs).blocks = f.blocks := rfl
@[simp] theorem Fab.respond_ingress (f : Fab) (t : BitVec 16) (n : Nat) (bs : List Byte) : (f.respond t n bs).ingress = f.ingress := rfl
@[simp] theorem Fab.respond_beryl (f : Fab) (t : BitVec 16) (n : Nat) (bs : List Byte) : (f.respond t n bs).beryl = f.beryl := rfl
@[simp] theorem Fab.respond_parts (f : Fab) (t : BitVec 16) (n : Nat) (bs : List Byte) : (f.respond t n bs).parts = f.parts := rfl
@[simp] theorem Fab.respond_pmode (f : Fab) (t : BitVec 16) (n : Nat) (bs : List Byte) : (f.respond t n bs).pmode = f.pmode := rfl
@[simp] theorem Fab.respond_sysRoot (f : Fab) (t : BitVec 16) (n : Nat) (bs : List Byte) : (f.respond t n bs).sysRoot = f.sysRoot := rfl
@[simp] theorem Fab.respond_sysFrames (f : Fab) (t : BitVec 16) (n : Nat) (bs : List Byte) : (f.respond t n bs).sysFrames = f.sysFrames := rfl
@[simp] theorem Fab.respond_tlb (f : Fab) (t : BitVec 16) (n : Nat) (bs : List Byte) : (f.respond t n bs).tlb = f.tlb := rfl
@[simp] theorem Fab.respond_migs (f : Fab) (t : BitVec 16) (n : Nat) (bs : List Byte) : (f.respond t n bs).migs = f.migs := rfl
@[simp] theorem Fab.respond_corr (f : Fab) (t : BitVec 16) (n : Nat) (bs : List Byte) : (f.respond t n bs).corr = f.corr := rfl
@[simp] theorem Fab.respond_cinches (f : Fab) (t : BitVec 16) (n : Nat) (bs : List Byte) : (f.respond t n bs).cinches = f.cinches := rfl
@[simp] theorem Fab.respond_colls (f : Fab) (t : BitVec 16) (n : Nat) (bs : List Byte) : (f.respond t n bs).colls = f.colls := rfl
@[simp] theorem Fab.respond_tapes (f : Fab) (t : BitVec 16) (n : Nat) (bs : List Byte) : (f.respond t n bs).tapes = f.tapes := rfl
@[simp] theorem Fab.respond_dieRes (f : Fab) (t : BitVec 16) (n : Nat) (bs : List Byte) : (f.respond t n bs).dieRes = f.dieRes := rfl
@[simp] theorem Fab.respond_tables (f : Fab) (t : BitVec 16) (n : Nat) (bs : List Byte) : (f.respond t n bs).tables = f.tables := rfl
@[simp] theorem Fab.respond_ents (f : Fab) (t : BitVec 16) (n : Nat) (bs : List Byte) : (f.respond t n bs).ents = f.ents := rfl
@[simp] theorem Fab.respond_insts (f : Fab) (t : BitVec 16) (n : Nat) (bs : List Byte) : (f.respond t n bs).insts = f.insts := rfl
@[simp] theorem Fab.respond_ops (f : Fab) (t : BitVec 16) (n : Nat) (bs : List Byte) : (f.respond t n bs).ops = f.ops := rfl
@[simp] theorem Fab.respond_dies (f : Fab) (t : BitVec 16) (n : Nat) (bs : List Byte) : (f.respond t n bs).dies = f.dies := rfl
@[simp] theorem Fab.respond_spares (f : Fab) (t : BitVec 16) (n : Nat) (bs : List Byte) : (f.respond t n bs).spares = f.spares := rfl
@[simp] theorem Fab.respond_keepers (f : Fab) (t : BitVec 16) (n : Nat) (bs : List Byte) : (f.respond t n bs).keepers = f.keepers := rfl
@[simp] theorem Fab.respond_keepq (f : Fab) (t : BitVec 16) (n : Nat) (bs : List Byte) : (f.respond t n bs).keepq = f.keepq := rfl
@[simp] theorem Fab.respond_seq (f : Fab) (t : BitVec 16) (n : Nat) (bs : List Byte) : (f.respond t n bs).seq = f.seq := rfl
@[simp] theorem Fab.respond_free (f : Fab) (t : BitVec 16) (n : Nat) (bs : List Byte) : (f.respond t n bs).free = f.free := rfl
@[simp] theorem Fab.respond_big (f : Fab) (t : BitVec 16) (n : Nat) (bs : List Byte) : (f.respond t n bs).big = f.big := rfl

/-! ### Fab.draw -/

@[simp] theorem Fab.draw_clock (f : Fab) : (f.draw.2).clock = f.clock := rfl
@[simp] theorem Fab.draw_cur (f : Fab) : (f.draw.2).cur = f.cur := rfl
@[simp] theorem Fab.draw_armP (f : Fab) : (f.draw.2).armP = f.armP := rfl
@[simp] theorem Fab.draw_elems (f : Fab) : (f.draw.2).elems = f.elems := rfl
@[simp] theorem Fab.draw_runs (f : Fab) : (f.draw.2).runs = f.runs := rfl
@[simp] theorem Fab.draw_images (f : Fab) : (f.draw.2).images = f.images := rfl
@[simp] theorem Fab.draw_mem (f : Fab) : (f.draw.2).mem = f.mem := rfl
@[simp] theorem Fab.draw_tags (f : Fab) : (f.draw.2).tags = f.tags := rfl
@[simp] theorem Fab.draw_evq (f : Fab) : (f.draw.2).evq = f.evq := rfl
@[simp] theorem Fab.draw_chans (f : Fab) : (f.draw.2).chans = f.chans := rfl
@[simp] theorem Fab.draw_pom (f : Fab) : (f.draw.2).pom = f.pom := rfl
@[simp] theorem Fab.draw_blocks (f : Fab) : (f.draw.2).blocks = f.blocks := rfl
@[simp] theorem Fab.draw_ingress (f : Fab) : (f.draw.2).ingress = f.ingress := rfl
@[simp] theorem Fab.draw_host (f : Fab) : (f.draw.2).host = f.host := rfl
@[simp] theorem Fab.draw_beryl (f : Fab) : (f.draw.2).beryl = f.beryl := rfl
@[simp] theorem Fab.draw_parts (f : Fab) : (f.draw.2).parts = f.parts := rfl
@[simp] theorem Fab.draw_pmode (f : Fab) : (f.draw.2).pmode = f.pmode := rfl
@[simp] theorem Fab.draw_sysRoot (f : Fab) : (f.draw.2).sysRoot = f.sysRoot := rfl
@[simp] theorem Fab.draw_sysFrames (f : Fab) : (f.draw.2).sysFrames = f.sysFrames := rfl
@[simp] theorem Fab.draw_tlb (f : Fab) : (f.draw.2).tlb = f.tlb := rfl
@[simp] theorem Fab.draw_migs (f : Fab) : (f.draw.2).migs = f.migs := rfl
@[simp] theorem Fab.draw_corr (f : Fab) : (f.draw.2).corr = f.corr := rfl
@[simp] theorem Fab.draw_cinches (f : Fab) : (f.draw.2).cinches = f.cinches := rfl
@[simp] theorem Fab.draw_colls (f : Fab) : (f.draw.2).colls = f.colls := rfl
@[simp] theorem Fab.draw_tapes (f : Fab) : (f.draw.2).tapes = f.tapes := rfl
@[simp] theorem Fab.draw_dieRes (f : Fab) : (f.draw.2).dieRes = f.dieRes := rfl
@[simp] theorem Fab.draw_tables (f : Fab) : (f.draw.2).tables = f.tables := rfl
@[simp] theorem Fab.draw_ents (f : Fab) : (f.draw.2).ents = f.ents := rfl
@[simp] theorem Fab.draw_insts (f : Fab) : (f.draw.2).insts = f.insts := rfl
@[simp] theorem Fab.draw_ops (f : Fab) : (f.draw.2).ops = f.ops := rfl
@[simp] theorem Fab.draw_dies (f : Fab) : (f.draw.2).dies = f.dies := rfl
@[simp] theorem Fab.draw_spares (f : Fab) : (f.draw.2).spares = f.spares := rfl
@[simp] theorem Fab.draw_keepers (f : Fab) : (f.draw.2).keepers = f.keepers := rfl
@[simp] theorem Fab.draw_keepq (f : Fab) : (f.draw.2).keepq = f.keepq := rfl
@[simp] theorem Fab.draw_seq (f : Fab) : (f.draw.2).seq = f.seq := rfl
@[simp] theorem Fab.draw_big (f : Fab) : (f.draw.2).big = f.big := rfl

/-! ### Fab.fresh -/

@[simp] theorem Fab.fresh_clock (f : Fab) : (f.fresh.2).clock = f.clock := rfl
@[simp] theorem Fab.fresh_cur (f : Fab) : (f.fresh.2).cur = f.cur := rfl
@[simp] theorem Fab.fresh_armP (f : Fab) : (f.fresh.2).armP = f.armP := rfl
@[simp] theorem Fab.fresh_elems (f : Fab) : (f.fresh.2).elems = f.elems := rfl
@[simp] theorem Fab.fresh_runs (f : Fab) : (f.fresh.2).runs = f.runs := rfl
@[simp] theorem Fab.fresh_images (f : Fab) : (f.fresh.2).images = f.images := rfl
@[simp] theorem Fab.fresh_mem (f : Fab) : (f.fresh.2).mem = f.mem := rfl
@[simp] theorem Fab.fresh_tags (f : Fab) : (f.fresh.2).tags = f.tags := rfl
@[simp] theorem Fab.fresh_evq (f : Fab) : (f.fresh.2).evq = f.evq := rfl
@[simp] theorem Fab.fresh_chans (f : Fab) : (f.fresh.2).chans = f.chans := rfl
@[simp] theorem Fab.fresh_pom (f : Fab) : (f.fresh.2).pom = f.pom := rfl
@[simp] theorem Fab.fresh_blocks (f : Fab) : (f.fresh.2).blocks = f.blocks := rfl
@[simp] theorem Fab.fresh_ingress (f : Fab) : (f.fresh.2).ingress = f.ingress := rfl
@[simp] theorem Fab.fresh_host (f : Fab) : (f.fresh.2).host = f.host := rfl
@[simp] theorem Fab.fresh_beryl (f : Fab) : (f.fresh.2).beryl = f.beryl := rfl
@[simp] theorem Fab.fresh_parts (f : Fab) : (f.fresh.2).parts = f.parts := rfl
@[simp] theorem Fab.fresh_pmode (f : Fab) : (f.fresh.2).pmode = f.pmode := rfl
@[simp] theorem Fab.fresh_sysRoot (f : Fab) : (f.fresh.2).sysRoot = f.sysRoot := rfl
@[simp] theorem Fab.fresh_sysFrames (f : Fab) : (f.fresh.2).sysFrames = f.sysFrames := rfl
@[simp] theorem Fab.fresh_tlb (f : Fab) : (f.fresh.2).tlb = f.tlb := rfl
@[simp] theorem Fab.fresh_migs (f : Fab) : (f.fresh.2).migs = f.migs := rfl
@[simp] theorem Fab.fresh_corr (f : Fab) : (f.fresh.2).corr = f.corr := rfl
@[simp] theorem Fab.fresh_cinches (f : Fab) : (f.fresh.2).cinches = f.cinches := rfl
@[simp] theorem Fab.fresh_colls (f : Fab) : (f.fresh.2).colls = f.colls := rfl
@[simp] theorem Fab.fresh_tapes (f : Fab) : (f.fresh.2).tapes = f.tapes := rfl
@[simp] theorem Fab.fresh_dieRes (f : Fab) : (f.fresh.2).dieRes = f.dieRes := rfl
@[simp] theorem Fab.fresh_tables (f : Fab) : (f.fresh.2).tables = f.tables := rfl
@[simp] theorem Fab.fresh_ents (f : Fab) : (f.fresh.2).ents = f.ents := rfl
@[simp] theorem Fab.fresh_insts (f : Fab) : (f.fresh.2).insts = f.insts := rfl
@[simp] theorem Fab.fresh_ops (f : Fab) : (f.fresh.2).ops = f.ops := rfl
@[simp] theorem Fab.fresh_dies (f : Fab) : (f.fresh.2).dies = f.dies := rfl
@[simp] theorem Fab.fresh_spares (f : Fab) : (f.fresh.2).spares = f.spares := rfl
@[simp] theorem Fab.fresh_keepers (f : Fab) : (f.fresh.2).keepers = f.keepers := rfl
@[simp] theorem Fab.fresh_keepq (f : Fab) : (f.fresh.2).keepq = f.keepq := rfl
@[simp] theorem Fab.fresh_free (f : Fab) : (f.fresh.2).free = f.free := rfl
@[simp] theorem Fab.fresh_big (f : Fab) : (f.fresh.2).big = f.big := rfl

/-! ### The fields written -/

@[simp] theorem Fab.at_evq (f : Fab) (t ph : Nat) (i : Instr) : (f.at t ph i).evq = f.evq ++ [⟨t, ph, .instr i⟩] := rfl
@[simp] theorem Fab.store_mem (f : Fab) (a : Nat) (bs : List Byte) : (f.store a bs).mem = memWrite f.mem a bs := rfl
@[simp] theorem Fab.setSram_mem (f : Fab) (a : Nat) (bs : List Byte) : (f.setSram a bs).mem = memWrite f.mem (sramBase + a) bs := rfl
@[simp] theorem Fab.modPom_pom (f : Fab) (g : Pommel → Pommel) : (f.modPom g).pom = g f.pom := rfl
@[simp] theorem Fab.taskNext_pom (f : Fab) : f.taskNext.pom = f.pom.advance := rfl
@[simp] theorem Fab.taskRet_pom (f : Fab) (d : BitVec 5) (v : W64) (n : Nat) : (f.taskRet d v n).pom = (f.pom.set d v n).advance := rfl
@[simp] theorem Fab.draw_free (f : Fab) : f.draw.2.free = f.free + 1 := rfl
@[simp] theorem Fab.fresh_seq (f : Fab) : f.fresh.2.seq = f.seq + 1 := rfl

/-! ### Slots -/

@[simp] theorem Slot.modLane_st (s : Slot) (l : LaneNo) (g : Lane → Lane) : (s.modLane l g).st = s.st := rfl
@[simp] theorem Slot.modLane_share (s : Slot) (l : LaneNo) (g : Lane → Lane) : (s.modLane l g).share = s.share := rfl
@[simp] theorem Slot.modLane_run (s : Slot) (l : LaneNo) (g : Lane → Lane) : (s.modLane l g).run = s.run := rfl
@[simp] theorem Slot.modLane_lastM (s : Slot) (l : LaneNo) (g : Lane → Lane) : (s.modLane l g).lastM = s.lastM := rfl
@[simp] theorem Slot.modLane_lastS (s : Slot) (l : LaneNo) (g : Lane → Lane) : (s.modLane l g).lastS = s.lastS := rfl
@[simp] theorem Slot.modLane_h (s : Slot) (l : LaneNo) (g : Lane → Lane) : (s.modLane l g).h = s.h := rfl
@[simp] theorem Slot.modLane_lvl (s : Slot) (l : LaneNo) (g : Lane → Lane) : (s.modLane l g).lvl = s.lvl := rfl
@[simp] theorem Slot.modLane_tapeIdx (s : Slot) (l : LaneNo) (g : Lane → Lane) : (s.modLane l g).tapeIdx = s.tapeIdx := rfl
@[simp] theorem Slot.modLane_pats (s : Slot) (l : LaneNo) (g : Lane → Lane) : (s.modLane l g).pats = s.pats := rfl
@[simp] theorem Slot.modLane_sig (s : Slot) (l : LaneNo) (g : Lane → Lane) : (s.modLane l g).sig = s.sig := rfl
@[simp] theorem Slot.modLane_sigN (s : Slot) (l : LaneNo) (g : Lane → Lane) : (s.modLane l g).sigN = s.sigN := rfl
@[simp] theorem Slot.modLane_sigP (s : Slot) (l : LaneNo) (g : Lane → Lane) : (s.modLane l g).sigP = s.sigP := rfl
@[simp] theorem Slot.modLane_tag (s : Slot) (l : LaneNo) (g : Lane → Lane) : (s.modLane l g).tag = s.tag := rfl
@[simp] theorem Slot.modLane_snap (s : Slot) (l : LaneNo) (g : Lane → Lane) : (s.modLane l g).snap = s.snap := rfl
@[simp] theorem Slot.modLane_reload (s : Slot) (l : LaneNo) (g : Lane → Lane) : (s.modLane l g).reload = s.reload := rfl
@[simp] theorem Slot.modLane_oldL (s : Slot) (l : LaneNo) (g : Lane → Lane) : (s.modLane l g).oldL = s.oldL := rfl
@[simp] theorem Slot.modLane_regs (s : Slot) (l : LaneNo) (g : Lane → Lane) : (s.modLane l g).regs = s.regs := rfl
@[simp] theorem Slot.modLane_emr (s : Slot) (l : LaneNo) (g : Lane → Lane) : (s.modLane l g).emr = s.emr := rfl
@[simp] theorem Slot.modLane_esr (s : Slot) (l : LaneNo) (g : Lane → Lane) : (s.modLane l g).esr = s.esr := rfl
@[simp] theorem Slot.modLane_esrIn (s : Slot) (l : LaneNo) (g : Lane → Lane) : (s.modLane l g).esrIn = s.esrIn := rfl
@[simp] theorem Slot.modLane_fb (s : Slot) (l : LaneNo) (g : Lane → Lane) : (s.modLane l g).fb = s.fb := rfl
@[simp] theorem Slot.modLane_lt (s : Slot) (l : LaneNo) (g : Lane → Lane) : (s.modLane l g).lt = s.lt := rfl
@[simp] theorem Slot.modLane_latch (s : Slot) (l : LaneNo) (g : Lane → Lane) : (s.modLane l g).latch = s.latch := rfl
@[simp] theorem Slot.modLane_latchP (s : Slot) (l : LaneNo) (g : Lane → Lane) : (s.modLane l g).latchP = s.latchP := rfl
@[simp] theorem Slot.modLane_cnt (s : Slot) (l : LaneNo) (g : Lane → Lane) : (s.modLane l g).cnt = s.cnt := rfl
@[simp] theorem Slot.modLane_dly (s : Slot) (l : LaneNo) (g : Lane → Lane) : (s.modLane l g).dly = s.dly := rfl
@[simp] theorem Slot.modLane_fifos (s : Slot) (l : LaneNo) (g : Lane → Lane) : (s.modLane l g).fifos = s.fifos := rfl
@[simp] theorem Slot.modLane_tp (s : Slot) (l : LaneNo) (g : Lane → Lane) : (s.modLane l g).tp = s.tp := rfl
@[simp] theorem Slot.modLane_recq (s : Slot) (l : LaneNo) (g : Lane → Lane) : (s.modLane l g).recq = s.recq := rfl
@[simp] theorem Slot.modLane_keyq (s : Slot) (l : LaneNo) (g : Lane → Lane) : (s.modLane l g).keyq = s.keyq := rfl
@[simp] theorem Slot.raise_st (s : Slot) (m : W32) : (s.raise m).st = s.st := rfl
@[simp] theorem Slot.raise_share (s : Slot) (m : W32) : (s.raise m).share = s.share := rfl
@[simp] theorem Slot.raise_run (s : Slot) (m : W32) : (s.raise m).run = s.run := rfl
@[simp] theorem Slot.raise_lanes (s : Slot) (m : W32) : (s.raise m).lanes = s.lanes := rfl
@[simp] theorem Slot.raise_lastM (s : Slot) (m : W32) : (s.raise m).lastM = s.lastM := rfl
@[simp] theorem Slot.raise_lastS (s : Slot) (m : W32) : (s.raise m).lastS = s.lastS := rfl
@[simp] theorem Slot.raise_h (s : Slot) (m : W32) : (s.raise m).h = s.h := rfl
@[simp] theorem Slot.raise_lvl (s : Slot) (m : W32) : (s.raise m).lvl = s.lvl := rfl
@[simp] theorem Slot.raise_tapeIdx (s : Slot) (m : W32) : (s.raise m).tapeIdx = s.tapeIdx := rfl
@[simp] theorem Slot.raise_pats (s : Slot) (m : W32) : (s.raise m).pats = s.pats := rfl
@[simp] theorem Slot.raise_sig (s : Slot) (m : W32) : (s.raise m).sig = s.sig := rfl
@[simp] theorem Slot.raise_sigN (s : Slot) (m : W32) : (s.raise m).sigN = s.sigN := rfl
@[simp] theorem Slot.raise_sigP (s : Slot) (m : W32) : (s.raise m).sigP = s.sigP := rfl
@[simp] theorem Slot.raise_tag (s : Slot) (m : W32) : (s.raise m).tag = s.tag := rfl
@[simp] theorem Slot.raise_snap (s : Slot) (m : W32) : (s.raise m).snap = s.snap := rfl
@[simp] theorem Slot.raise_reload (s : Slot) (m : W32) : (s.raise m).reload = s.reload := rfl
@[simp] theorem Slot.raise_oldL (s : Slot) (m : W32) : (s.raise m).oldL = s.oldL := rfl
@[simp] theorem Slot.raise_regs (s : Slot) (m : W32) : (s.raise m).regs = s.regs := rfl
@[simp] theorem Slot.raise_emr (s : Slot) (m : W32) : (s.raise m).emr = s.emr := rfl
@[simp] theorem Slot.raise_esrIn (s : Slot) (m : W32) : (s.raise m).esrIn = s.esrIn := rfl
@[simp] theorem Slot.raise_fb (s : Slot) (m : W32) : (s.raise m).fb = s.fb := rfl
@[simp] theorem Slot.raise_lt (s : Slot) (m : W32) : (s.raise m).lt = s.lt := rfl
@[simp] theorem Slot.raise_latch (s : Slot) (m : W32) : (s.raise m).latch = s.latch := rfl
@[simp] theorem Slot.raise_latchP (s : Slot) (m : W32) : (s.raise m).latchP = s.latchP := rfl
@[simp] theorem Slot.raise_cnt (s : Slot) (m : W32) : (s.raise m).cnt = s.cnt := rfl
@[simp] theorem Slot.raise_dly (s : Slot) (m : W32) : (s.raise m).dly = s.dly := rfl
@[simp] theorem Slot.raise_fifos (s : Slot) (m : W32) : (s.raise m).fifos = s.fifos := rfl
@[simp] theorem Slot.raise_tp (s : Slot) (m : W32) : (s.raise m).tp = s.tp := rfl
@[simp] theorem Slot.raise_recq (s : Slot) (m : W32) : (s.raise m).recq = s.recq := rfl
@[simp] theorem Slot.raise_keyq (s : Slot) (m : W32) : (s.raise m).keyq = s.keyq := rfl
@[simp] theorem writeReg_st (s : Slot) (sh : Share) (k : BitVec 5) (v : TV) : (writeReg sh k v s).st = s.st := rfl
@[simp] theorem writeReg_share (s : Slot) (sh : Share) (k : BitVec 5) (v : TV) : (writeReg sh k v s).share = s.share := rfl
@[simp] theorem writeReg_run (s : Slot) (sh : Share) (k : BitVec 5) (v : TV) : (writeReg sh k v s).run = s.run := rfl
@[simp] theorem writeReg_lanes (s : Slot) (sh : Share) (k : BitVec 5) (v : TV) : (writeReg sh k v s).lanes = s.lanes := rfl
@[simp] theorem writeReg_lastM (s : Slot) (sh : Share) (k : BitVec 5) (v : TV) : (writeReg sh k v s).lastM = s.lastM := rfl
@[simp] theorem writeReg_lastS (s : Slot) (sh : Share) (k : BitVec 5) (v : TV) : (writeReg sh k v s).lastS = s.lastS := rfl
@[simp] theorem writeReg_h (s : Slot) (sh : Share) (k : BitVec 5) (v : TV) : (writeReg sh k v s).h = s.h := rfl
@[simp] theorem writeReg_lvl (s : Slot) (sh : Share) (k : BitVec 5) (v : TV) : (writeReg sh k v s).lvl = s.lvl := rfl
@[simp] theorem writeReg_tapeIdx (s : Slot) (sh : Share) (k : BitVec 5) (v : TV) : (writeReg sh k v s).tapeIdx = s.tapeIdx := rfl
@[simp] theorem writeReg_pats (s : Slot) (sh : Share) (k : BitVec 5) (v : TV) : (writeReg sh k v s).pats = s.pats := rfl
@[simp] theorem writeReg_sig (s : Slot) (sh : Share) (k : BitVec 5) (v : TV) : (writeReg sh k v s).sig = s.sig := rfl
@[simp] theorem writeReg_sigN (s : Slot) (sh : Share) (k : BitVec 5) (v : TV) : (writeReg sh k v s).sigN = s.sigN := rfl
@[simp] theorem writeReg_sigP (s : Slot) (sh : Share) (k : BitVec 5) (v : TV) : (writeReg sh k v s).sigP = s.sigP := rfl
@[simp] theorem writeReg_tag (s : Slot) (sh : Share) (k : BitVec 5) (v : TV) : (writeReg sh k v s).tag = s.tag := rfl
@[simp] theorem writeReg_snap (s : Slot) (sh : Share) (k : BitVec 5) (v : TV) : (writeReg sh k v s).snap = s.snap := rfl
@[simp] theorem writeReg_reload (s : Slot) (sh : Share) (k : BitVec 5) (v : TV) : (writeReg sh k v s).reload = s.reload := rfl
@[simp] theorem writeReg_oldL (s : Slot) (sh : Share) (k : BitVec 5) (v : TV) : (writeReg sh k v s).oldL = s.oldL := rfl
@[simp] theorem writeReg_emr (s : Slot) (sh : Share) (k : BitVec 5) (v : TV) : (writeReg sh k v s).emr = s.emr := rfl
@[simp] theorem writeReg_esr (s : Slot) (sh : Share) (k : BitVec 5) (v : TV) : (writeReg sh k v s).esr = s.esr := rfl
@[simp] theorem writeReg_esrIn (s : Slot) (sh : Share) (k : BitVec 5) (v : TV) : (writeReg sh k v s).esrIn = s.esrIn := rfl
@[simp] theorem writeReg_fb (s : Slot) (sh : Share) (k : BitVec 5) (v : TV) : (writeReg sh k v s).fb = s.fb := rfl
@[simp] theorem writeReg_lt (s : Slot) (sh : Share) (k : BitVec 5) (v : TV) : (writeReg sh k v s).lt = s.lt := rfl
@[simp] theorem writeReg_latch (s : Slot) (sh : Share) (k : BitVec 5) (v : TV) : (writeReg sh k v s).latch = s.latch := rfl
@[simp] theorem writeReg_latchP (s : Slot) (sh : Share) (k : BitVec 5) (v : TV) : (writeReg sh k v s).latchP = s.latchP := rfl
@[simp] theorem writeReg_cnt (s : Slot) (sh : Share) (k : BitVec 5) (v : TV) : (writeReg sh k v s).cnt = s.cnt := rfl
@[simp] theorem writeReg_dly (s : Slot) (sh : Share) (k : BitVec 5) (v : TV) : (writeReg sh k v s).dly = s.dly := rfl
@[simp] theorem writeReg_fifos (s : Slot) (sh : Share) (k : BitVec 5) (v : TV) : (writeReg sh k v s).fifos = s.fifos := rfl
@[simp] theorem writeReg_tp (s : Slot) (sh : Share) (k : BitVec 5) (v : TV) : (writeReg sh k v s).tp = s.tp := rfl
@[simp] theorem writeReg_recq (s : Slot) (sh : Share) (k : BitVec 5) (v : TV) : (writeReg sh k v s).recq = s.recq := rfl
@[simp] theorem writeReg_keyq (s : Slot) (sh : Share) (k : BitVec 5) (v : TV) : (writeReg sh k v s).keyq = s.keyq := rfl
@[simp] theorem writeFb_st (s : Slot) (v : TV) : (writeFb v s).st = s.st := rfl
@[simp] theorem writeFb_share (s : Slot) (v : TV) : (writeFb v s).share = s.share := rfl
@[simp] theorem writeFb_run (s : Slot) (v : TV) : (writeFb v s).run = s.run := rfl
@[simp] theorem writeFb_lanes (s : Slot) (v : TV) : (writeFb v s).lanes = s.lanes := rfl
@[simp] theorem writeFb_lastM (s : Slot) (v : TV) : (writeFb v s).lastM = s.lastM := rfl
@[simp] theorem writeFb_lastS (s : Slot) (v : TV) : (writeFb v s).lastS = s.lastS := rfl
@[simp] theorem writeFb_h (s : Slot) (v : TV) : (writeFb v s).h = s.h := rfl
@[simp] theorem writeFb_lvl (s : Slot) (v : TV) : (writeFb v s).lvl = s.lvl := rfl
@[simp] theorem writeFb_tapeIdx (s : Slot) (v : TV) : (writeFb v s).tapeIdx = s.tapeIdx := rfl
@[simp] theorem writeFb_pats (s : Slot) (v : TV) : (writeFb v s).pats = s.pats := rfl
@[simp] theorem writeFb_sig (s : Slot) (v : TV) : (writeFb v s).sig = s.sig := rfl
@[simp] theorem writeFb_sigN (s : Slot) (v : TV) : (writeFb v s).sigN = s.sigN := rfl
@[simp] theorem writeFb_sigP (s : Slot) (v : TV) : (writeFb v s).sigP = s.sigP := rfl
@[simp] theorem writeFb_tag (s : Slot) (v : TV) : (writeFb v s).tag = s.tag := rfl
@[simp] theorem writeFb_snap (s : Slot) (v : TV) : (writeFb v s).snap = s.snap := rfl
@[simp] theorem writeFb_reload (s : Slot) (v : TV) : (writeFb v s).reload = s.reload := rfl
@[simp] theorem writeFb_oldL (s : Slot) (v : TV) : (writeFb v s).oldL = s.oldL := rfl
@[simp] theorem writeFb_regs (s : Slot) (v : TV) : (writeFb v s).regs = s.regs := rfl
@[simp] theorem writeFb_emr (s : Slot) (v : TV) : (writeFb v s).emr = s.emr := rfl
@[simp] theorem writeFb_esr (s : Slot) (v : TV) : (writeFb v s).esr = s.esr := rfl
@[simp] theorem writeFb_esrIn (s : Slot) (v : TV) : (writeFb v s).esrIn = s.esrIn := rfl
@[simp] theorem writeFb_lt (s : Slot) (v : TV) : (writeFb v s).lt = s.lt := rfl
@[simp] theorem writeFb_latch (s : Slot) (v : TV) : (writeFb v s).latch = s.latch := rfl
@[simp] theorem writeFb_latchP (s : Slot) (v : TV) : (writeFb v s).latchP = s.latchP := rfl
@[simp] theorem writeFb_cnt (s : Slot) (v : TV) : (writeFb v s).cnt = s.cnt := rfl
@[simp] theorem writeFb_dly (s : Slot) (v : TV) : (writeFb v s).dly = s.dly := rfl
@[simp] theorem writeFb_fifos (s : Slot) (v : TV) : (writeFb v s).fifos = s.fifos := rfl
@[simp] theorem writeFb_tp (s : Slot) (v : TV) : (writeFb v s).tp = s.tp := rfl
@[simp] theorem writeFb_recq (s : Slot) (v : TV) : (writeFb v s).recq = s.recq := rfl
@[simp] theorem writeFb_keyq (s : Slot) (v : TV) : (writeFb v s).keyq = s.keyq := rfl
@[simp] theorem writeLatch_st (s : Slot) (v : TV) : (writeLatch v s).st = s.st := rfl
@[simp] theorem writeLatch_share (s : Slot) (v : TV) : (writeLatch v s).share = s.share := rfl
@[simp] theorem writeLatch_run (s : Slot) (v : TV) : (writeLatch v s).run = s.run := rfl
@[simp] theorem writeLatch_lanes (s : Slot) (v : TV) : (writeLatch v s).lanes = s.lanes := rfl
@[simp] theorem writeLatch_lastM (s : Slot) (v : TV) : (writeLatch v s).lastM = s.lastM := rfl
@[simp] theorem writeLatch_lastS (s : Slot) (v : TV) : (writeLatch v s).lastS = s.lastS := rfl
@[simp] theorem writeLatch_h (s : Slot) (v : TV) : (writeLatch v s).h = s.h := rfl
@[simp] theorem writeLatch_lvl (s : Slot) (v : TV) : (writeLatch v s).lvl = s.lvl := rfl
@[simp] theorem writeLatch_tapeIdx (s : Slot) (v : TV) : (writeLatch v s).tapeIdx = s.tapeIdx := rfl
@[simp] theorem writeLatch_pats (s : Slot) (v : TV) : (writeLatch v s).pats = s.pats := rfl
@[simp] theorem writeLatch_sig (s : Slot) (v : TV) : (writeLatch v s).sig = s.sig := rfl
@[simp] theorem writeLatch_sigN (s : Slot) (v : TV) : (writeLatch v s).sigN = s.sigN := rfl
@[simp] theorem writeLatch_sigP (s : Slot) (v : TV) : (writeLatch v s).sigP = s.sigP := rfl
@[simp] theorem writeLatch_tag (s : Slot) (v : TV) : (writeLatch v s).tag = s.tag := rfl
@[simp] theorem writeLatch_snap (s : Slot) (v : TV) : (writeLatch v s).snap = s.snap := rfl
@[simp] theorem writeLatch_reload (s : Slot) (v : TV) : (writeLatch v s).reload = s.reload := rfl
@[simp] theorem writeLatch_oldL (s : Slot) (v : TV) : (writeLatch v s).oldL = s.oldL := rfl
@[simp] theorem writeLatch_regs (s : Slot) (v : TV) : (writeLatch v s).regs = s.regs := rfl
@[simp] theorem writeLatch_emr (s : Slot) (v : TV) : (writeLatch v s).emr = s.emr := rfl
@[simp] theorem writeLatch_esr (s : Slot) (v : TV) : (writeLatch v s).esr = s.esr := rfl
@[simp] theorem writeLatch_esrIn (s : Slot) (v : TV) : (writeLatch v s).esrIn = s.esrIn := rfl
@[simp] theorem writeLatch_fb (s : Slot) (v : TV) : (writeLatch v s).fb = s.fb := rfl
@[simp] theorem writeLatch_lt (s : Slot) (v : TV) : (writeLatch v s).lt = s.lt := rfl
@[simp] theorem writeLatch_cnt (s : Slot) (v : TV) : (writeLatch v s).cnt = s.cnt := rfl
@[simp] theorem writeLatch_dly (s : Slot) (v : TV) : (writeLatch v s).dly = s.dly := rfl
@[simp] theorem writeLatch_fifos (s : Slot) (v : TV) : (writeLatch v s).fifos = s.fifos := rfl
@[simp] theorem writeLatch_tp (s : Slot) (v : TV) : (writeLatch v s).tp = s.tp := rfl
@[simp] theorem writeLatch_recq (s : Slot) (v : TV) : (writeLatch v s).recq = s.recq := rfl
@[simp] theorem writeLatch_keyq (s : Slot) (v : TV) : (writeLatch v s).keyq = s.keyq := rfl

/-! ### Pommel -/

@[simp] theorem Pommel.advance_k (p : Pommel) : (p.advance).k = p.k := rfl
@[simp] theorem Pommel.advance_ready (p : Pommel) : (p.advance).ready = p.ready := rfl
@[simp] theorem Pommel.advance_pc (p : Pommel) : (p.advance).pc = p.pc + 4 := rfl
@[simp] theorem Pommel.advance_running (p : Pommel) : (p.advance).running = p.running := rfl
@[simp] theorem Pommel.advance_chan (p : Pommel) : (p.advance).chan = p.chan := rfl
@[simp] theorem Pommel.advance_nested (p : Pommel) : (p.advance).nested = p.nested := rfl
@[simp] theorem Pommel.advance_first (p : Pommel) : (p.advance).first = false := rfl
@[simp] theorem Pommel.advance_halted (p : Pommel) : (p.advance).halted = p.halted := rfl
@[simp] theorem Pommel.advance_next (p : Pommel) : (p.advance).next = p.next + 1 := rfl
@[simp] theorem Pommel.advance_start (p : Pommel) : (p.advance).start = p.start := rfl
@[simp] theorem Pommel.advance_stio (p : Pommel) : (p.advance).stio = p.stio := rfl
@[simp] theorem Pommel.advance_div (p : Pommel) : (p.advance).div = p.div := rfl
@[simp] theorem Pommel.advance_sbuf (p : Pommel) : (p.advance).sbuf = p.sbuf := rfl
@[simp] theorem Pommel.advance_corrected (p : Pommel) : (p.advance).corrected = p.corrected := rfl
@[simp] theorem Pommel.advance_timers (p : Pommel) : (p.advance).timers = p.timers := rfl
@[simp] theorem Pommel.advance_crypto (p : Pommel) : (p.advance).crypto = p.crypto := rfl
@[simp] theorem Pommel.advance_jobs (p : Pommel) : (p.advance).jobs = p.jobs := rfl
@[simp] theorem Pommel.advance_rr (p : Pommel) : (p.advance).rr = p.rr := rfl
@[simp] theorem Pommel.advance_perf (p : Pommel) : (p.advance).perf = p.perf := rfl
@[simp] theorem Pommel.jump_k (p : Pommel) (x : W64) : (p.jump x).k = p.k := rfl
@[simp] theorem Pommel.jump_ready (p : Pommel) (x : W64) : (p.jump x).ready = p.ready := rfl
@[simp] theorem Pommel.jump_pc (p : Pommel) (x : W64) : (p.jump x).pc = x := rfl
@[simp] theorem Pommel.jump_running (p : Pommel) (x : W64) : (p.jump x).running = p.running := rfl
@[simp] theorem Pommel.jump_chan (p : Pommel) (x : W64) : (p.jump x).chan = p.chan := rfl
@[simp] theorem Pommel.jump_nested (p : Pommel) (x : W64) : (p.jump x).nested = p.nested := rfl
@[simp] theorem Pommel.jump_first (p : Pommel) (x : W64) : (p.jump x).first = false := rfl
@[simp] theorem Pommel.jump_halted (p : Pommel) (x : W64) : (p.jump x).halted = p.halted := rfl
@[simp] theorem Pommel.jump_next (p : Pommel) (x : W64) : (p.jump x).next = p.next + 3 := rfl
@[simp] theorem Pommel.jump_start (p : Pommel) (x : W64) : (p.jump x).start = p.start := rfl
@[simp] theorem Pommel.jump_stio (p : Pommel) (x : W64) : (p.jump x).stio = p.stio := rfl
@[simp] theorem Pommel.jump_div (p : Pommel) (x : W64) : (p.jump x).div = p.div := rfl
@[simp] theorem Pommel.jump_sbuf (p : Pommel) (x : W64) : (p.jump x).sbuf = p.sbuf := rfl
@[simp] theorem Pommel.jump_corrected (p : Pommel) (x : W64) : (p.jump x).corrected = p.corrected := rfl
@[simp] theorem Pommel.jump_timers (p : Pommel) (x : W64) : (p.jump x).timers = p.timers := rfl
@[simp] theorem Pommel.jump_crypto (p : Pommel) (x : W64) : (p.jump x).crypto = p.crypto := rfl
@[simp] theorem Pommel.jump_jobs (p : Pommel) (x : W64) : (p.jump x).jobs = p.jobs := rfl
@[simp] theorem Pommel.jump_rr (p : Pommel) (x : W64) : (p.jump x).rr = p.rr := rfl
@[simp] theorem Pommel.jump_perf (p : Pommel) (x : W64) : (p.jump x).perf = p.perf := rfl
@[simp] theorem Pommel.idle_k (p : Pommel) : (p.idle).k = p.k := rfl
@[simp] theorem Pommel.idle_ready (p : Pommel) : (p.idle).ready = p.ready := rfl
@[simp] theorem Pommel.idle_pc (p : Pommel) : (p.idle).pc = p.pc := rfl
@[simp] theorem Pommel.idle_running (p : Pommel) : (p.idle).running = false := rfl
@[simp] theorem Pommel.idle_chan (p : Pommel) : (p.idle).chan = p.chan := rfl
@[simp] theorem Pommel.idle_nested (p : Pommel) : (p.idle).nested = p.nested := rfl
@[simp] theorem Pommel.idle_first (p : Pommel) : (p.idle).first = p.first := rfl
@[simp] theorem Pommel.idle_halted (p : Pommel) : (p.idle).halted = p.halted := rfl
@[simp] theorem Pommel.idle_next (p : Pommel) : (p.idle).next = p.next + 1 := rfl
@[simp] theorem Pommel.idle_start (p : Pommel) : (p.idle).start = p.start := rfl
@[simp] theorem Pommel.idle_stio (p : Pommel) : (p.idle).stio = p.stio := rfl
@[simp] theorem Pommel.idle_div (p : Pommel) : (p.idle).div = p.div := rfl
@[simp] theorem Pommel.idle_sbuf (p : Pommel) : (p.idle).sbuf = p.sbuf := rfl
@[simp] theorem Pommel.idle_corrected (p : Pommel) : (p.idle).corrected = p.corrected := rfl
@[simp] theorem Pommel.idle_timers (p : Pommel) : (p.idle).timers = p.timers := rfl
@[simp] theorem Pommel.idle_crypto (p : Pommel) : (p.idle).crypto = p.crypto := rfl
@[simp] theorem Pommel.idle_jobs (p : Pommel) : (p.idle).jobs = p.jobs := rfl
@[simp] theorem Pommel.idle_rr (p : Pommel) : (p.idle).rr = p.rr := rfl
@[simp] theorem Pommel.idle_perf (p : Pommel) : (p.idle).perf = p.perf := rfl
@[simp] theorem Pommel.set_pc (p : Pommel) (i : BitVec 5) (v : W64) (n : Nat) : (p.set i v n).pc = p.pc := by unfold Pommel.set; split <;> rfl
@[simp] theorem Pommel.set_running (p : Pommel) (i : BitVec 5) (v : W64) (n : Nat) : (p.set i v n).running = p.running := by unfold Pommel.set; split <;> rfl
@[simp] theorem Pommel.set_chan (p : Pommel) (i : BitVec 5) (v : W64) (n : Nat) : (p.set i v n).chan = p.chan := by unfold Pommel.set; split <;> rfl
@[simp] theorem Pommel.set_nested (p : Pommel) (i : BitVec 5) (v : W64) (n : Nat) : (p.set i v n).nested = p.nested := by unfold Pommel.set; split <;> rfl
@[simp] theorem Pommel.set_first (p : Pommel) (i : BitVec 5) (v : W64) (n : Nat) : (p.set i v n).first = p.first := by unfold Pommel.set; split <;> rfl
@[simp] theorem Pommel.set_halted (p : Pommel) (i : BitVec 5) (v : W64) (n : Nat) : (p.set i v n).halted = p.halted := by unfold Pommel.set; split <;> rfl
@[simp] theorem Pommel.set_next (p : Pommel) (i : BitVec 5) (v : W64) (n : Nat) : (p.set i v n).next = p.next := by unfold Pommel.set; split <;> rfl
@[simp] theorem Pommel.set_start (p : Pommel) (i : BitVec 5) (v : W64) (n : Nat) : (p.set i v n).start = p.start := by unfold Pommel.set; split <;> rfl
@[simp] theorem Pommel.set_stio (p : Pommel) (i : BitVec 5) (v : W64) (n : Nat) : (p.set i v n).stio = p.stio := by unfold Pommel.set; split <;> rfl
@[simp] theorem Pommel.set_div (p : Pommel) (i : BitVec 5) (v : W64) (n : Nat) : (p.set i v n).div = p.div := by unfold Pommel.set; split <;> rfl
@[simp] theorem Pommel.set_sbuf (p : Pommel) (i : BitVec 5) (v : W64) (n : Nat) : (p.set i v n).sbuf = p.sbuf := by unfold Pommel.set; split <;> rfl
@[simp] theorem Pommel.set_corrected (p : Pommel) (i : BitVec 5) (v : W64) (n : Nat) : (p.set i v n).corrected = p.corrected := by unfold Pommel.set; split <;> rfl
@[simp] theorem Pommel.set_timers (p : Pommel) (i : BitVec 5) (v : W64) (n : Nat) : (p.set i v n).timers = p.timers := by unfold Pommel.set; split <;> rfl
@[simp] theorem Pommel.set_crypto (p : Pommel) (i : BitVec 5) (v : W64) (n : Nat) : (p.set i v n).crypto = p.crypto := by unfold Pommel.set; split <;> rfl
@[simp] theorem Pommel.set_jobs (p : Pommel) (i : BitVec 5) (v : W64) (n : Nat) : (p.set i v n).jobs = p.jobs := by unfold Pommel.set; split <;> rfl
@[simp] theorem Pommel.set_rr (p : Pommel) (i : BitVec 5) (v : W64) (n : Nat) : (p.set i v n).rr = p.rr := by unfold Pommel.set; split <;> rfl
@[simp] theorem Pommel.set_perf (p : Pommel) (i : BitVec 5) (v : W64) (n : Nat) : (p.set i v n).perf = p.perf := by unfold Pommel.set; split <;> rfl

end Sys2Proof.Machine
end

