-- ==== Sys2Proof/Laws/Memory.lean ====
section
/-! SUPPORT. Tables and memory: a read after a write, and the canonical form that every memory operation keeps. -/

namespace Sys2Proof.Machine

/-! ### Tables -/

/-- A read of a table after an entry is set. -/
theorem mget_mput {α : Type} (a k : Nat) (v : α) (m : FMap α) : mget a (mput k v m) = if k = a then some v else mget a m := by
  induction m with
  | nil => simp [mput, mget]
  | cons x m ih =>
    obtain ⟨j, w⟩ := x
    unfold mput
    split
    · simp [mget]
    · split
      · rename_i h h'; subst h'; by_cases hk : k = a <;> simp [mget, hk]
      · rename_i h h'
        by_cases hj : j = a
        · subst hj; simp [mget, h']
        · simp [mget, hj, ih]

@[simp] theorem mget_mput_same {α : Type} (k : Nat) (v : α) (m : FMap α) : mget k (mput k v m) = some v := by simp [mget_mput]

theorem mget_mput_ne {α : Type} {a k : Nat} (h : k ≠ a) (v : α) (m : FMap α) : mget a (mput k v m) = mget a m := by
  simp [mget_mput, h]

/-- A read of a table after an entry is removed. -/
theorem mget_mdel {α : Type} (a k : Nat) (m : FMap α) : mget a (mdel k m) = if k = a then none else mget a m := by
  induction m with
  | nil => simp [mdel, mget]
  | cons x m ih =>
    obtain ⟨j, w⟩ := x
    by_cases hj : j = k
    · subst hj; simp only [mdel, if_pos, ih, mget]; by_cases h : j = a <;> simp [h]
    · by_cases ha : j = a
      · subst ha; simp [mdel, mget, hj, Ne.symm hj]
      · simp [mdel, mget, hj, ha, ih]

/-- A read of a table after an entry that is there changes. -/
theorem mget_mmod {α : Type} (a k : Nat) (g : α → α) (m : FMap α) :
    mget a (mmod k g m) = if k = a then (mget a m).map g else mget a m := by
  unfold mmod
  by_cases h : k = a
  · subst h; cases hm : mget k m <;> simp [hm]
  · cases hm : mget k m <;> simp [h, mget_mput]

/-! ### Bytes -/

theorem memGet_memErase (m : List Host.Cell) (a x : Nat) :
    memGet (memErase m a) x = if x = a then memDefault else memGet m x := by
  induction m with
  | nil => simp [memErase, memGet]
  | cons y m ih =>
    obtain ⟨k, c⟩ := y
    by_cases h : k = a
    · subst h
      have e : (k = x) = (x = k) := propext eq_comm
      simp only [memErase, if_pos, ih, memGet, e]; by_cases hx : x = k <;> simp [hx]
    · by_cases hx : k = x
      · subst hx; simp [memErase, memGet, h]
      · simp [memErase, memGet, h, hx, ih]

theorem memGet_memPut (m : List Host.Cell) (a x : Nat) (b : Byte) :
    memGet (memPut m a b) x = if x = a then b else memGet m x := by
  have e : ∀ k, (k = x) = (x = k) := fun k => propext eq_comm
  induction m with
  | nil => simp [memPut, memGet, e]
  | cons y m ih =>
    obtain ⟨k, c⟩ := y
    unfold memPut
    split
    · simp [memGet, e]
    · split
      · rename_i _ h; subst h; by_cases h : x = a <;> simp [memGet, e, h]
      · rename_i _ h
        by_cases hk : x = k
        · subst hk; simp [memGet, Ne.symm h]
        · simp [memGet, e, hk, ih]

/-- A read of memory after one byte is set. -/
theorem memGet_memSet (m : List Host.Cell) (a x : Nat) (b : Byte) :
    memGet (memSet m a b) x = if x = a then b else memGet m x := by
  unfold memSet
  split
  · rename_i h; simp [memGet_memErase, h]
  · exact memGet_memPut m a x b

/-- A higher bound of a list of cells is a bound below it too. -/
theorem memWfFrom_le {m : List Host.Cell} {lo lo' : Nat} (h : lo' ≤ lo) (hm : memWfFrom lo m = true) : memWfFrom lo' m = true := by
  cases m with
  | nil => rfl
  | cons x m =>
    obtain ⟨k, c⟩ := x
    simp only [memWfFrom, Bool.and_eq_true, decide_eq_true_eq] at hm ⊢
    exact ⟨⟨by omega, hm.1.2⟩, hm.2⟩

theorem memWfFrom_memErase (m : List Host.Cell) (lo a : Nat) (hm : memWfFrom lo m = true) :
    memWfFrom lo (memErase m a) = true := by
  induction m generalizing lo with
  | nil => rfl
  | cons y m ih =>
    obtain ⟨k, c⟩ := y
    simp only [memWfFrom, Bool.and_eq_true, decide_eq_true_eq, bne_iff_ne, ne_eq] at hm
    unfold memErase
    split
    · exact memWfFrom_le (by omega) (ih _ hm.2)
    · simp [memWfFrom, hm.1.1, hm.1.2, ih _ hm.2]

theorem memWfFrom_memPut (m : List Host.Cell) (lo a : Nat) (b : Byte) (ha : lo ≤ a) (hb : b ≠ memDefault)
    (hm : memWfFrom lo m = true) : memWfFrom lo (memPut m a b) = true := by
  induction m generalizing lo with
  | nil => simp [memPut, memWfFrom, hb, ha]
  | cons y m ih =>
    obtain ⟨k, c⟩ := y
    simp only [memWfFrom, Bool.and_eq_true, decide_eq_true_eq, bne_iff_ne, ne_eq] at hm
    obtain ⟨⟨hlo, hc⟩, hrest⟩ := hm
    unfold memPut
    split
    · simp [memWfFrom, ha, hb, hc, hrest, show a + 1 ≤ k by omega]
    · split
      · rename_i _ h; subst h; simp [memWfFrom, ha, hb, hrest]
      · simp [memWfFrom, hlo, hc, ih (k + 1) (by omega) hrest]

/-- Addresses dropped keep the canonical form (a partition-mode change and a task image drop ranges: R130, R339). -/
theorem memWfFrom_filter (p : Host.Cell → Bool) (m : List Host.Cell) (lo : Nat) (hm : memWfFrom lo m = true) :
    memWfFrom lo (m.filter p) = true := by
  induction m generalizing lo with
  | nil => rfl
  | cons y m ih =>
    obtain ⟨k, c⟩ := y
    simp only [memWfFrom, Bool.and_eq_true, decide_eq_true_eq, bne_iff_ne, ne_eq] at hm
    by_cases h : p (k, c)
    · simp [h, memWfFrom, hm.1.1, hm.1.2, ih _ hm.2]
    · simpa [h] using memWfFrom_le (by omega) (ih _ hm.2)

theorem memFilter_wf {m : List Host.Cell} (p : Host.Cell → Bool) (hm : Memory.wf m = true) : Memory.wf (m.filter p) = true :=
  memWfFrom_filter p m 0 hm

/-- Setting a byte keeps the canonical form. -/
theorem memSet_wf {m : List Host.Cell} (a : Nat) (b : Byte) (hm : Memory.wf m = true) : Memory.wf (memSet m a b) = true := by
  unfold memSet
  split
  · exact memWfFrom_memErase m 0 a hm
  · rename_i h; exact memWfFrom_memPut m 0 a b (Nat.zero_le a) h hm

/-- Writing bytes keeps the canonical form. -/
theorem memWrite_wf {m : List Host.Cell} (a : Nat) (bs : List Byte) (hm : Memory.wf m = true) :
    Memory.wf (memWrite m a bs) = true := by
  induction bs generalizing m a with
  | nil => exact hm
  | cons b bs ih => exact ih (a + 1) (memSet_wf a b hm)

/-- A read of memory after bytes are written. -/
theorem memGet_memWrite (m : List Host.Cell) (a x : Nat) (bs : List Byte) :
    memGet (memWrite m a bs) x = if a ≤ x ∧ x < a + bs.length then bs.getD (x - a) 0 else memGet m x := by
  induction bs generalizing m a with
  | nil => rw [if_neg (by simp)]; rfl
  | cons b bs ih =>
    rw [memWrite, ih, memGet_memSet]
    simp only [List.length_cons]
    by_cases h1 : x = a
    · subst h1; rw [if_neg (by omega), if_pos rfl, if_pos (by omega), Nat.sub_self]; rfl
    · by_cases h2 : a + 1 ≤ x ∧ x < a + 1 + bs.length
      · rw [if_pos h2, if_pos (by omega), show x - a = (x - (a + 1)) + 1 by omega]; rfl
      · rw [if_neg h2, if_neg h1, if_neg (by omega)]

/-- The bytes of an address range after memory is written outside it. -/
theorem memBytes_memWrite_disjoint (m : List Host.Cell) (a x n : Nat) (bs : List Byte)
    (h : x + n ≤ a ∨ a + bs.length ≤ x) : memBytes (memWrite m a bs) x n = memBytes m x n := by
  induction n generalizing x with
  | zero => rfl
  | succ n ih =>
    simp only [memBytes]
    rw [ih (x + 1) (by omega), memGet_memWrite, if_neg (by omega)]

/-- The bytes written are the bytes read. -/
theorem memBytes_memWrite_same (m : List Host.Cell) (a : Nat) (bs : List Byte) :
    memBytes (memWrite m a bs) a bs.length = bs := by
  induction bs generalizing m a with
  | nil => rfl
  | cons b bs ih =>
    simp only [memWrite, List.length_cons, memBytes]
    rw [ih, memGet_memWrite, if_neg (by omega), memGet_memSet, if_pos rfl]

/-- Memory after reset has the canonical form. -/
theorem reset_mem_wf : Memory.wf State.reset.fab.mem = true := rfl

/-- Storing bytes keeps the canonical form. -/
theorem Fab.store_wf {f : Fab} (a : Nat) (bs : List Byte) (h : Memory.wf f.mem = true) : Memory.wf (f.store a bs).mem = true :=
  memWrite_wf a bs h

/-! ### Tags (R167) -/

/-- Tag bits after those of one word are set. -/
theorem Fab.tag_setTag (f : Fab) (a x t : Nat) : (f.setTag a t).tag x = if a / 8 = x / 8 then t else f.tag x := by
  unfold Fab.tag Fab.setTag
  by_cases h : t = 0
  · subst h; by_cases hx : a / 8 = x / 8 <;> simp [mget_mdel, hx]
  · by_cases hx : a / 8 = x / 8 <;> simp [mget_mput, h, hx]

end Sys2Proof.Machine
end

