-- ==== Sys2Proof/Laws/Elements.lean ====
section
/-! SUPPORT. Elements, slots, lanes, runs and channels: a read after an update. -/

namespace Sys2Proof.Machine

/-- A vector's entry after one is set at a bounded number. -/
theorem vget_set_ofNat {α : Type} {n : Nat} [NeZero n] (v : Vector α n) (a b : Nat) (x : α) (h : a % n < n) :
    (v.set (a % n) x h).get (Fin.ofNat n b) = if a % n = b % n then x else v.get (Fin.ofNat n b) := by
  show (v.set (a % n) x h)[b % n]'_ = if a % n = b % n then x else v[b % n]'_
  simp only [Vector.getElem_set]

/-- A vector's entry after one is set. -/
theorem vget_set {α : Type} {n : Nat} (v : Vector α n) (i j : Fin n) (x : α) :
    (v.set i.val x).get j = if i = j then x else v.get j := by
  show (v.set i.val x)[j.val] = if i = j then x else v[j.val]
  simp only [Vector.getElem_set, Fin.ext_iff]

/-! ### Elements and slots -/

theorem Fab.elem_setElem (f : Fab) (e y : ElemId) (x : Elem) : (f.setElem e x).elem y = if e = y then x else f.elem y := by
  simp only [Fab.elem, Fab.setElem, mget_mput]
  by_cases h : e = y <;> simp [h]

theorem Fab.elem_modElem (f : Fab) (e y : ElemId) (g : Elem → Elem) :
    (f.modElem e g).elem y = if e = y then g (f.elem e) else f.elem y := Fab.elem_setElem f e y _

@[simp] theorem Fab.elem_modElem_same (f : Fab) (e : ElemId) (g : Elem → Elem) : (f.modElem e g).elem e = g (f.elem e) := by
  simp [Fab.elem_modElem]

theorem Fab.elem_modElem_ne {e y : ElemId} (h : e ≠ y) (f : Fab) (g : Elem → Elem) : (f.modElem e g).elem y = f.elem y := by
  simp [Fab.elem_modElem, h]

/-- The elements do not depend on the rest of the fabric. -/
theorem Fab.elem_congr {f g : Fab} (h : f.elems = g.elems) (x : ElemId) : f.elem x = g.elem x := by simp [Fab.elem, h]

@[simp] theorem Elem.slot_setSlot_same (x : Elem) (c : Ctx) (s : Slot) : (x.setSlot c s).slot c = s := by
  simp [Elem.slot, Elem.setSlot, vget_set]

theorem Elem.slot_setSlot (x : Elem) (c k : Ctx) (s : Slot) : (x.setSlot c s).slot k = if c = k then s else x.slot k := by
  simp [Elem.slot, Elem.setSlot, vget_set]

@[simp] theorem Fab.slot_modSlot_same (f : Fab) (e : ElemId) (c : Ctx) (g : Slot → Slot) :
    (f.modSlot e c g).slot e c = g (f.slot e c) := by
  simp [Fab.slot, Fab.modSlot]

theorem Fab.slot_modSlot (f : Fab) (e y : ElemId) (c k : Ctx) (g : Slot → Slot) :
    (f.modSlot e c g).slot y k = if e = y ∧ c = k then g (f.slot e c) else f.slot y k := by
  by_cases h : e = y
  · subst h; by_cases h' : c = k <;> simp [Fab.slot, Fab.modSlot, Elem.slot_setSlot, h']
  · simp [Fab.slot, Fab.modSlot, Fab.elem_modElem_ne h, h]

@[simp] theorem Slot.lane_modLane_same (s : Slot) (l : LaneNo) (g : Lane → Lane) : (s.modLane l g).lane l = g (s.lane l) := by
  simp [Slot.lane, Slot.modLane, vget_set]

theorem Slot.lane_modLane (s : Slot) (l m : LaneNo) (g : Lane → Lane) :
    (s.modLane l g).lane m = if l = m then g (s.lane l) else s.lane m := by
  simp [Slot.lane, Slot.modLane, vget_set]

theorem Fab.lane_modLane (f : Fab) (e y : ElemId) (c k : Ctx) (l m : LaneNo) (g : Lane → Lane) :
    (f.modLane e c l g).lane y k m = if e = y ∧ c = k ∧ l = m then g (f.lane e c l) else f.lane y k m := by
  simp only [Fab.lane, Fab.modLane, Fab.slot_modSlot]
  by_cases h : e = y ∧ c = k
  · obtain ⟨rfl, rfl⟩ := h
    by_cases h' : l = m <;> simp [Slot.lane_modLane, h']
  · rw [if_neg h, if_neg (fun h' => h ⟨h'.1, h'.2.1⟩)]

/-- A slot changed but for its lanes leaves every lane. -/
theorem Fab.lane_modSlot (f : Fab) (e y : ElemId) (c k : Ctx) (m : LaneNo) (g : Slot → Slot)
    (h : (g (f.slot e c)).lanes = (f.slot e c).lanes) : (f.modSlot e c g).lane y k m = f.lane y k m := by
  simp only [Fab.lane, Fab.slot_modSlot]
  by_cases hy : e = y ∧ c = k
  · obtain ⟨rfl, rfl⟩ := hy; simp [Slot.lane, h]
  · simp [hy]

/-! ### Slots and elements but for their lanes -/

@[simp] theorem Slot.still_still (s : Slot) : s.still.still = s.still := rfl
@[simp] theorem Slot.still_modLane (s : Slot) (l : LaneNo) (g : Lane → Lane) : (s.modLane l g).still = s.still := rfl

theorem Elem.still_setSlot (x : Elem) (c : Ctx) (s : Slot) : (x.setSlot c s).still = x.still.setSlot c s.still := by
  simp [Elem.still, Elem.setSlot, Vector.map_set]

theorem Elem.slot_still (x : Elem) (c : Ctx) : x.still.slot c = (x.slot c).still := by
  show (x.slots.map Slot.still)[c.val] = Slot.still x.slots[c.val]
  simp

theorem Elem.setSlot_slot (x : Elem) (c : Ctx) : x.setSlot c (x.slot c) = x := by
  obtain ⟨slots, _⟩ := x
  simp only [Elem.setSlot, Elem.slot, Vector.get, Elem.mk.injEq, and_true]
  ext i hi
  simp only [Vector.getElem_set]
  split
  · rename_i h; subst h; rfl
  · rfl

/-- What an element's slots hold but for their lanes, from the element but for its lanes. -/
theorem Elem.still_slot {x y : Elem} (h : x.still = y.still) (c : Ctx) : (x.slot c).still = (y.slot c).still := by
  rw [← Elem.slot_still, ← Elem.slot_still, h]

theorem Slot.still_eq {s t : Slot} (h : s.still = t.still) : { s with lanes := t.lanes } = t := by
  have : ({ s.still with lanes := t.lanes } : Slot) = { t.still with lanes := t.lanes } := by rw [h]
  exact this

/-! ### Runs and channels -/

theorem Fab.run_modRun (f : Fab) (r k : Nat) (g : Run → Run) (h : (mget r f.runs).isSome) :
    (f.modRun r g).run k = if r = k then g (f.run r) else f.run k := by
  obtain ⟨x, hx⟩ := Option.isSome_iff_exists.1 h
  by_cases hk : r = k
  · subst hk; simp [Fab.run, Fab.modRun, mget_mmod, hx]
  · simp [Fab.run, Fab.modRun, mget_mmod, hk]

theorem Fab.chan_modChan (f : Fab) (ch k : Nat) (g : Chan → Chan) :
    (f.modChan ch g).chan k = if ch % 64 = k % 64 then g (f.chan ch) else f.chan k :=
  vget_set_ofNat f.chans ch k (g (f.chan ch)) (Nat.mod_lt ch (by decide))

@[simp] theorem Fab.chan_modChan_same (f : Fab) (ch : Nat) (g : Chan → Chan) : (f.modChan ch g).chan ch = g (f.chan ch) := by
  rw [Fab.chan_modChan, if_pos rfl]

/-! ### The field (R15) -/

theorem neighbour_eq (e x : Nat) (d : Dir) : neighbour e d = some x ↔
    match d with
    | .n => e / 60 ≠ 0 ∧ e - 60 = x
    | .e => e % 60 ≠ 59 ∧ e + 1 = x
    | .s => e / 60 ≠ 31 ∧ e + 60 = x
    | .w => e % 60 ≠ 0 ∧ e - 1 = x := by
  have key : ∀ (p : Prop) [Decidable p] (a : Nat), ((if p then none else some a) = some x) ↔ (¬ p ∧ a = x) := fun p _ a => by
    by_cases h : p <;> simp [h]
  cases d <;> exact key _ _

/-- No element is its own neighbour. -/
theorem neighbour_ne {e x : ElemId} {d : Dir} (h : neighbour e d = some x) : x ≠ e := by
  intro hx
  subst hx
  have := (neighbour_eq x x d).1 h
  cases d <;> simp only at this <;> omega

/-- Different edges lead to different neighbours. -/
theorem neighbour_inj {e x : ElemId} {d d' : Dir} (h : neighbour e d = some x) (h' : neighbour e d' = some x) : d = d' := by
  have a := (neighbour_eq e x d).1 h
  have b := (neighbour_eq e x d').1 h'
  cases d <;> cases d' <;> first
    | rfl
    | (exfalso; simp only at a b; omega)

theorem dirs_find (p : Dir → Bool) (d : Dir) (hd : p d = true) (hu : ∀ d', p d' = true → d' = d) : dirs.find? p = some d := by
  have : ∀ d', d' ≠ d → p d' = false := fun d' h => by
    cases hp : p d'
    · rfl
    · exact absurd (hu d' hp) h
  cases d <;> simp [dirs, hd, this]

end Sys2Proof.Machine
end

