-- ==== Sys2Proof/Laws/Rows.lean ====
section
/-! SUPPORT. What the operations of a row do, each said once: heads taken, tokens pushed, the slot changed, a result delivered. -/

namespace Sys2Proof.Machine

/-! ### Building up what a row does -/

/-- One more push. -/
def Out.put (o : Out) (d : Dir) (l : LaneNo) (v : Nat × Token) : Out := fun d' l' => if d' = d ∧ l' = l then some v else o d' l'

theorem Row.laneAfter_neighbour (r : Row) (pops : List LaneNo) (out : Out) {d : Dir} {x : ElemId} (h : neighbour r.e d = some x)
    (l : LaneNo) : r.laneAfter pops out x r.c l =
      match out d l with
      | some (n, t) => (r.f.lane x r.c l).push r.now n t
      | none => r.f.lane x r.c l := by
  have hd : dirs.find? (fun d => neighbour r.e d == some x) = some d :=
    dirs_find _ d (by simp [h]) fun d' hd' => neighbour_inj (by simpa using hd') h
  simp only [Row.laneAfter, neighbour_ne h, hd, ne_eq, not_true_eq_false, if_false]
  try (cases out d l <;> rfl)

theorem Row.laneAfter_far (r : Row) (pops : List LaneNo) (out out' : Out) {x : ElemId} (h : ∀ d, neighbour r.e d ≠ some x)
    (k : Ctx) (l : LaneNo) : r.laneAfter pops out x k l = r.laneAfter pops out' x k l := by
  have hd : dirs.find? (fun d => neighbour r.e d == some x) = none := by
    simp [List.find?_eq_none, h]
  simp [Row.laneAfter, hd]

theorem Row.laneAfter_congr (r : Row) (pops : List LaneNo) (out out' : Out) (x : ElemId) (k : Ctx) (l : LaneNo)
    (h : ∀ d, neighbour r.e d = some x → out d l = out' d l) : r.laneAfter pops out x k l = r.laneAfter pops out' x k l := by
  by_cases hx : ∃ d, neighbour r.e d = some x
  · obtain ⟨d, hd⟩ := hx
    by_cases hk : k = r.c
    · subst hk; rw [r.laneAfter_neighbour pops out hd, r.laneAfter_neighbour pops out' hd, h d hd]
    · simp [Row.laneAfter, hk]
  · exact r.laneAfter_far pops out out' (fun d hd => hx ⟨d, hd⟩) k l

theorem Row.Effect.clock {r : Row} {new pops out f} (h : r.Effect new pops out f) : f.clock = r.now := by
  have := congrArg Fab.clock h.rest
  exact this

theorem Row.Effect.refl (r : Row) : r.Effect r.sl [] Out.none r.f where
  rest := rfl
  mem _ := rfl
  own := by
    show r.el.still = (r.el.setSlot r.c r.sl).still
    rw [show r.sl = r.el.slot r.c from rfl, Elem.setSlot_slot]
  others _ _ := rfl
  lanes x k l := by
    unfold Row.laneAfter Out.none
    repeat' split
    all_goals first
      | rfl
      | contradiction
      | simp_all
  events := ⟨[], by simp⟩
  due _ _ _ _ _ _ h := by simp [Out.none] at h

/-- The slot of the row but for its lanes. -/
theorem Row.Effect.slot {r : Row} {new pops out f} (h : r.Effect new pops out f) : (f.slot r.e r.c).still = new.still := by
  have := Elem.still_slot h.own r.c
  rw [Elem.slot_setSlot_same] at this
  exact this

/-- The head of one more lane taken. -/
theorem Row.Effect.pop {r : Row} {new pops out f} (h : r.Effect new pops out f) {l : LaneNo} (hl : l ∉ pops) :
    r.Effect new (l :: pops) out (f.modLane r.e r.c l fun x => x.pop f.clock) where
  rest := h.rest
  mem := h.mem
  own := by
    rw [← h.own]
    simp [Fab.modLane, Fab.modSlot, Elem.still_setSlot, Fab.elem_modElem_same]
    rw [← Elem.slot_still, Elem.setSlot_slot]
  others x hx := by rw [← h.others x hx, Fab.modLane, Fab.modSlot, Fab.elem_modElem_ne (Ne.symm hx)]
  lanes x k m := by
    rw [Fab.lane_modLane]
    split
    · rename_i hh
      obtain ⟨rfl, rfl, rfl⟩ := hh
      rw [h.lanes, h.clock]
      simp [Row.laneAfter, hl]
    · rename_i hh
      rw [h.lanes]
      unfold Row.laneAfter
      split
      · rfl
      · rename_i hk
        split
        · rename_i hx
          have : m ≠ l := fun e => hh ⟨hx.symm, (Classical.not_not.1 hk).symm, e.symm⟩
          simp [this]
        · rfl
  events := h.events
  due := h.due

theorem Row.Effect.popLanes {r : Row} {new pops out f} (h : r.Effect new pops out f) (ls : List LaneNo) (hn : ls.Nodup)
    (hd : ∀ l ∈ ls, l ∉ pops) : r.Effect new (ls.reverse ++ pops) out (f.popLanes r.e r.c ls) := by
  induction ls generalizing f pops with
  | nil => simpa [Fab.popLanes] using h
  | cons l ls ih =>
    have hl := h.pop (hd l (by simp))
    have := ih hl (List.nodup_cons.1 hn).2 (fun m hm => by
      simp only [List.mem_cons, not_or]
      exact ⟨fun e => (List.nodup_cons.1 hn).1 (e ▸ hm), hd m (by simp [hm])⟩)
    simpa [Fab.popLanes] using this

/-- Only which lanes are taken counts. -/
theorem Row.Effect.pops_congr {r : Row} {new pops out f} (h : r.Effect new pops out f) {pops' : List LaneNo}
    (hp : ∀ l, pops.contains l = pops'.contains l) : r.Effect new pops' out f :=
  { h with lanes := fun x k l => by rw [h.lanes]; unfold Row.laneAfter; simp only [hp] }

/-- Only what is pushed toward neighbours counts. -/
theorem Row.Effect.out_congr {r : Row} {new pops out f} (h : r.Effect new pops out f) {out' : Out}
    (ho : ∀ d x, neighbour r.e d = some x → ∀ l, out d l = out' d l) : r.Effect new pops out' f :=
  { h with
    lanes := fun x k l => by rw [h.lanes]; exact r.laneAfter_congr pops out out' x k l fun d hd => ho d x hd l
    due := fun d x l n t hd hl => h.due d x l n t hd (by rw [ho d x hd]; exact hl) }

/-- The slot changed but for its lanes. -/
theorem Row.Effect.modSlot {r : Row} {new pops out f} (h : r.Effect new pops out f) (g : Slot → Slot)
    (hg : ∀ s ls, g { s with lanes := ls } = { g s with lanes := ls }) :
    r.Effect (g new) pops out (f.modSlot r.e r.c g) := by
  have hgl : ∀ s, (g s).lanes = s.lanes := fun s => by
    have := congrArg Slot.lanes (hg s s.lanes)
    simpa using this
  have hgs : (g (f.slot r.e r.c)).still = (g new).still := by
    rw [← Slot.still_eq (show new.still = (f.slot r.e r.c).still from h.slot.symm), hg]; rfl
  exact {
    rest := h.rest
    mem := h.mem
    own := by
      simp only [Fab.modSlot, Elem.still_setSlot, Fab.elem_modElem_same]
      rw [h.own, Elem.still_setSlot, show (f.elem r.e).slot r.c = f.slot r.e r.c from rfl, hgs]
      simp [Elem.setSlot]
    others := fun x hx => by rw [← h.others x hx, Fab.modSlot, Fab.elem_modElem_ne (Ne.symm hx)]
    lanes := fun x k l => by rw [Fab.lane_modSlot _ _ _ _ _ _ _ (hgl _), h.lanes]
    events := h.events
    due := h.due }

/-- A token pushed on a lane of a neighbour and due there. -/
theorem Row.Effect.push {r : Row} {new pops out f} (h : r.Effect new pops out f) {d : Dir} {x : ElemId}
    (hx : neighbour r.e d = some x) {l : LaneNo} (hl : out d l = none) (n : Nat) (t : Token) :
    r.Effect new pops (out.put d l (n, t))
      ((f.modLane x r.c l fun y => y.push f.clock n t).at (f.clock + n) 0 (arrivalOf x r.c l)) where
  rest := h.rest
  mem := h.mem
  own := by
    rw [← h.own]
    show ((f.modLane x r.c l _).elem r.e).still = _
    rw [Fab.modLane, Fab.modSlot, Fab.elem_modElem_ne (neighbour_ne hx)]
  others y hy := by
    rw [← h.others y hy]
    show ((f.modLane x r.c l _).elem y).still = _
    by_cases hxy : x = y
    · subst hxy
      simp [Fab.modLane, Fab.modSlot, Elem.still_setSlot, Fab.elem_modElem_same]
      rw [← Elem.slot_still, Elem.setSlot_slot]
    · rw [Fab.modLane, Fab.modSlot, Fab.elem_modElem_ne hxy]
  lanes y k m := by
    show (f.modLane x r.c l _).lane y k m = _
    rw [Fab.lane_modLane]
    split
    · rename_i hh
      obtain ⟨rfl, rfl, rfl⟩ := hh
      rw [h.lanes, h.clock, r.laneAfter_neighbour pops out hx, r.laneAfter_neighbour pops _ hx, hl]
      simp [Out.put]
    · rename_i hh
      rw [h.lanes]
      by_cases hk : k = r.c
      · subst hk
        refine r.laneAfter_congr pops _ _ y r.c m fun d' hd' => ?_
        unfold Out.put
        split
        · rename_i hdm
          obtain ⟨rfl, rfl⟩ := hdm
          rw [hx] at hd'
          exact absurd ⟨Option.some.inj hd', rfl, rfl⟩ hh
        · rfl
      · simp [Row.laneAfter, hk]
  events := by
    obtain ⟨q, hq⟩ := h.events
    exact ⟨q ++ [⟨f.clock + n, 0, .instr (arrivalOf x r.c l)⟩], by simp [Fab.at, hq]⟩
  due d' x' l' n' t' hd' hl' := by
    unfold Out.put at hl'
    rw [Fab.at_evq, List.mem_append]
    split at hl'
    · rename_i hh
      obtain ⟨rfl, rfl⟩ := hh
      rw [hx] at hd'
      obtain rfl := Option.some.inj hd'
      obtain ⟨rfl, rfl⟩ := Prod.mk.inj (Option.some.inj hl')
      exact .inr (by simp [h.clock])
    · exact .inl (h.due d' x' l' n' t' hd' hl')

theorem dataLane_lt (d : Dir) (k : Nat) : (dataLane d k).val < 8 := by
  have := Nat.mod_lt k (y := 2) (by omega)
  cases d <;> simp [dataLane, dirIdx, Fin.ofNat] <;> omega

theorem ctlLane_ge (d : Dir) : ¬ (ctlLane d).val < 8 := by cases d <;> decide

/-- A data token pushed on a link (R137). -/
theorem Row.Effect.pushLink {r : Row} {new pops out f} (h : r.Effect new pops out f) (d : Dir) (k : Nat) (t : Token)
    (hl : out d (dataLane (oppDir d) k) = none) :
    r.Effect new pops (out.put d (dataLane (oppDir d) k) (hop r.e d, t)) (f.pushLink r.e r.c d k t) := by
  unfold Fab.pushLink
  split
  · rename_i hn
    exact h.out_congr fun d' x hd' l => by
      have : d' ≠ d := fun e => by rw [e, hn] at hd'; simp at hd'
      simp [Out.put, this]
  · rename_i x hx
    have := h.push hx hl (hop r.e d) t
    simpa [arrivalOf, dataLane_lt] using this

/-- A control token pushed on an edge (R146). -/
theorem Row.Effect.pushCtl {r : Row} {new pops out f} (h : r.Effect new pops out f) (d : Dir) (v p : Bool)
    (hl : out d (ctlLane (oppDir d)) = none) :
    r.Effect new pops (out.put d (ctlLane (oppDir d)) (1, { v := bit 32 v, p := p, ty := .ctl })) (f.pushCtl r.e r.c d v p) := by
  unfold Fab.pushCtl
  split
  · rename_i hn
    exact h.out_congr fun d' x hd' l => by
      have : d' ≠ d := fun e => by rw [e, hn] at hd'; simp at hd'
      simp [Out.put, this]
  · rename_i x hx
    have := h.push hx hl 1 { v := bit 32 v, p := p, ty := .ctl }
    simpa [arrivalOf, ctlLane_ge] using this

/-- Data tokens pushed on every link of a mask (R140). -/
theorem Row.Effect.pushMask {r : Row} {new pops out f} (h : r.Effect new pops out f) (m : BitVec 4) (tok : Ty → Token)
    (hl : ∀ d, out d (dataLane (oppDir d) (r.sh.outTrack d)) = none) :
    r.Effect new pops (out.and (r.linksOut m tok)) (f.pushMask r.e r.c r.sh m tok) := by
  have step : ∀ {o : Out} {g : Fab} (d : Dir), r.Effect new pops o g → (o d (dataLane (oppDir d) (r.sh.outTrack d)) = none) →
      r.Effect new pops (fun d' l => if d' = d then (o d' l).or (r.linksOut m tok d' l) else o d' l)
        (if maskBit m d then g.pushLink r.e r.c d (r.sh.outTrack d) (tok (r.sh.outType d)) else g) := by
    intro o g d ho hd
    split
    · rename_i hm
      refine (ho.pushLink d _ _ hd).out_congr fun d' x _ l => ?_
      unfold Out.put Row.linksOut
      by_cases hdd : d' = d
      · subst hdd
        by_cases hll : l = dataLane (oppDir d') (r.sh.outTrack d')
        · subst hll; simp [hm, hd]
        · simp [hll]
      · simp [hdd]
    · rename_i hm
      refine ho.out_congr fun d' x _ l => ?_
      by_cases hdd : d' = d
      · subst hdd; simp [Row.linksOut, hm]
      · simp [hdd]
  have h1 := step .n h (hl .n)
  have h2 := step .e h1 (by simpa using hl .e)
  have h3 := step .s h2 (by simpa using hl .s)
  have h4 := step .w h3 (by simpa using hl .w)
  exact h4.out_congr fun d x _ l => by cases d <;> simp [Out.and]

/-- Control tokens pushed on every edge of a mask (R146). -/
theorem Row.Effect.pushCtlMask {r : Row} {new pops out f} (h : r.Effect new pops out f) (m : BitVec 4) (v p : Bool)
    (hl : ∀ d, out d (ctlLane (oppDir d)) = none) :
    r.Effect new pops (out.and (Row.ctlOut m v p)) (f.pushCtlMask r.e r.c m v p) := by
  have step : ∀ {o : Out} {g : Fab} (d : Dir), r.Effect new pops o g → (o d (ctlLane (oppDir d)) = none) →
      r.Effect new pops (fun d' l => if d' = d then (o d' l).or (Row.ctlOut m v p d' l) else o d' l)
        (if maskBit m d then g.pushCtl r.e r.c d v p else g) := by
    intro o g d ho hd
    split
    · rename_i hm
      refine (ho.pushCtl d v p hd).out_congr fun d' x _ l => ?_
      unfold Out.put Row.ctlOut
      by_cases hdd : d' = d
      · subst hdd
        by_cases hll : l = ctlLane (oppDir d')
        · subst hll; simp [hm, hd]
        · simp [hll]
      · simp [hdd]
    · rename_i hm
      refine ho.out_congr fun d' x _ l => ?_
      by_cases hdd : d' = d
      · subst hdd; simp [Row.ctlOut, hm]
      · simp [hdd]
  have h1 := step .n h (hl .n)
  have h2 := step .e h1 (by simpa using hl .e)
  have h3 := step .s h2 (by simpa using hl .s)
  have h4 := step .w h3 (by simpa using hl .w)
  exact h4.out_congr fun d x _ l => by cases d <;> simp [Out.and]

/-- What a keeper notes of a row. -/
theorem Row.Effect.keep {r : Row} {new pops out f} (h : r.Effect new pops out f) (t : TV) (esr : W32) :
    r.Effect new pops out (r.keep t esr f) := by
  unfold Row.keep
  split
  · exact h
  · split
    · exact {
        rest := h.rest
        mem := h.mem
        own := h.own
        others := h.others
        lanes := h.lanes
        events := by
          obtain ⟨q, hq⟩ := h.events
          exact ⟨q ++ [⟨r.now + 3, 2, .instr (.keeperCompare f.seq)⟩], by simp [Fab.at, Fab.fresh, hq]⟩
        due := fun d x l n t hd hl => by
          rw [Fab.at_evq]
          exact List.mem_append_left _ (h.due d x l n t hd hl) }
    · exact h

/-! ### A result delivered -/

/-- A result delivered by a row that records no tape: destinations, FB, flags, EMR (R83-R85, R140). -/
theorem Row.finish_effect {r : Row} {new pops out f} (h : r.Effect new pops out f) (hs : new.share = r.sl.share)
    (hl : ∀ d, out d (dataLane (oppDir d) (r.sh.outTrack d)) = none) (ht : r.tape = none) (t : TV) (esr emr : W32) :
    r.Effect (r.slotWith new (r.armed t) esr emr) pops
      (out.and (r.linksOut (Route.links r.wr.route) fun ty => linkToken ty (r.armed t))) (r.finish f t esr emr) := by
  have hsh : (f.slot r.e r.c).share.getD {} = r.sh := by
    have := congrArg Slot.share h.slot
    simp only [Slot.still] at this
    rw [this, hs]; rfl
  have htg : r.tapeAt r.g = none := ht
  unfold Row.finish Row.record Row.recordAt
  simp only [htg]
  have h1 := h.pushMask (Route.links r.wr.route) (fun ty => linkToken ty (r.armed t)) hl
  have h2 := h1.modSlot (fun s =>
    let s := if r.wr.route.reg then writeReg r.sh r.wr.reg.rd (r.armed t) s else s
    if r.wr.route.ctl then writeLatch (r.armed t) s else s) (fun s ls => by
      by_cases hr : r.wr.route.reg <;> by_cases hc : r.wr.route.ctl <;> simp [hr, hc, writeReg, writeLatch])
  have h3 := h2.modSlot (fun s => { writeFb (r.armed t) s with esr := s.esr ||| esr, emr := emr })
    (fun s ls => by simp [writeFb])
  have h4 := h3.keep (r.armed t) esr
  have key : (Row.slotWith r new (r.armed t) esr emr) = (fun s => { writeFb (r.armed t) s with esr := s.esr ||| esr, emr := emr } : Slot → Slot)
      ((fun s =>
        let s := if r.wr.route.reg then writeReg r.sh r.wr.reg.rd (r.armed t) s else s
        if r.wr.route.ctl then writeLatch (r.armed t) s else s : Slot → Slot) new) := by
    by_cases hr : r.wr.route.reg <;> by_cases hc : r.wr.route.ctl <;>
      simp [hr, hc, Row.slotWith, writeReg, writeLatch, writeFb, contained]
  rw [key]
  unfold Fab.deliver
  rw [hsh]
  simpa using h4

theorem eraseDups_one (a : LaneNo) : [a].eraseDups = [a] := by revert a; decide

theorem eraseDups_two (a b : LaneNo) : [a, b].eraseDups = if a = b then [a] else [a, b] := by revert a b; decide

theorem eraseDups_options (a b : Option LaneNo) : (a.toList ++ b.toList).eraseDups.Nodup := by
  cases a <;> cases b
  · decide
  · simp [eraseDups_one]
  · simp [eraseDups_one]
  · simp only [Option.toList, List.cons_append, List.nil_append, eraseDups_two]
    split <;> simp_all

theorem Row.consumed_nodup (r : Row) : r.consumed.Nodup := by
  unfold Row.consumed
  generalize r.laneA = a
  generalize r.laneB = b
  dsimp only
  split <;> split
  · decide
  · exact eraseDups_options none b
  · exact eraseDups_options a none
  · exact eraseDups_options a b

/-- The heads that a row takes. -/
theorem Row.consumed_effect (r : Row) : r.Effect r.sl r.consumed Out.none (r.f.popLanes r.e r.c r.consumed) := by
  have h := (Row.Effect.refl r).popLanes r.consumed r.consumed_nodup (by simp)
  exact h.pops_congr fun l => by simp

/-- A row of queue C without a wait or a push takes its heads and nothing else. -/
theorem Row.taken_effect (r : Row) (hw : r.waitFifo = none) (hp : r.pushFifo = none) :
    r.Effect r.sl r.consumed Out.none r.taken := by
  have := r.consumed_effect.modSlot r.tokens (fun s ls => by simp [Row.tokens, hw, hp])
  simpa [Row.taken, Row.tokens, hw, hp] using this

/-- A row of queue C that takes its heads and delivers a result. -/
theorem Row.finish_delivers (r : Row) (hw : r.waitFifo = none) (hp : r.pushFifo = none) (ha : r.f.armP = false)
    (ht : r.tape = none) (t : TV) (esr emr : W32) : r.Delivers t esr emr (r.finish r.taken t esr emr) := by
  have h := Row.finish_effect (r.taken_effect hw hp) rfl (by simp [Out.none]) ht t esr emr
  have ha' : r.armed t = t := by simp [Row.armed, underPoison, ha]
  rw [ha'] at h
  exact h.out_congr fun d x _ l => by simp [Out.and, Out.none]

end Sys2Proof.Machine
end

