-- ==== Sys2Proof/Laws/Compute.lean ====
section
/-! SUPPORT. Rows that compute: what the shared operations of the arithmetic, routing and query rows do, each said once. -/

namespace Sys2Proof.Machine

/-- The opcode of a row, from the opcode map. -/
theorem State.row_opc {s : State} {i : Instr} {n : BitVec 8} (h : Laws.Opcode.row i = some n) : (s.row i).opc = n.toNat := by
  have := (Laws.Opcode.all i).1
  rw [h] at this
  obtain ⟨p, hp, he⟩ := Option.map_eq_some_iff.1 this
  simp only [Row.opc, State.row, Fab.rowCtx, opWord, hp, Option.map_some, Option.getD_some, he]

/-- A row of the arithmetic or routing forms waits for no FIFO and pushes none (R34). -/
theorem Row.no_fifo {r : Row} (h : formOf r.opc ≠ .om ∧ formOf r.opc ≠ .ox) : r.waitFifo = none ∧ r.pushFifo = none := by
  unfold Row.waitFifo Row.pushFifo
  cases hf : formOf r.opc <;> simp_all

/-- A computing row that executes on operands without poison: its result, flags and draw are those of its computation, and nothing
else changes (R83-R86). -/
theorem aluRow_delivers {s : State} {i : Instr} {n : BitVec 8} (hn : Laws.Opcode.row i = some n)
    (hf : formOf n.toNat ≠ .om ∧ formOf n.toNat ≠ .ox) (hx : s.executes i) (u : Uses) (dflt : Ty) (sem : AluIn → AluOut)
    (hp : ∀ t ∈ ((s.row i).aluIn dflt).operands u, t.p = false) :
    ∃ t, aluRow (opWord i) (wiresOf i) u dflt sem s = .next t ∧ t.agenda = s.agenda ∧
      (s.row i).Delivers ((sem ((s.row i).aluIn dflt)).result ((s.row i).aluIn dflt) (s.row i).e)
        ((sem ((s.row i).aluIn dflt)).esr ((s.row i).aluIn dflt))
        (if (sem ((s.row i).aluIn dflt)).draw && ((s.row i).aluIn dflt).rm = .rsr
          then setLfsr (s.row i).sl.emr (lfsrNext (lfsrOf (s.row i).sl.emr)) else (s.row i).sl.emr) t.fab := by
  refine ⟨_, rfl, rfl, ?_⟩
  obtain ⟨hw, hq⟩ := Row.no_fifo (r := s.row i) (by rw [State.row_opc hn]; exact hf)
  have hfirst : firstPoison (((s.row i).aluIn dflt).operands u) = none := by
    simp only [firstPoison, List.find?_eq_none]
    intro t ht; simp [hp t ht]
  show (s.row i).Delivers _ _ _ ((s.row i).issue (s.row i).planDefault ((s.row i).compute u dflt sem))
  rw [hx.1]
  simp only [Row.issue, Row.compute, aluResult, hfirst]
  exact Row.finish_delivers _ hw hq hx.2.1 hx.2.2 _ _ _

/-- A computing row with a poison operand delivers the first poison's payload, raises no flag and draws nothing (R86). -/
theorem aluRow_poison {s : State} {i : Instr} {n : BitVec 8} (hn : Laws.Opcode.row i = some n)
    (hf : formOf n.toNat ≠ .om ∧ formOf n.toNat ≠ .ox) (hx : s.executes i) (u : Uses) (dflt : Ty) (sem : AluIn → AluOut)
    {p : TV} (hp : firstPoison (((s.row i).aluIn dflt).operands u) = some p) :
    ∃ t, aluRow (opWord i) (wiresOf i) u dflt sem s = .next t ∧ t.agenda = s.agenda ∧
      (s.row i).Delivers ⟨p.v, true, (s.row i).resTy dflt⟩ 0 (s.row i).sl.emr t.fab := by
  refine ⟨_, rfl, rfl, ?_⟩
  obtain ⟨hw, hq⟩ := Row.no_fifo (r := s.row i) (by rw [State.row_opc hn]; exact hf)
  show (s.row i).Delivers _ _ _ ((s.row i).issue (s.row i).planDefault ((s.row i).compute u dflt sem))
  rw [hx.1]
  simp only [Row.issue, Row.compute, aluResult, hp]
  exact Row.finish_delivers _ hw hq hx.2.1 hx.2.2 _ _ _

/-- A row that holds changes nothing (R83, R139). -/
theorem aluRow_holds {s : State} {i : Instr} (h : (s.row i).planDefault = .hold) (u : Uses) (dflt : Ty) (sem : AluIn → AluOut) :
    aluRow (opWord i) (wiresOf i) u dflt sem s = .next s := by
  show Host.Outcome.next { s with fab := (s.row i).issue (s.row i).planDefault ((s.row i).compute u dflt sem) } = _
  rw [h]; rfl

end Sys2Proof.Machine
end

