-- ==== Sys2Proof/Laws/Pommel.lean ====
section
/-! SUPPORT. What Pommel's shared operations do: a register read after a write, a result delivered, a message sent, a trap taken. -/

namespace Sys2Proof.Machine

/-- k0 reads as zero (R40). -/
@[simp] theorem Pommel.r_zero (p : Pommel) : p.r 0 = 0 := rfl

/-- A register after a write of one: the value written, or what it held; k0 stays zero. -/
theorem Pommel.r_set (p : Pommel) (i j : BitVec 5) (v : W64) (n : Nat) :
    (p.set i v n).r j = if j = 0 then 0 else if i = j then v else p.r j := by
  unfold Pommel.r
  by_cases hj : j = 0
  · rw [if_pos hj, if_pos hj]
  · rw [if_neg hj, if_neg hj, if_neg hj]
    unfold Pommel.set
    by_cases hi : i = 0
    · rw [if_pos hi, if_neg fun h : i = j => hj (h ▸ hi)]
    · rw [if_neg hi]
      refine (vget_set p.k i.toFin j.toFin v).trans ?_
      by_cases h : i = j
      · rw [if_pos h, if_pos (congrArg _ h)]
      · rw [if_neg h, if_neg fun e => h (BitVec.eq_of_toFin_eq e)]

@[simp] theorem Pommel.r_advance (p : Pommel) (i : BitVec 5) : p.advance.r i = p.r i := rfl
@[simp] theorem Pommel.r_jump (p : Pommel) (a : W64) (i : BitVec 5) : (p.jump a).r i = p.r i := rfl
@[simp] theorem Pommel.r_idle (p : Pommel) (i : BitVec 5) : p.idle.r i = p.r i := rfl

/-- What an instruction with a result leaves in Pommel's registers and pc (R94). -/
theorem Fab.taskRet_r (f : Fab) (d j : BitVec 5) (v : W64) (n : Nat) :
    (f.taskRet d v n).pom.r j = if j = 0 then 0 else if d = j then v else f.pom.r j := Pommel.r_set f.pom d j v n

theorem Fab.taskRet_pc (f : Fab) (d : BitVec 5) (v : W64) (n : Nat) : (f.taskRet d v n).pom.pc = f.pom.pc + 4 := by
  simp [Fab.taskRet, Fab.modPom, Pommel.advance]

/-- A message sent changes channels alone (R110, R112). -/
theorem Fab.send_eq (f : Fab) (ch : Nat) (m : Msg) : f.send ch m = { f with chans := (f.send ch m).chans } := by
  unfold Fab.send Fab.modChan
  split
  · rfl
  · split <;> rfl

/-- Channels after a message is sent: the message stands last in its channel, or is lost and counted there, or Pommel is halted (R112). -/
theorem Fab.send_chan (f : Fab) (ch k : Nat) (m : Msg) :
    (f.send ch m).chan k =
      if f.pom.halted ∨ ch % 64 ≠ k % 64 then f.chan k
      else if f.chanFull ch then { f.chan ch with lost := min 255 ((f.chan ch).lost + 1) }
      else { f.chan ch with q := (f.chan ch).q ++ [m] } := by
  unfold Fab.send
  by_cases hh : f.pom.halted
  · simp [hh]
  · by_cases hf : f.chanFull ch <;> by_cases hk : ch % 64 = k % 64 <;> simp [hh, hf, hk, Fab.chan_modChan]

/-- A trap is held by an outstanding STIO, is a double fault, or is a message on channel 0 after which no task runs (R115-R119). -/
theorem Fab.trap_cases (f : Fab) (cause w : Nat) (x : W64) :
    (f.pom.next < f.pom.stio ∧ f.trap cause w x = { f with pom := { f.pom with next := f.pom.stio } }) ∨
    (∃ w0, f.trap cause w x = f.doubleFault w0 ∧
      ((f.pom.chan = 0 ∧ (f.pom.nested ∨ (f.pom.first ∧ cause = trapFetch))) ∨ f.chanFull 0)) ∨
    (∃ m, f.trap cause w x = { f.send 0 m with pom := { f.pom with running := false } } ∧ m.w2 = x ∧ f.chanFull 0 = false) := by
  unfold Fab.trap
  dsimp only
  split
  · exact .inl ⟨‹_›, rfl⟩
  · split
    · rename_i h
      simp only [Bool.or_eq_true, Bool.and_eq_true, beq_iff_eq] at h
      exact .inr (.inl ⟨_, rfl, h⟩)
    · rename_i h
      simp only [Bool.or_eq_true, not_or, Bool.not_eq_true] at h
      exact .inr (.inr ⟨_, rfl, rfl, h.2⟩)

/-- A double fault halts Pommel, drives FAULT_N low and reports DOUBLEFAULT (R119). -/
theorem Fab.doubleFault_spec (f : Fab) (w0 : W64) :
    (f.doubleFault w0).pom.halted = true ∧ (f.doubleFault w0).pom.running = false ∧ (f.doubleFault w0).host.dfrec = w0 ∧
      (f.doubleFault w0).host.fault = true ∧ (f.doubleFault w0).host.partState = 3 ∧ (f.doubleFault w0).mem = f.mem ∧
      (f.doubleFault w0).chans = f.chans := by
  unfold Fab.doubleFault Fab.respond
  dsimp only
  split <;> simp

end Sys2Proof.Machine
end

