-- ==== Sys2Proof/Tests/Slice0.lean ====
section
/-! SUPPORT. Tests: words of the spec decode, ill-formed words and terms are refused, and for every statement that has hypotheses a concrete
state that meets them, with what one step does there by hand. -/

set_option Elab.async false

namespace Sys2Proof.Tests
open Sys2Proof.Machine

/-! ## Decoding (R34-R45) -/

/-- Route word 0xFF08 and register-address word 0x000B: no source, the result in w5. -/
def wz : Wires := { route := { a := 15, b := 15, reg := true }, reg := { rd := 5, we := true } }

/-- Op words on these wires decode to these rows. -/
noncomputable def rowsDecode (l : List (BitVec 24 × Instr)) : Bool := l.all fun (w, i) => decide ((decodeRow w 0xFF08 0x000B).toOption = some i)
/-- Task-core words decode to these instructions. -/
noncomputable def tasksDecode (l : List (BitVec 32 × Instr)) : Bool := l.all fun (w, i) => decide ((decodeTask w).toOption = some i)

/-- Wires from source codes, the destinations N, E, S, W, register, latch as a mask, and ra, rb, rd (R37, R39). -/
def wires (a b : BitVec 4) (mask : BitVec 6) (ra rb rd : BitVec 5) : Wires :=
  { route := { a := a, b := b, n := mask.getLsbD 5, e := mask.getLsbD 4, s := mask.getLsbD 3, w := mask.getLsbD 2,
               reg := mask.getLsbD 1, ctl := mask.getLsbD 0 }
    reg := { ra := ra, rb := rb, rd := rd, we := mask.getLsbD 1 } }

/-- Three ring words decode to a row. -/
def rowIs (op : BitVec 24) (route reg : BitVec 16) (i : Instr) : Bool := decide ((decodeRow op route reg).toOption = some i)

-- The rows that the spec encodes in its own text (02 R38, R84, 04 R89 and its examples, 07 and 08 examples, 09 to 14).
theorem test_spec_rows : (
    rowIs 0x030BFD 0x4F20 0 (.addi 1 (-3) (wires 4 15 0b001000 0 0 0)) &&
    rowIs 0x010000 0x1008 0x0107 (.add 0 0 (wires 1 0 0b000010 0 4 3)) &&
    rowIs 0x250201 0xFF08 0x0011 (.movSpecialRead 0 1 (wires 15 15 0b000010 0 0 8)) &&
    rowIs 0x510108 0x0F08 0x1809 (.lutix 0 1 8 (wires 0 15 0b000010 3 0 4)) &&
    rowIs 0x500000 0x0008 0x190B (.lut 0 0 0 (wires 0 0 0b000010 3 4 5)) &&
    rowIs 0x540000 0x0040 0x2880 (.rexp 0 0 (wires 0 0 0b010000 5 2 0)) &&
    rowIs 0x5A0000 0x3440 0 (.mergea 0 (wires 3 4 0b010000 0 0 0)) &&
    rowIs 0x6D4000 0xFF00 0 (.armx 4 0 0 (wires 15 15 0 0 0 0)) &&
    rowIs 0x244040 0xFF08 0x0005 (.movhi 0x4040 (wires 15 15 0b000010 0 0 2)) &&
    rowIs 0x730905 0x0040 0x2000 (.ldt 0 2 0 1 0 5 (wires 0 0 0b010000 4 0 0)) &&
    rowIs 0x700C00 0xFF08 0x0009 (.talloc 3 0 0 0 (wires 15 15 0b000010 0 0 4)) &&
    rowIs 0x7B1540 0x0000 0x1100 (.tfill 5 0 1 1 (wires 0 0 0 2 4 0)) &&
    rowIs 0x803602 0x0040 0x2040 (.gld 3 1 1 0 0 2 (wires 0 0 0b010000 4 1 0)) &&
    rowIs 0x841144 0x0F00 0x2000 (.strmi 4 0 1 1 4 (wires 0 15 0 4 0 0)) &&
    rowIs 0x880021 0xFF08 0x000B (.sprg 0 0 0 2 1 wz) &&
    rowIs 0x910800 0x0008 0x204D (.acas 0 0 0 0 0 (wires 0 0 0b000010 4 1 6)) &&
    rowIs 0x93000C 0xFF00 0 (.fence 12 (wires 15 15 0 0 0 0)) &&
    rowIs 0xC52400 0xFF08 0x000B (.carr 9 0 wz) &&
    rowIs 0xA016C0 0xFF00 0 (.mma 5 1 0 3 (wires 15 15 0 0 0 0)) &&
    rowIs 0xA32540 0x0000 0x2140 (.mmab 9 0 1 1 (wires 0 0 0 4 5 0)) &&
    rowIs 0xA60002 0xFF08 0x000F (.mprg 2 (wires 15 15 0b000010 0 0 7)) &&
    rowIs 0xBD1810 0x0F08 0x2013 (.layr 6 1 (wires 0 15 0b000010 4 0 9)) &&
    rowIs 0xB00150 0xFF00 0 (.xld 0 0 1 1 1 0 (wires 15 15 0 0 0 0)) &&
    rowIs 0xB30021 0x0F08 0x180D (.vqx 0 0 0 2 1 (wires 0 15 0b000010 3 0 6)) &&
    rowIs 0xB90940 0x0000 0x0880 (.dcmpj 2 0 1 1 (wires 0 0 0 1 2 0)) &&
    rowIs 0xBA0000 0xFF08 0x000B (.dcmpq 0 0 0 0 0 wz) &&
    rowIs 0x6B0000 0xFF08 0x000F (.frmq 0 (wires 15 15 0b000010 0 0 7)) &&
    rowIs 0x310800 0x0008 0x204B (.fsub 0 1 (wires 0 0 0b000010 4 1 5)) &&
    rowIs 0x330000 0x0B08 0x2005 (.fma 0 0 (wires 0 11 0b000010 4 0 2)) &&
    rowIs 0x3B0000 0x0004 0x1840 (.fcmplt 0 (wires 0 0 0b000001 3 1 0)) &&
    rowIs 0xD30400 0xFF00 0 (.tapek 1 (wires 15 15 0 0 0 0)) &&
    rowIs 0xD40000 0xFF00 0 (.mark (wires 15 15 0 0 0 0)) &&
    rowIs 0xD50002 0xFF08 0x000B (.snapq 2 wz) &&
    rowIs 0xD60000 0xFF08 0x000B (.rtag wz) &&
    rowIs 0xD70006 0xFF40 0 (.poisn 6 (wires 15 15 0b010000 0 0 0)) &&
    rowIs 0xD80000 0x1F08 0x0007 (.poisq (wires 1 15 0b000010 0 0 3)) &&
    rowIs 0xD90002 0xFF00 0 (.verd 2 (wires 15 15 0 0 0 0)) &&
    rowIs 0xDC0800 0x0F40 0x2800 (.cmpv 2 (wires 0 15 0b010000 5 0 0))) = true := by decide +kernel

-- The task-core words that the spec encodes in its own text (05, 08, 09, 13, 14).
theorem test_spec_tasks : tasksDecode [
    (0xF5190009, .send 3 4 9), (0xFB819C00, .timeq 16 6 14), (0xF3524400, .ldio 10 9 0x400), (0x80190008, .gldTask 3 4 8),
    (0x8B190A00, .aaddTask 3 4 5), (0xE4580C00, .ctxsw 11 0 6), (0xE5500000, .drnq 10 0 0), (0xE0734000, .lnch 14 13 0),
    (0xDA190000, .purge 3 4), (0xDB190000, .keepc 3 4), (0xD9190A00, .verdTask 3 4 5)] = true := by decide +kernel

theorem test_decode_row_0 : rowsDecode [
    (0b00000000_0000_1_00000000000#24, .nop 1 wz),
    (0b00000001_0000_1_0_0000001100#24, .add 1 12 wz),
    (0b00000010_0000_1_0_0000001100#24, .sub 1 12 wz),
    (0b00000011_0000_1_0_0000001100#24, .addi 1 12 wz),
    (0b00000100_0000_1_0_0000001100#24, .mul 1 12 wz),
    (0b00000101_0000_1_0_0000001100#24, .mulh 1 12 wz),
    (0b00000110_0000_1_0_0000001100#24, .mulhn 1 12 wz),
    (0b00001011_0000_1_0_0000001100#24, .min 1 12 wz),
    (0b00001100_0000_1_0_0000001100#24, .max 1 12 wz),
    (0b00001101_0000_1_0_0000001100#24, .minn 1 12 wz),
    (0b00001110_0000_1_0_0000001100#24, .maxn 1 12 wz),
    (0b00001111_0000_1_0_0000001100#24, .abs 1 12 wz)] = true := by decide +kernel

theorem test_decode_row_1 : rowsDecode [
    (0b00010000_0000_1_0_0000001100#24, .neg 1 12 wz),
    (0b00010001_0000_1_0_0000001100#24, .and 1 12 wz),
    (0b00010010_0000_1_0_0000001100#24, .or 1 12 wz),
    (0b00010011_0000_1_0_0000001100#24, .xor 1 12 wz),
    (0b00010100_0000_1_0_0000001100#24, .andn 1 12 wz),
    (0b00010101_0000_1_0_0000001100#24, .not 1 12 wz),
    (0b00010110_0000_1_0_0000001100#24, .shl 1 12 wz),
    (0b00010111_0000_1_0_0000001100#24, .shr 1 12 wz),
    (0b00011000_0000_1_0_0000001100#24, .sha 1 12 wz),
    (0b00011001_0000_1_0_0000001100#24, .rot 1 12 wz),
    (0b00011010_0000_1_0_0000001100#24, .clz 1 12 wz),
    (0b00011011_0000_1_0_0000001100#24, .popc 1 12 wz),
    (0b00011100_0000_1_0_0000001100#24, .sel 1 12 wz),
    (0b00011101_0000_1_0_0000001100#24, .cmpeq 1 12 wz),
    (0b00011110_0000_1_0_0000001100#24, .cmpne 1 12 wz),
    (0b00011111_0000_1_0_0000001100#24, .cmplt 1 12 wz)] = true := by decide +kernel

theorem test_decode_row_2 : rowsDecode [
    (0b00100000_0000_1_0_0000001100#24, .cmple 1 12 wz),
    (0b00100001_0000_1_0_0000001100#24, .cmpltn 1 12 wz),
    (0b00100010_0000_1_0_0000001100#24, .cmplen 1 12 wz),
    (0b00100011_0000000000000111#24, .movi 7 wz),
    (0b00100100_0000000000000111#24, .movhi 7 wz),
    (0b00100101_0000_1_00_000001100#24, .mov 1 12 wz),
    (0b00100101_0000_1_0100000000_1#24, .movSpecialRead 1 1 wz),
    (0b00100101_0000_1_0110000000_1#24, .movSpecialWrite 1 1 wz),
    (0b00100110_0000_1_0_0000001100#24, .sext 1 12 wz),
    (0b00100111_0000_1_0_0000001100#24, .bfx 1 12 wz),
    (0b00101000_0000_1_0_0000001100#24, .bfi 1 12 wz),
    (0b00101001_0000_1_0_0000001100#24, .adds 1 12 wz),
    (0b00101010_0000_1_0_0000001100#24, .subs 1 12 wz)] = true := by decide +kernel

theorem test_decode_row_3 : rowsDecode [
    (0b00110000_100_0_1_00000000000#24, .fadd 4 1 wz),
    (0b00110001_100_0_1_00000000000#24, .fsub 4 1 wz),
    (0b00110010_100_0_1_00000000000#24, .fmul 4 1 wz),
    (0b00110011_100_0_1_00000000000#24, .fma 4 1 wz),
    (0b00110100_100_0_1_00000000000#24, .fms 4 1 wz),
    (0b00110101_100_0_1_00000000000#24, .fnma 4 1 wz),
    (0b00110110_0000_1_00000000000#24, .fmin 1 wz),
    (0b00110111_0000_1_00000000000#24, .fmax 1 wz),
    (0b00111000_0000_1_00000000000#24, .fabs 1 wz),
    (0b00111001_0000_1_00000000000#24, .fneg 1 wz),
    (0b00111010_0000_1_00000000000#24, .fcmpeq 1 wz),
    (0b00111011_0000_1_00000000000#24, .fcmplt 1 wz),
    (0b00111100_0000_1_00000000000#24, .fcmple 1 wz),
    (0b00111101_0000_1_00000000000#24, .fcmpun 1 wz),
    (0b00111110_100_1_1_00000000000#24, .fcvt 4 1 1 wz),
    (0b00111111_0000_1_00000000000#24, .fclass 1 wz)] = true := by decide +kernel

theorem test_decode_row_4 : rowsDecode [
    (0b01000000_100_0_1_00000000000#24, .frnd 4 1 wz),
    (0b01000001_100_1_1_00000000000#24, .ftoi 4 1 1 wz),
    (0b01000010_100_0_1_00000000000#24, .itof 4 1 wz),
    (0b01000011_100_0_1_00000000000#24, .fscale 4 1 wz),
    (0b01000100_100_0_1_00000000000#24, .fdot2 4 1 wz),
    (0b01000101_0000_1_00000000000#24, .fexpn 1 wz),
    (0b01000110_0000_1_00000000000#24, .fmant 1 wz),
    (0b01000111_100_1_1_0_10_0000_1011#24, .qnt 4 1 1 2 11 wz),
    (0b01001000_100_0_1_00000000000#24, .dqnt 4 1 wz)] = true := by decide +kernel

theorem test_decode_row_5 : rowsDecode [
    (0b01010000_100_0_1_000000000_01#24, .lut 4 1 1 wz),
    (0b01010001_0000_1_0_01_000_10001#24, .lutix 1 1 17 wz),
    (0b01010010_0000_1_00000000000#24, .rredf 1 wz),
    (0b01010011_0000_1_00000000000#24, .rredn 1 wz),
    (0b01010100_100_0_1_00000000000#24, .rexp 4 1 wz),
    (0b01010101_100_0_1_00000000000#24, .lutsel 4 1 wz),
    (0b01011000_0111_1100_0000_0001#24, .steer 7 12 1 wz),
    (0b01011001_0111_1100_00000000#24, .merge 7 12 wz),
    (0b01011010_0000_0111_00000000#24, .mergea 7 wz),
    (0b01011011_0111_1100_0000000_1#24, .gate 7 12 1 wz),
    (0b01011100_0111_1100_0000000_1#24, .drop 7 12 1 wz),
    (0b01011101_0111_1100_0000000_1#24, .cemit 7 12 1 wz),
    (0b01011110_0000_0111_00001100#24, .ctest 7 12 wz),
    (0b01011111_0111_1100_00000_001#24, .cand 7 12 1 wz)] = true := by decide +kernel

theorem test_decode_row_6 : rowsDecode [
    (0b01100000_0111_1100_00000_001#24, .cor 7 12 1 wz),
    (0b01100001_0111_1100_00000000#24, .cnot 7 12 wz),
    (0b01100010_0111_00000000000_1#24, .eose 7 1 wz),
    (0b01100011_0000_0111_0000000_1#24, .eosq 7 1 wz),
    (0b01100100_00000000000000_11#24, .cnti 3 wz),
    (0b01100101_0111_1100_00000_001#24, .cnts 7 12 1 wz),
    (0b01100110_0000000000000_111#24, .cntl 7 wz),
    (0b01100111_0111_000000000_100#24, .phase 7 4 wz),
    (0b01101000_0111_0000000000_01#24, .ctxp 7 1 wz),
    (0b01101001_00000000000000_11#24, .rowq 3 wz),
    (0b01101010_00000000000000_11#24, .iofq 3 wz),
    (0b01101011_0000000000000_111#24, .frmq 7 wz),
    (0b01101100_000000000000_0111#24, .dly 7 wz),
    (0b01101101_0111_1100_00000_001#24, .armx 7 12 1 wz)] = true := by decide +kernel

theorem test_decode_row_7 : rowsDecode [
    (0b01110000_000111_1_1_10_000000#24, .talloc 7 1 1 2 wz),
    (0b01110001_000000_1_1_10_000000#24, .tfree 1 1 2 wz),
    (0b01110010_000000_1_1_10_10_1011#24, .tqry 1 1 2 2 11 wz),
    (0b01110011_0111_01_1_1_1_0100000#24, .ldt 7 1 1 1 1 32 wz),
    (0b01110100_0111_01_0_1_1_0011011#24, .stt 7 1 1 1 27 wz),
    (0b01110101_0111_01_1_1_1_0100000#24, .ldts 7 1 1 1 1 32 wz),
    (0b01110110_0111_01_0_1_1_0011011#24, .sttf 7 1 1 1 27 wz),
    (0b01110111_0111_01_1_1_1_0100000#24, .ldte 7 1 1 1 1 32 wz),
    (0b01111000_0111_01_0_1_1_0011011#24, .feset 7 1 1 1 27 wz),
    (0b01111001_0111_01_0_1_1_0011011#24, .feq 7 1 1 1 27 wz),
    (0b01111010_000111_1_1_01_000000#24, .tcopy 7 1 1 1 wz),
    (0b01111011_000111_1_1_01_000000#24, .tfill 7 1 1 1 wz),
    (0b01111100_000000_1_1_10_10_1011#24, .tlevel 1 1 2 2 11 wz)] = true := by decide +kernel

theorem test_decode_row_8 : rowsDecode [
    (0b10000000_0111_01_1_1_1_0100000#24, .gld 7 1 1 1 1 32 wz),
    (0b10000001_0111_01_0_1_1_0011011#24, .gst 7 1 1 1 27 wz),
    (0b10000010_0111_01_1_1_1_0100000#24, .glds 7 1 1 1 1 32 wz),
    (0b10000011_0111_01_0_1_1_0011011#24, .gstf 7 1 1 1 27 wz),
    (0b10000100_000111_1_1_01_00_1011#24, .strmi 7 1 1 1 11 wz),
    (0b10000101_000111_1_1_01_00_1011#24, .strmo 7 1 1 1 11 wz),
    (0b10000110_000111_1_1_01_00_1011#24, .gath 7 1 1 1 11 wz),
    (0b10000111_000111_1_1_01_00_1011#24, .scat 7 1 1 1 11 wz),
    (0b10001000_000000_1_1_01_10_1011#24, .sprg 1 1 1 2 11 wz),
    (0b10001001_000000_1_1_01_10_0000#24, .sabt 1 1 1 2 wz),
    (0b10001010_000000_1_1_01_10_0000#24, .sres 1 1 1 2 wz),
    (0b10001011_0111_1_1_0_1_1_0011011#24, .aadd 7 1 1 1 27 wz),
    (0b10001100_0111_1_1_0_1_1_0011011#24, .amin 7 1 1 1 27 wz),
    (0b10001101_0111_1_1_0_1_1_0011011#24, .amax 7 1 1 1 27 wz),
    (0b10001110_0111_1_1_0_1_1_0011011#24, .aand 7 1 1 1 27 wz),
    (0b10001111_0111_1_1_0_1_1_0011011#24, .aor 7 1 1 1 27 wz)] = true := by decide +kernel

theorem test_decode_row_9 : rowsDecode [
    (0b10010000_0111_1_1_0_1_1_0011011#24, .axch 7 1 1 1 27 wz),
    (0b10010001_0111_1_1_0_1_1_0011011#24, .acas 7 1 1 1 27 wz),
    (0b10010010_0111_100_1_1_0010110#24, .afadd 7 1 1 22 wz),
    (0b10010011_000000000000_0111#24, .fence 7 wz),
    (0b10010100_0000000000000000#24, .rels wz),
    (0b10010101_0000000000000000#24, .acqs wz),
    (0b10010110_000111_1_1_01_000000#24, .xfer 7 1 1 1 wz),
    (0b10010111_000111_1_1_01_000000#24, .mirr 7 1 1 1 wz),
    (0b10011000_000111_1_1_01_000000#24, .coll 7 1 1 1 wz)] = true := by decide +kernel

theorem test_decode_row_A : rowsDecode [
    (0b10100000_000111_1_1_11_000000#24, .mma 7 1 1 3 wz),
    (0b10100001_000111_1_1_11_000000#24, .mmas 7 1 1 3 wz),
    (0b10100010_000111_1_1_11_000000#24, .mmav 7 1 1 3 wz),
    (0b10100011_000111_1_1_11_000000#24, .mmab 7 1 1 3 wz),
    (0b10100100_000111_1_1_11_00_1011#24, .macc 7 1 1 3 11 wz),
    (0b10100101_000111_1_1_11_11_0000#24, .mdrn 7 1 1 3 3 wz),
    (0b10100110_000000000000_0111#24, .mprg 7 wz),
    (0b10100111_0000000000000000#24, .mres wz),
    (0b10101000_0000000000000000#24, .mabt wz),
    (0b10101001_000000_1_1_11_000000#24, .mshp 1 1 3 wz)] = true := by decide +kernel

theorem test_decode_row_B : rowsDecode [
    (0b10110000_000111_1_1_01_11_0001#24, .xld 7 1 1 1 3 1 wz),
    (0b10110001_000111_1_1_01_000000#24, .xst 7 1 1 1 wz),
    (0b10110010_000111_1_1_01_000_011#24, .cbld 7 1 1 1 3 wz),
    (0b10110011_000000_1_1_01_10_0_011#24, .vqx 1 1 1 2 3 wz),
    (0b10110100_000111_1_1_01_000000#24, .compm 7 1 1 1 wz),
    (0b10110101_000111_1_1_01_000000#24, .expdm 7 1 1 1 wz),
    (0b10110110_000111_1_1_01_000000#24, .fibp 7 1 1 1 wz),
    (0b10110111_000111_1_1_01_000000#24, .fibu 7 1 1 1 wz),
    (0b10111000_000111_1_1_01_00_1011#24, .isect 7 1 1 1 11 wz),
    (0b10111001_000111_1_1_01_000000#24, .dcmpj 7 1 1 1 wz),
    (0b10111010_000000_1_1_01_10_1011#24, .dcmpq 1 1 1 2 11 wz),
    (0b10111011_000111_1_1_01_00_1011#24, .lzcp 7 1 1 1 11 wz),
    (0b10111100_000111_0000000000#24, .layw 7 wz),
    (0b10111101_000111_0000_01_0000#24, .layr 7 1 wz),
    (0b10111110_000111_1_1_01_000000#24, .trns 7 1 1 1 wz),
    (0b10111111_000111_1_1_01_000000#24, .redx 7 1 1 1 wz)] = true := by decide +kernel

theorem test_decode_row_C : rowsDecode [
    (0b11000100_000111_0000000000#24, .cinit 7 wz),
    (0b11000101_000111_0000_01_0000#24, .carr 7 1 wz),
    (0b11000110_000111_0000000000#24, .cexpb 7 wz),
    (0b11000111_000111_000000_1100#24, .cqry 7 12 wz),
    (0b11001000_000111_0000000000#24, .cdrop 7 wz),
    (0b11001100_000111_0000000000#24, .tapeb 7 wz),
    (0b11001101_0000000000000000#24, .tapee wz),
    (0b11001110_000111_00000_1_0000#24, .tapev 7 1 wz),
    (0b11001111_000111_0000000000#24, .taper 7 wz)] = true := by decide +kernel

theorem test_decode_row_D : rowsDecode [
    (0b11010000_000111_0000000000#24, .tapep 7 wz),
    (0b11010001_0000000000000000#24, .tapec wz),
    (0b11010010_000000000000_0111#24, .tapeq 7 wz),
    (0b11010011_000111_0000000000#24, .tapek 7 wz),
    (0b11010100_0000000000000000#24, .mark wz),
    (0b11010101_000000000000_0111#24, .snapq 7 wz),
    (0b11010110_0000000000000000#24, .rtag wz),
    (0b11010111_000000000000_0111#24, .poisn 7 wz),
    (0b11011000_0000000000000000#24, .poisq wz),
    (0b11011001_000000000000_0111#24, .verd 7 wz),
    (0b11011100_000111_0000000000#24, .cmpv 7 wz)] = true := by decide +kernel

theorem test_decode_task_0 : tasksDecode [
    (0b00000000_000000000000000000000000#32, .nopTask),
    (0b00000001_00111_01100_10001_000000000#32, .addTask 7 12 17),
    (0b00000010_00111_01100_10001_000000000#32, .subTask 7 12 17),
    (0b00000011_00111_01100_00000000010001#32, .addiTask 7 12 17),
    (0b00000100_00111_01100_10001_000000000#32, .mulTask 7 12 17),
    (0b00000101_00111_01100_10001_000000000#32, .mulhTask 7 12 17),
    (0b00000110_00111_01100_10001_000000000#32, .mulhnTask 7 12 17),
    (0b00000111_00111_01100_10001_000000000#32, .div 7 12 17),
    (0b00001000_00111_01100_10001_000000000#32, .divn 7 12 17),
    (0b00001001_00111_01100_10001_000000000#32, .rem 7 12 17),
    (0b00001010_00111_01100_10001_000000000#32, .remn 7 12 17),
    (0b00001011_00111_01100_10001_000000000#32, .minTask 7 12 17),
    (0b00001100_00111_01100_10001_000000000#32, .maxTask 7 12 17),
    (0b00001101_00111_01100_10001_000000000#32, .minnTask 7 12 17),
    (0b00001110_00111_01100_10001_000000000#32, .maxnTask 7 12 17),
    (0b00001111_00111_01100_00000000000000#32, .absTask 7 12)] = true := by decide +kernel

theorem test_decode_task_1 : tasksDecode [
    (0b00010000_00111_01100_00000000000000#32, .negTask 7 12),
    (0b00010001_00111_01100_10001_000000000#32, .andTask 7 12 17),
    (0b00010010_00111_01100_10001_000000000#32, .orTask 7 12 17),
    (0b00010011_00111_01100_10001_000000000#32, .xorTask 7 12 17),
    (0b00010100_00111_01100_10001_000000000#32, .andnTask 7 12 17),
    (0b00010101_00111_01100_00000000000000#32, .notTask 7 12),
    (0b00010110_00111_01100_10001_000000000#32, .shlTask 7 12 17),
    (0b00010111_00111_01100_10001_000000000#32, .shrTask 7 12 17),
    (0b00011000_00111_01100_10001_000000000#32, .shaTask 7 12 17),
    (0b00011001_00111_01100_10001_000000000#32, .rotTask 7 12 17),
    (0b00011010_00111_01100_00000000000000#32, .clzTask 7 12),
    (0b00011011_00111_01100_00000000000000#32, .popcTask 7 12),
    (0b00011100_00111_01100_10001_000000000#32, .selTask 7 12 17),
    (0b00011101_00111_01100_10001_000000000#32, .cmpeqTask 7 12 17),
    (0b00011110_00111_01100_10001_000000000#32, .cmpneTask 7 12 17),
    (0b00011111_00111_01100_10001_000000000#32, .cmpltTask 7 12 17)] = true := by decide +kernel

theorem test_decode_task_2 : tasksDecode [
    (0b00100000_00111_01100_10001_000000000#32, .cmpleTask 7 12 17),
    (0b00100001_00111_01100_10001_000000000#32, .cmpltnTask 7 12 17),
    (0b00100010_00111_01100_10001_000000000#32, .cmplenTask 7 12 17),
    (0b00100011_00111_00000_00000000001100#32, .moviTask 7 12),
    (0b00100100_00111_00000_00000000001100#32, .movhiTask 7 12),
    (0b00100101_00111_01100_00000000000000#32, .movTask 7 12),
    (0b00100110_00111_01100_10001_000000000#32, .sextTask 7 12 17),
    (0b00100111_00111_01100_10001_000000000#32, .bfxTask 7 12 17),
    (0b00101000_00111_01100_10001_000000000#32, .bfiTask 7 12 17),
    (0b00101001_00111_01100_10001_000000000#32, .addsTask 7 12 17),
    (0b00101010_00111_01100_10001_000000000#32, .subsTask 7 12 17)] = true := by decide +kernel

theorem test_decode_task_8 : tasksDecode [
    (0b10000000_00111_01100_00000000010001#32, .gldTask 7 12 17),
    (0b10000001_00111_01100_00000000010001#32, .gstTask 7 12 17),
    (0b10000010_0111_0_01100_00000000010001#32, .gldsTask 7 12 17),
    (0b10000011_0111_0_01100_00000000010001#32, .gstfTask 7 12 17),
    (0b10001011_00111_01100_10001_000000000#32, .aaddTask 7 12 17),
    (0b10001100_00111_01100_10001_000000000#32, .aminTask 7 12 17),
    (0b10001101_00111_01100_10001_000000000#32, .amaxTask 7 12 17),
    (0b10001110_00111_01100_10001_000000000#32, .aandTask 7 12 17),
    (0b10001111_00111_01100_10001_000000000#32, .aorTask 7 12 17)] = true := by decide +kernel

theorem test_decode_task_9 : tasksDecode [
    (0b10010000_00111_01100_10001_000000000#32, .axchTask 7 12 17),
    (0b10010001_00111_01100_10001_000000000#32, .acasTask 7 12 17),
    (0b10010010_00111_01100_10001_000000000#32, .afaddTask 7 12 17),
    (0b10010011_000000000000000000000_111#32, .fenceTask 7),
    (0b10010100_000000000000000000000000#32, .relsTask),
    (0b10010101_000000000000000000000000#32, .acqsTask),
    (0b10010110_00111_01100_00000000000000#32, .xferTask 7 12),
    (0b10010111_00111_01100_00000000000000#32, .mirrTask 7 12),
    (0b10011001_00111_01100_00000000000000#32, .pagem 7 12)] = true := by decide +kernel

theorem test_decode_task_D : tasksDecode [
    (0b11011010_00111_01100_00000000000000#32, .purge 7 12),
    (0b11011011_00111_01100_00000000000000#32, .keepc 7 12),
    (0b11011001_00111_01100_10001_000000000#32, .verdTask 7 12 17)] = true := by decide +kernel

theorem test_decode_task_E : tasksDecode [
    (0b11100000_00111_01100_10001_000000000#32, .lnch 7 12 17),
    (0b11100001_00111_01100_10001_000000000#32, .lnchi 7 12 17),
    (0b11100010_00111_01100_00000000000000#32, .tblsw 7 12),
    (0b11100011_00111_01100_10001_000000000#32, .ctxld 7 12 17),
    (0b11100100_00111_01100_10001_000000000#32, .ctxsw 7 12 17),
    (0b11100101_00111_01100_10001_000000000#32, .drnq 7 12 17),
    (0b11100110_00111_01100_00000000000000#32, .ovrq 7 12),
    (0b11100111_00111_01100_10001_000000000#32, .fbsel 7 12 17),
    (0b11101000_00111_01100_10001_000000000#32, .teard 7 12 17),
    (0b11101001_00111_01100_10001_000000000#32, .partm 7 12 17),
    (0b11101010_00111_01100_10001_000000000#32, .doff 7 12 17),
    (0b11101011_00111_01100_10001_000000000#32, .spare 7 12 17),
    (0b11101100_00000_0000000000000000111#32, .br 7),
    (0b11101101_00111_0000000000000001100#32, .brz 7 12),
    (0b11101110_00111_0000000000000001100#32, .brnz 7 12),
    (0b11101111_00000_0000000000000000111#32, .call 7)] = true := by decide +kernel

theorem test_decode_task_F : tasksDecode [
    (0b11110000_000000000000000000000000#32, .ret),
    (0b11110001_00111_01100_00000000010001#32, .ldk 7 12 17),
    (0b11110010_00111_01100_00000000010001#32, .stk 7 12 17),
    (0b11110011_00111_01100_00000000010001#32, .ldio 7 12 17),
    (0b11110100_00111_01100_00000000010001#32, .stio 7 12 17),
    (0b11110101_00111_01100_00000000_010001#32, .send 7 12 17),
    (0b11110110_00111_01100_00000000_010001#32, .recv 7 12 17),
    (0b11110111_000000000000000000000000#32, .tend),
    (0b11111000_00111_01100_10001_000_010110#32, .tbind 7 12 17 22),
    (0b11111001_00111_01100_00000000_010001#32, .chpri 7 12 17),
    (0b11111010_000000000000000_000000111#32, .traps 7),
    (0b11111011_00111_01100_10001_000000000#32, .timeq 7 12 17),
    (0b11111100_00111_01100_00000000000000#32, .hashb 7 12),
    (0b11111101_00111_01100_00000000000000#32, .sigv 7 12),
    (0b11111110_00111_01100_00000_000010001#32, .sysx 7 12 17)] = true := by decide +kernel

/-! ## States for the witnesses -/

/-- What holds in the next state. -/
def after (o : Host.Outcome State Fault Refusal) (p : State → Bool) : Bool :=
  match o with
  | .next t => p t
  | _ => false

/-- The row of an instruction for the element at hand may issue by the general rule. -/
def runs (i : Instr) (s : State) : Bool := decide ((s.row i).planDefault = .go) && !s.fab.armP && (s.row i).tape.isNone

theorem ok {i : Instr} {s : State} (h : runs i s = true) : s.executes i := by
  simp only [runs, Bool.and_eq_true, decide_eq_true_eq, Bool.not_eq_true', Option.isNone_iff_eq_none] at h
  exact ⟨h.1.1, h.1.2, h.2⟩

theorem clean {u : Uses} {r : Row} (h : ((Spec.operands u r).all fun t => !t.p) = true) : Spec.unpoisoned u r := by
  simpa [Spec.unpoisoned] using h

/-- A run of one region of one element, element 0, whose slot 0 holds a share; w1 and w2 hold values; the row is next. -/
def one (a b : W32) (g : Slot → Slot := id) (sh : Share := {}) : State :=
  let f := { State.reset.fab with runs := [(0, { copies := [{ issued := true }] })] }
  { fab := f.modSlot 0 0 fun x => g { x with
      st := .running, share := some sh, run := some (0, 0), regs := (x.regs.set 1 ⟨a, false⟩).set 2 ⟨b, false⟩ } }

/-- A slot with a token at the head of a lane. -/
def tok (l : LaneNo) (t : Token) (x : Slot) : Slot := x.modLane l fun y => { y with buf := [t] }

/-- A from w1, B from w2, the result in w3. -/
def wab : Wires := wires 0 0 0b000010 1 2 3
/-- A from w1, the result in w3. -/
def wa : Wires := wires 0 15 0b000010 1 0 3

/-- Register w3 of element 0. -/
def w3 (t : State) : W32 := ((t.fab.slot 0 0).regs.get 3).v
/-- ESR of element 0. -/
def esr (t : State) : W32 := (t.fab.slot 0 0).esr
/-- FB of element 0. -/
def fb (t : State) : TV := (t.fab.slot 0 0).fb

/-! ## Element rows: arithmetic, moves, waiting (R83-R93, R137-R145) -/

theorem test_integer_rows :
    (∃ u v, Spec.integerResult (.add 0 0 wab) = some (u, v) ∧ (one 0xFFFFFFFF 2).executes (.add 0 0 wab) ∧
      Spec.unpoisoned u ((one 0xFFFFFFFF 2).row (.add 0 0 wab))) ∧
    after (exec (.add 0 0 wab) (one 0xFFFFFFFF 2)) (fun t => w3 t == 1 && esr t == 0) = true :=
  ⟨⟨_, _, rfl, ok (by decide +kernel), clean (by decide +kernel)⟩, by decide +kernel⟩

-- Results by hand from R93.
theorem test_integer_results :
    (after (exec (.sub 0 0 wab) (one 1 2)) (w3 · == 0xFFFFFFFF) && after (exec (.addi 0 (-512) wa) (one 1 0)) (w3 · == 0xFFFFFE01) &&
      after (exec (.mulh 0 0 wab) (one 0x80000000 2)) (w3 · == 0xFFFFFFFF) && after (exec (.mulhn 0 0 wab) (one 0x80000000 2)) (w3 · == 1) &&
      after (exec (.sha 0 0 wab) (one 0x80000000 33)) (w3 · == 0xC0000000) && after (exec (.clz 0 0 wa) (one 0 0)) (w3 · == 32) &&
      after (exec (.abs 0 0 wa) (one 0x80000000 0)) (w3 · == 0x80000000) && after (exec (.rot 0 0 wab) (one 1 31)) (w3 · == 2) &&
      after (exec (.cmpltn 0 0 wab) (one 1 0xFFFFFFFF)) (w3 · == 1) && after (exec (.cmplt 0 0 wab) (one 1 0xFFFFFFFF)) (w3 · == 0)) = true := by
  decide +kernel

-- One sum in range, one above it and one below it.
theorem test_saturating_rows :
    (∃ g, Spec.saturatingValue (.adds 0 0 wab) = some g ∧ (one 0x7FFFFFFF 0).executes (.adds 0 0 wab) ∧
      Spec.unpoisoned .ab ((one 0x7FFFFFFF 0).row (.adds 0 0 wab))) ∧
    after (exec (.adds 0 0 wab) (one 0x7FFFFFFF 0)) (fun t => w3 t == 0x7FFFFFFF && esr t == 0) = true ∧
    after (exec (.adds 0 0 wab) (one 0x7FFFFFFF 1)) (fun t => w3 t == 0x7FFFFFFF && esr t == 0x20) = true ∧
    after (exec (.subs 0 0 wab) (one 0x80000000 1)) (fun t => w3 t == 0x80000000 && esr t == 0x20) = true :=
  ⟨⟨_, rfl, ok (by decide +kernel), clean (by decide +kernel)⟩, by decide +kernel, by decide +kernel, by decide +kernel⟩

/-- w1 poison. -/
def sick (x : Slot) : Slot := { x with regs := x.regs.set 1 ⟨7, true⟩ }

theorem test_poison_operand :
    (∃ u ty, Spec.poisonable (.add 0 0 wab) = some (u, ty) ∧ (one 0 0 sick).executes (.add 0 0 wab) ∧
      ∃ p, (Spec.operands u ((one 0 0 sick).row (.add 0 0 wab))).find? (·.p) = some p) ∧
    after (exec (.add 0 0 wab) (one 0 0 sick)) (fun t => decide ((t.fab.slot 0 0).regs.get 3 = ⟨7, true⟩) && esr t == 0) = true :=
  ⟨⟨_, _, rfl, ok (by decide +kernel), ⟨7, true, .untyped⟩, by decide +kernel⟩, by decide +kernel⟩

theorem test_nop : (one 1 2).executes (.nop 0 (wires 15 15 0 0 0 0)) := ok (by decide +kernel)

-- The latch 1, 0, and poisoned with and without a poison B.
theorem test_sel :
    (∀ l p : Bool, (one 1 2 fun x => { x with latch := l, latchP := p }).executes (.sel 0 0 wab)) ∧
    after (exec (.sel 0 0 wab) (one 1 2 fun x => { x with latch := true })) (w3 · == 1) = true ∧
    after (exec (.sel 0 0 wab) (one 1 2)) (w3 · == 2) = true ∧
    after (exec (.sel 0 0 wab) (one 1 2 fun x => { x with latchP := true })) (fun t => (fb t).p && fb t == ⟨0x08000000, true, .i32⟩) = true ∧
    after (exec (.sel 0 0 (wires 0 0 0b000010 2 1 3)) (one 1 2 fun x => { sick x with latchP := true })) (fun t => fb t == ⟨7, true, .i32⟩) = true := by
  refine ⟨fun l p => ?_, ?_, ?_, ?_, ?_⟩
  · cases l <;> cases p <;> exact ok (by decide +kernel)
  all_goals decide +kernel

-- EMR read at its slot-load value; a zero seed loads 1 and the RND and PINV fields are taken; ESR loses the flags written as 1; poison writes nothing.
theorem test_special_moves :
    (one 0 0).executes (.movSpecialRead 0 0 wz) ∧ (one 0xF 0).executes (.movSpecialWrite 0 0 wa) ∧
    (one 0xF 0).executes (.movSpecialWrite 0 1 wa) ∧ (one 0 0 sick).executes (.movSpecialWrite 0 0 wa) ∧
    after (exec (.movSpecialRead 0 0 wab) (one 0 0)) (w3 · == 0x00010000) = true ∧
    after (exec (.movSpecialWrite 0 0 wa) (one 0xFF 0)) (fun t => (t.fab.slot 0 0).emr == 0x0001000F && w3 t == 0x00010000) = true ∧
    after (exec (.movSpecialWrite 0 1 wa) (one 0x21 0 fun x => { x with esr := 0x61 })) (fun t => esr t == 0x40 && w3 t == 0x61) = true ∧
    after (exec (.movSpecialWrite 0 0 wa) (one 0 0 sick)) (fun t => (t.fab.slot 0 0).emr == 0x00010000) = true :=
  ⟨ok (by decide +kernel), ok (by decide +kernel), ok (by decide +kernel), ok (by decide +kernel), by decide +kernel, by decide +kernel,
    by decide +kernel, by decide +kernel⟩

/-- A from the north. -/
def wn : Wires := wires 1 0 0b000010 0 2 3
/-- A from w1, to the south link. -/
def ws : Wires := wires 0 0 0b001000 1 2 0
/-- The lane of the neighbour to the south that a push over the south link reaches holds two tokens. -/
def full : State :=
  let s := one 1 2
  { s with fab := s.fab.modSlot 60 0 fun x => x.modLane 0 fun y => { y with buf := List.replicate 16 {} } }

theorem test_rows_wait :
    Spec.waitsForOperands (.add 0 0 wn) = true ∧
    (let r := (one 1 2).row (.add 0 0 wn); (∃ l ∈ r.lanes, r.head l = none) ∧ ∀ l ∈ r.lanes, r.discarding l = false) ∧
    (let r := full.row (.add 0 0 ws); ∃ d, maskBit (Route.links r.wr.route) d = true ∧ r.linkRoom d = false) :=
  ⟨by decide +kernel, ⟨⟨0, by decide +kernel, by decide +kernel⟩, by decide +kernel⟩, .s, by decide +kernel, by decide +kernel⟩

theorem test_end_of_stream :
    let s := one 0 0 (tok 0 { kind := .eos })
    let r := s.row (.add 0 0 wn)
    (r.lanes ≠ [] ∧ (∀ l ∈ r.lanes, r.discarding l = false ∧ ∃ t, r.head l = some t ∧ t.kind = .eos) ∧ r.room (Route.links r.wr.route) = true) ∧
      after (exec (.add 0 0 wn) s) (fun t => decide ((t.fab.lane 0 0 0).buf = []) && decide ((t.fab.slot 0 0).regs = (s.fab.slot 0 0).regs)) = true := by
  refine ⟨⟨by decide +kernel, fun l hl => ⟨?_, ⟨.eos, 0, false, .untyped⟩, ?_, rfl⟩, by decide +kernel⟩, by decide +kernel⟩
  all_goals
    have : l = 0 := by revert hl; revert l; decide +kernel
    subst this; decide +kernel

/-! ## Floating rows (R95-R106) -/

/-- A share that types w1, w2 and w3. -/
def typed (a b d : Ty) : Share := { regTy := [.untyped, a, b, d] }
/-- fp32 registers. -/
def fl (a b : W32) (g : Slot → Slot := id) : State := one a b g (typed .fp32 .fp32 .fp32)

-- 1.0 + 2^-24 is a tie and goes to the even 1.0 with NX; 1.0 × -0 is -0.
theorem test_float_arithmetic :
    (∃ u g, Spec.exactResult (.fadd 0 0 wab) = some (u, g) ∧ (fl 0x3F800000 0x33800000).executes (.fadd 0 0 wab) ∧
      Spec.unpoisoned u ((fl 0x3F800000 0x33800000).row (.fadd 0 0 wab))) ∧
    after (exec (.fadd 0 0 wab) (fl 0x3F800000 0x33800000)) (fun t => w3 t == 0x3F800000 && esr t == 0x10) = true ∧
    after (exec (.fmul 0 0 wab) (fl 0x3F800000 0x80000000)) (fun t => w3 t == 0x80000000 && esr t == 0) = true ∧
    after (exec (.fsub 0 0 wab) (fl 0x7F800000 0x7F800000)) (fun t => w3 t == 0x7FC00000 && esr t == 1) = true :=
  ⟨⟨_, _, rfl, ok (by decide +kernel), clean (by decide +kernel)⟩, by decide +kernel, by decide +kernel, by decide +kernel⟩

/-- B is an integer scale. -/
def sc (a b : W32) : State := one a b id (typed .fp32 .i32 .fp32)
/-- A is an i8 element, B an E8M0 scale. -/
def dq (a b : W32) : State := one a b id (typed .i8 .n8 .fp32)

-- FSCALE by 3; REXP with an integral B, an infinite B and B = 0.5; DQNT of the mxi8 element 64 (1.0) under the scale code 128 (2).
theorem test_scaled_results :
    (sc 0x3F800000 3).executes (.fscale 0 0 wab) ∧ Spec.unpoisoned .ab ((sc 0x3F800000 3).row (.fscale 0 0 wab)) ∧
    after (exec (.fscale 0 0 wab) (sc 0x3F800000 3)) (w3 · == 0x41000000) = true ∧
    (fl 0x3F800000 0x40000000).executes (.rexp 0 0 wab) ∧
    (∃ neg n d, ((fl 0x3F800000 0x40000000).row (.rexp 0 0 wab)).b.num = .fin neg n d ∧ n % d = 0) ∧
    after (exec (.rexp 0 0 wab) (fl 0x3F800000 0x40000000)) (w3 · == 0x40800000) = true ∧
    (∃ neg, ((fl 0x3F800000 0x7F800000).row (.rexp 0 0 wab)).b.num = .inf neg) ∧
    after (exec (.rexp 0 0 wab) (fl 0x3F800000 0x3F000000)) (fun t => w3 t == 0x7FC00000 && esr t == 1) = true ∧
    (dq 64 128).executes (.dqnt 0 0 wab) ∧ after (exec (.dqnt 0 0 wab) (dq 64 128)) (w3 · == 0x40000000) = true := by
  refine ⟨ok (by decide +kernel), clean (by decide +kernel), by decide +kernel, ok (by decide +kernel), ?_, by decide +kernel, ?_, by decide +kernel,
    ok (by decide +kernel), by decide +kernel⟩
  · cases h : ((fl 0x3F800000 0x40000000).row (.rexp 0 0 wab)).b.num with
    | fin neg n d =>
      refine ⟨neg, n, d, rfl, ?_⟩
      have : (match ((fl 0x3F800000 0x40000000).row (.rexp 0 0 wab)).b.num with | .fin _ n d => n % d == 0 | _ => true) = true := by decide +kernel
      rw [h] at this; simpa using this
    | inf b => cases b <;> exact absurd h (by decide +kernel)
    | nan b => cases b <;> exact absurd h (by decide +kernel)
  · exact ⟨false, by decide +kernel⟩

-- Minimum with one NaN gives the other operand, −0 below +0; FNEG of a NaN is canonical.
theorem test_float_selection :
    (∃ u g, Spec.selectedValue (.fmin 0 wab) = some (u, g) ∧ (fl 0 0x80000000).executes (.fmin 0 wab) ∧
      Spec.unpoisoned u ((fl 0 0x80000000).row (.fmin 0 wab))) ∧
    after (exec (.fmin 0 wab) (fl 0 0x80000000)) (w3 · == 0x80000000) = true ∧
    after (exec (.fmax 0 wab) (fl 0x7FC00001 0x3F800000)) (fun t => w3 t == 0x3F800000 && esr t == 0) = true ∧
    after (exec (.fneg 0 wa) (fl 0x7F800001 0)) (fun t => w3 t == 0x7FC00000 && esr t == 1) = true :=
  ⟨⟨_, _, rfl, ok (by decide +kernel), clean (by decide +kernel)⟩, by decide +kernel, by decide +kernel, by decide +kernel⟩

/-- Compares write an integer. -/
def cm (a b : W32) : State := one a b id (typed .fp32 .fp32 .i32)

theorem test_float_tests :
    (∃ u g, Spec.testedValue (.fcmple 0 wab) = some (u, g) ∧ (cm 0 0x80000000).executes (.fcmple 0 wab) ∧
      Spec.unpoisoned u ((cm 0 0x80000000).row (.fcmple 0 wab))) ∧
    after (exec (.fcmple 0 wab) (cm 0 0x80000000)) (w3 · == 1) = true ∧
    after (exec (.fcmpeq 0 wab) (cm 0x7FC00000 0)) (fun t => w3 t == 0 && esr t == 0) = true ∧
    after (exec (.fcmplt 0 wab) (cm 0x7FC00000 0)) (fun t => w3 t == 0 && esr t == 1) = true ∧
    after (exec (.fclass 0 wa) (cm 0x80000001 0)) (w3 · == 4) = true ∧ after (exec (.fexpn 0 wa) (cm 0x3F000000 0)) (w3 · == 0xFFFFFFFF) = true :=
  ⟨⟨_, _, rfl, ok (by decide +kernel), clean (by decide +kernel)⟩, by decide +kernel, by decide +kernel, by decide +kernel, by decide +kernel,
    by decide +kernel⟩

-- A NaN, an infinity, 2.5 and 2^31 into i32; 1 + 2^-24 into bf16; an i32 into fp32; an i32 into i8 with and without sat; FRND of 2.5.
theorem test_conversions :
    (∃ d, Spec.convertsInto (.ftoi 0 0 0 wa) = some d) ∧ (cm 0x7FC00000 0).executes (.ftoi 0 0 0 wa) ∧
    Spec.unpoisoned .a ((cm 0x7FC00000 0).row (.ftoi 0 0 0 wa)) ∧
    after (exec (.ftoi 0 0 0 wa) (cm 0x7FC00000 0)) (fun t => w3 t == 0x80000000 && esr t == 1) = true ∧
    after (exec (.ftoi 0 1 0 wa) (cm 0x7F800000 0)) (fun t => w3 t == 0x7FFFFFFF && esr t == 1) = true ∧
    after (exec (.ftoi 0 0 0 wa) (cm 0x40200000 0)) (fun t => w3 t == 2 && esr t == 0x10) = true ∧
    after (exec (.ftoi 0 1 0 wa) (cm 0x4F000000 0)) (fun t => w3 t == 0x7FFFFFFF && esr t == 1) = true ∧
    after (exec (.fcvt 0 0 0 wa) (one 0x3F800001 0 id (typed .fp32 .fp32 .bf16))) (fun t => w3 t == 0x3F80 && esr t == 0x10) = true ∧
    after (exec (.itof 0 0 wa) (one 0xFFFFFFFF 0 id (typed .i32 .i32 .fp32))) (w3 · == 0xBF800000) = true ∧
    after (exec (.fcvt 0 0 0 wa) (one 300 0 id (typed .i32 .i32 .i8))) (fun t => w3 t == 44 && esr t == 0) = true ∧
    after (exec (.fcvt 0 1 0 wa) (one 300 0 id (typed .i32 .i32 .i8))) (fun t => w3 t == 127 && esr t == 0x14) = true ∧
    after (exec (.frnd 0 0 wa) (fl 0x40200000 0)) (fun t => w3 t == 0x40000000 && esr t == 0x10) = true :=
  ⟨⟨_, rfl⟩, ok (by decide +kernel), clean (by decide +kernel), by decide +kernel, by decide +kernel, by decide +kernel, by decide +kernel,
    by decide +kernel, by decide +kernel, by decide +kernel, by decide +kernel, by decide +kernel⟩

/-- A quantised element of a type, under a scale of a type. -/
def qt (a b : W32) (s d : Ty) : State := one a b id (typed .fp32 s d)

-- The mx scale of 6.0 with emax 2 is 2^0, code 127; of 0, code 0; of NaN, 255 with NV. The gi4 scale of 7.0 is 1.0.
theorem test_quantiser_scales :
    (qt 0x40C00000 0 .n8 .n8).executes (.qnt 0 0 0 1 2 wa) ∧ Spec.unpoisoned .a ((qt 0x40C00000 0 .n8 .n8).row (.qnt 0 0 0 1 2 wa)) ∧
    after (exec (.qnt 0 0 0 1 2 wa) (qt 0x40C00000 0 .n8 .n8)) (fun t => w3 t == 127 && esr t == 0) = true ∧
    after (exec (.qnt 0 0 0 1 2 wa) (qt 0 0 .n8 .n8)) (w3 · == 0) = true ∧
    after (exec (.qnt 0 0 0 1 2 wa) (qt 0x7FC00000 0 .n8 .n8)) (fun t => w3 t == 255 && esr t == 1) = true ∧
    (qt 0x40E00000 0 .n8 .fp16).executes (.qnt 0 0 0 2 0 wa) ∧
    after (exec (.qnt 0 0 0 2 0 wa) (qt 0x40E00000 0 .n8 .fp16)) (w3 · == 0x3C00) = true ∧
    after (exec (.qnt 0 0 0 2 0 wa) (qt 0x7F800000 0 .n8 .fp16)) (fun t => w3 t == 0x7E00 && esr t == 1) = true :=
  ⟨ok (by decide +kernel), clean (by decide +kernel), by decide +kernel, by decide +kernel, by decide +kernel, ok (by decide +kernel),
    by decide +kernel, by decide +kernel⟩

-- Elements at and beyond the ends of their range, under a float scale and under E8M0; a scale 0; a float element.
theorem test_quantiser_elements :
    (qt 0x40E00000 0x3F800000 .fp32 .i4).executes (.qnt 0 0 0 0 0 wab) ∧
    Spec.unpoisoned .ab ((qt 0x40E00000 0x3F800000 .fp32 .i4).row (.qnt 0 0 0 0 0 wab)) ∧
    after (exec (.qnt 0 0 0 0 0 wab) (qt 0x40E00000 0x3F800000 .fp32 .i4)) (fun t => w3 t == 7 && esr t == 0) = true ∧
    after (exec (.qnt 0 0 0 0 0 wab) (qt 0x41000000 0x3F800000 .fp32 .i4)) (fun t => w3 t == 7 && esr t == 0x14) = true ∧
    after (exec (.qnt 0 0 0 0 0 wab) (qt 0xFF800000 0x3F800000 .fp32 .n8)) (fun t => w3 t == 0 && esr t == 1) = true ∧
    after (exec (.qnt 0 0 0 0 0 wab) (qt 0x7FC00000 0x3F800000 .fp32 .i16)) (fun t => w3 t == 0 && esr t == 1) = true ∧
    after (exec (.qnt 0 0 0 0 0 wab) (qt 0x3F800000 0 .fp32 .n4)) (fun t => w3 t == 0 && esr t == 1) = true ∧
    after (exec (.qnt 0 0 0 0 0 wab) (qt 0x3F800000 127 .n8 .i8)) (fun t => w3 t == 64 && esr t == 0) = true ∧
    after (exec (.qnt 0 0 0 0 0 wab) (qt 0x3FFF0000 127 .n8 .i8)) (fun t => w3 t == 127 && esr t == 0x10) = true ∧
    after (exec (.qnt 0 0 0 0 0 wab) (qt 0x40000000 127 .n8 .i8)) (fun t => w3 t == 127 && esr t == 0x14) = true ∧
    after (exec (.qnt 0 0 0 0 0 wab) (qt 0x40400000 0x40000000 .fp32 .fp16)) (w3 · == 0x3E00) = true :=
  ⟨ok (by decide +kernel), clean (by decide +kernel), by decide +kernel, by decide +kernel, by decide +kernel, by decide +kernel, by decide +kernel,
    by decide +kernel, by decide +kernel, by decide +kernel, by decide +kernel⟩

-- Mode 01 of 0.4427 scaled by 2^8 is 113 + 128 (the example after R107); the ends, −∞, NaN; modes 10 and 11 of 1.5 and 0.
theorem test_lutix :
    (cm 0x3EE2A8ED 0).executes (.lutix 0 1 8 wa) ∧ Spec.unpoisoned .a ((cm 0x3EE2A8ED 0).row (.lutix 0 1 8 wa)) ∧
    after (exec (.lutix 0 1 8 wa) (cm 0x3EE2A8ED 0)) (w3 · == 241) = true ∧ after (exec (.lutix 0 0 0 wa) (cm 0x43800000 0)) (w3 · == 255) = true ∧
    after (exec (.lutix 0 0 0 wa) (cm 0xFF800000 0)) (w3 · == 0) = true ∧ after (exec (.lutix 0 0 0 wa) (cm 0x7FC00000 0)) (fun t => w3 t == 0 && esr t == 1) = true ∧
    after (exec (.lutix 0 2 0 wa) (cm 0x3FC00000 0)) (w3 · == 128) = true ∧ after (exec (.lutix 0 3 0 wa) (cm 0x40400000 0)) (w3 · == 192) = true ∧
    after (exec (.lutix 0 3 0 wa) (cm 0 0)) (w3 · == 0) = true :=
  ⟨ok (by decide +kernel), clean (by decide +kernel), by decide +kernel, by decide +kernel, by decide +kernel, by decide +kernel, by decide +kernel,
    by decide +kernel, by decide +kernel⟩

/-- Bank 0 holds one entry at index 0: slope 2, intercept 1. -/
def lt (a b : W32) : State := one a b id { typed .fp32 .i32 .fp32 with luts := [(0, 0, [0x3F80000040000000])] }

theorem test_lut :
    (lt 0x40400000 0).executes (.lut 0 0 0 wab) ∧ Spec.unpoisoned .ab ((lt 0x40400000 0).row (.lut 0 0 0 wab)) ∧
    after (exec (.lut 0 0 0 wab) (lt 0x40400000 0)) (fun t => w3 t == 0x40E00000 && (t.fab.slot 0 0).lt.v == 0x40E00000) = true ∧
    (lt 0x40400000 0x100).executes (.lutsel 0 0 wab) ∧
    after (exec (.lutsel 0 0 wab) (lt 0x40400000 0x100)) (fun t => w3 t == 0 && esr t == 1) = true :=
  ⟨ok (by decide +kernel), clean (by decide +kernel), by decide +kernel, ok (by decide +kernel), by decide +kernel⟩

/-! ## Control and routing (R145-R163) -/

/-- A control token. -/
def ct (v : Bool) (p : Bool := false) : Token := { v := bit 32 v, p := p, ty := .ctl }
/-- A data token. -/
def dat (v : W32) : Token := { v := v }
/-- Destination w3 without operands. -/
def w0 : Wires := wires 15 15 0b000010 0 0 3
/-- The control input from the north has a token. -/
def north (v : Bool) (p : Bool := false) : State := one 5 0 (tok 8 (ct v p))

theorem free {i : Instr} {s : State} (h : (!s.fab.armP && (s.row i).tape.isNone && (s.row i).room (Route.links (s.row i).wr.route) &&
    (s.row i).ctlRoom (s.row i).cout) = true) : Spec.clear i s := by
  simp only [Bool.and_eq_true, Bool.not_eq_true', Option.isNone_iff_eq_none] at h
  exact ⟨h.1.1.1, h.1.1.2, h.1.2, h.2⟩

/-- A value source, or a lane outside discard with a data token. -/
def here (r : Row) (l : Option LaneNo) : Bool :=
  match l with
  | none => true
  | some k => !r.discarding k && (r.head k).any fun t => decide (t.kind = .data)

theorem there {r : Row} {l : Option LaneNo} (h : here r l = true) : Spec.present r l := by
  intro k hk; subst hk
  simp only [here, Bool.and_eq_true, Bool.not_eq_true', Option.any_eq_true, decide_eq_true_eq] at h
  exact h

-- CEMIT without inputs, with A, with a predicate; CTEST of bit 2; CAND, COR and CNOT; EOSQ at data and at EOS.
theorem test_control_values :
    (Spec.clear (.cemit 0 0 1 w0) (one 0 0) ∧ ∃ v pops, Spec.controlValue (.cemit 0 0 1 w0) ((one 0 0).row (.cemit 0 0 1 w0)) v pops) ∧
    after (exec (.cemit 0 0 1 w0) (one 0 0)) (w3 · == 1) = true ∧ after (exec (.cemit 0 0 0 wa) (one 5 0)) (w3 · == 1) = true ∧
    after (exec (.cemit 1 0 0 w0) (north true)) (w3 · == 1) = true ∧ after (exec (.ctest 0 0xC2 wa) (one 4 0)) (w3 · == 1) = true ∧
    after (exec (.ctest 0 0x40 wa) (one 0x80000000 0)) (w3 · == 1) = true ∧
    after (exec (.cand 1 0 5 w0) (north true)) (w3 · == 0) = true ∧ after (exec (.cor 1 0 5 w0) (north true)) (w3 · == 1) = true ∧
    after (exec (.cnot 1 0 w0) (north true)) (fun t => w3 t == 0 && decide ((t.fab.lane 0 0 8).buf = [])) = true ∧
    after (exec (.eosq 0 1 wn) (one 0 0 (tok 0 (dat 1)))) (fun t => w3 t == 0 && decide ((t.fab.lane 0 0 0).buf ≠ [])) = true ∧
    after (exec (.eosq 0 1 wn) (one 0 0 (tok 0 { kind := .eos }))) (fun t => w3 t == 1 && decide ((t.fab.lane 0 0 0).buf = [])) = true := by
  refine ⟨⟨free (by decide +kernel), true, [], there (by decide +kernel), ?_⟩, ?_⟩
  · simp; decide +kernel
  · decide +kernel

-- CTLPOISON of element 0 is 0x08000000, from CEMIT, CNOT and either input of CAND.
theorem test_poisoned_predicates :
    (Spec.clear (.cnot 1 0 w0) (north true true) ∧ ((north true true).row (.cnot 1 0 w0)).pred 1 = some (true, true)) ∧
    (Spec.present ((north true true).row (.cemit 1 0 0 w0)) ((north true true).row (.cemit 1 0 0 w0)).laneA) ∧
    after (exec (.cnot 1 0 w0) (north true true)) (fun t => fb t == ⟨0x08000000, true, .i32⟩) = true ∧
    after (exec (.cemit 1 0 0 w0) (north true true)) (fun t => fb t == ⟨0x08000000, true, .i32⟩) = true ∧
    after (exec (.cand 1 0 5 w0) (north true true)) (fun t => fb t == ⟨0x08000000, true, .i32⟩) = true ∧
    after (exec (.cor 5 0 1 w0) (north true true)) (fun t => fb t == ⟨0x08000000, true, .i32⟩) = true :=
  ⟨⟨free (by decide +kernel), by decide +kernel⟩, there (by decide +kernel), by decide +kernel⟩

-- The true side is w3, the false side the link to the south; EOS from the north goes to both sides.
theorem test_steer :
    (let r := (north true).row (.steer 1 0 2 wa)
     Spec.present r r.laneA ∧ r.pred 1 = some (true, false) ∧ r.tape = none ∧ r.ctlRoom 0 = true ∧ r.room (Route.links r.wr.route) = true ∧
       r.room 2 = true) ∧
    after (exec (.steer 1 0 2 wa) (north true)) (w3 · == 5) = true ∧
    after (exec (.steer 1 0 2 wa) (north false)) (fun t => w3 t == 0 && decide ((t.fab.lane 60 0 0).pipe ≠ [])) = true ∧
    (let r := (one 0 0 (tok 0 { kind := .eos })).row (.steer 1 0 2 wn); r.laneA = some 0 ∧ r.discarding 0 = false ∧ (r.head 0).isSome = true) ∧
    after (exec (.steer 1 0 2 wn) (one 0 0 (tok 0 { kind := .eos }))) (fun t => decide ((t.fab.lane 60 0 0).pipe ≠ [])) = true :=
  ⟨⟨there (by decide +kernel), by decide +kernel⟩, by decide +kernel⟩

/-- Data on the north and east lanes, whose heads arrived on these ticks, and a control token from the south. -/
def both (x y : Nat) (v : Bool) : State :=
  one 0 0 fun z => ((tok 10 (ct v) z).modLane 0 fun l => { l with buf := [dat 7], headAt := x }).modLane 2 fun l => { l with buf := [dat 9], headAt := y }
/-- A from the north, B from the east. -/
def wne : Wires := wires 1 2 0b000010 0 0 3

theorem test_merges :
    (let r := (both 0 0 true).row (.merge 3 0 wne)
     Spec.clear (.merge 3 0 wne) (both 0 0 true) ∧ r.pred 3 = some (true, false) ∧ Spec.present r r.laneA ∧ Spec.present r r.laneB) ∧
    after (exec (.merge 3 0 wne) (both 0 0 true)) (fun t => w3 t == 7 && decide ((t.fab.lane 0 0 2).buf ≠ [])) = true ∧
    after (exec (.merge 3 0 wne) (both 0 0 false)) (fun t => w3 t == 9 && decide ((t.fab.lane 0 0 0).buf ≠ [])) = true ∧
    (let r := (both 0 0 true).row (.mergea 0 wne)
     Spec.clear (.mergea 0 wne) (both 0 0 true) ∧ r.laneA = some 0 ∧ r.laneB = some 2 ∧ r.discarding 0 = false ∧ r.discarding 2 = false ∧
       (r.head 0).isSome = true ∧ (r.head 2).isSome = true ∧ (r.sl.lane 0).headAt ≤ (r.sl.lane 2).headAt) ∧
    after (exec (.mergea 0 wne) (both 0 0 true)) (w3 · == 7) = true ∧ after (exec (.mergea 0 wne) (both 1 0 true)) (w3 · == 9) = true :=
  ⟨⟨free (by decide +kernel), by decide +kernel, there (by decide +kernel), there (by decide +kernel)⟩, by decide +kernel, by decide +kernel,
    ⟨free (by decide +kernel), by decide +kernel⟩, by decide +kernel, by decide +kernel⟩

/-- Data from the east, a control token from the north. -/
def gated (v : Bool) : State := one 0 0 fun z => tok 2 (dat 7) (tok 8 (ct v) z)
/-- A from the east. -/
def we' : Wires := wires 2 15 0b000010 0 0 3

theorem test_gate_and_drop :
    (let r := (gated true).row (.gate 1 0 0 we')
     Spec.clear (.gate 1 0 0 we') (gated true) ∧ r.pred 1 = some (true, false) ∧ Spec.present r r.laneA) ∧
    after (exec (.gate 1 0 0 we') (gated true)) (fun t => w3 t == 7 && decide ((t.fab.lane 0 0 2).buf = [])) = true ∧
    after (exec (.gate 1 0 1 we') (gated true)) (fun t => w3 t == 0 && decide ((t.fab.lane 0 0 2).buf ≠ [])) = true ∧
    (let r := (gated true).row (.drop 1 0 0 we')
     r.laneA = some 2 ∧ r.ctlRoom 0 = true ∧ r.discarding 2 = false ∧ (r.head 2).isSome = true ∧ r.pred 1 = some (true, false)) ∧
    after (exec (.drop 0 0 0 we') (gated true)) (fun t => decide ((t.fab.lane 0 0 2).buf = []) && decide ((t.fab.lane 0 0 8).buf ≠ [])) = true ∧
    after (exec (.drop 1 0 0 we') (gated true)) (fun t => decide ((t.fab.lane 0 0 2).buf = [])) = true ∧
    after (exec (.drop 1 0 0 we') (gated false)) (fun t => decide ((t.fab.lane 0 0 2).buf ≠ [] ∧ (t.fab.lane 0 0 8).buf = [])) = true :=
  ⟨⟨free (by decide +kernel), by decide +kernel, there (by decide +kernel)⟩, by decide +kernel⟩

/-- The link to the south alone. -/
def south : Wires := wires 15 15 0b001000 0 0 0

theorem test_eose :
    (let r := (north true).row (.eose 1 0 south); r.room (Route.links r.wr.route) = true ∧ r.pred 1 = some (true, false)) ∧
    after (exec (.eose 0 0 south) (north true)) (fun t => decide ((t.fab.lane 60 0 0).pipe.map (·.tok.kind) = [.eos] ∧ (t.fab.lane 0 0 8).buf ≠ [])) = true ∧
    after (exec (.eose 1 0 south) (north true)) (fun t => decide ((t.fab.lane 60 0 0).pipe ≠ [])) = true ∧
    after (exec (.eose 1 1 south) (north true)) (fun t => decide ((t.fab.lane 60 0 0).pipe = [] ∧ (t.fab.lane 0 0 8).buf = [])) = true := by
  decide +kernel

/-- Counter 0 stands at 1 with limit 2. -/
def counting (x : Slot) : Slot := { x with cnt := x.cnt.set 0 ⟨1, 2, false⟩ }
/-- Counter 0. -/
def cnt0 (t : State) : Counter := (t.fab.slot 0 0).cnt.get 0

theorem test_counters :
    (one 9 0).executes (.cnti 0 (wires 0 15 0 1 0 0)) ∧ after (exec (.cnti 0 (wires 0 15 0 1 0 0)) (one 9 0)) (fun t => cnt0 t == ⟨0, 9, false⟩) = true ∧
    Spec.clear (.cnts 0 0 0 w0) (one 0 0 counting) ∧ after (exec (.cnts 0 0 0 w0) (one 0 0 counting)) (fun t => cnt0 t == ⟨0, 2, true⟩ && w3 t == 1) = true ∧
    (let s := one 0 0 fun x => counting (tok 8 (ct false) x)
     (s.row (.cnts 1 0 0 w0)).pred 1 = some (false, false) ∧ after (exec (.cnts 1 0 0 w0) s) (fun t => cnt0 t == ⟨1, 2, false⟩ && w3 t == 0) = true) :=
  ⟨ok (by decide +kernel), by decide +kernel, free (by decide +kernel), by decide +kernel, by decide +kernel⟩

theorem test_query_rows :
    ((∃ v, Spec.queried (.cntl 4 w0) ((one 0 0 counting).row (.cntl 4 w0)) = some v) ∧ (one 0 0 counting).executes (.cntl 4 w0)) ∧
    after (exec (.cntl 4 w0) (one 0 0 counting)) (w3 · == 2) = true ∧ after (exec (.cntl 0 w0) (one 0 0 counting)) (w3 · == 1) = true ∧
    after (exec (.frmq 1 w0) (one 0 0)) (w3 · == 1) = true ∧ after (exec (.frmq 3 w0) (one 0 0)) (w3 · == 1) = true ∧
    after (exec (.rowq 0 w0) (one 0 0)) (w3 · == 0) = true ∧ after (exec (.iofq 2 w0) (one 0 0)) (w3 · == 1) = true :=
  ⟨⟨⟨_, rfl⟩, ok (by decide +kernel)⟩, by decide +kernel⟩

theorem test_delay :
    (let s := one 5 0 fun x => { x with dly := [⟨1, false⟩, ⟨2, true⟩] }
     s.executes (.dly 1 wa) ∧ (s.row (.dly 1 wa)).sl.dly = [⟨1, false⟩, ⟨2, true⟩] ∧
       after (exec (.dly 1 wa) s) (fun t => w3 t == 1 && decide ((t.fab.slot 0 0).dly = [⟨2, true⟩, ⟨5, false⟩])) = true) :=
  ⟨ok (by decide +kernel), by decide +kernel, by decide +kernel⟩

-- Levels and handoff bits of the own context and of slot 1, which has no run.
theorem test_firing_keys :
    Spec.clear (.ctxp 0 2 w0) (one 0 0) ∧ after (exec (.ctxp 0 2 w0) (one 0 0)) (fun t => (t.fab.slot 0 0).lvl == 2 && w3 t == 0) = true ∧
    after (exec (.ctxp 1 2 w0) (north false)) (fun t => (t.fab.slot 0 0).lvl == 0) = true ∧
    after (exec (.phase 0 5 (wires 15 15 0 0 0 0)) (one 0 0 fun x => { x with h := true }))
      (fun t => !(t.fab.slot 0 0).h && !(t.fab.slot 0 1).h) = true :=
  ⟨free (by decide +kernel), by decide +kernel⟩

-- The arm of predicate 1 of pair 0 issues next, on the same element, with its own words.
theorem test_armx :
    (let s := one 0 0 (tok 8 (ct true)) { arms := [1, 2] }
     let r := s.row (.armx 1 0 0 (wires 15 15 0 0 0 0))
     s.fab.armP = false ∧ r.tape = none ∧ r.pred 1 = some (true, false) ∧
       after (exec (.armx 1 0 0 (wires 15 15 0 0 0 0)) s) (fun t => decide (t.agenda = [.arm 0 0 2 false])) = true) := by
  decide +kernel

/-! ## Accesses (R164-R178, R191, R229-R231, R385) -/

/-- Element 0 has tile 1 of four fp32 words at E, tile 2 of the same shape at D, and the window 3 at virtual address 0x1000. -/
def tiles (s : State) : State :=
  { s with fab := s.fab.modElem 0 fun x => { x with tiles := [(1, { cols := 4, len := 1 }), (2, { lvl := 2, cols := 4, len := 1 }),
      (3, { lvl := 3, homeg := true, cols := 4, loc := 0x1000 })] } }
/-- A word of element 0's local memory with a tag. -/
def word (a : Nat) (v tag : Nat) (s : State) : State := { s with fab := (s.fab.store (elemBase 0 + a) (leBytes 4 v)).setTag (elemBase 0 + a) tag }
/-- The tag of it. -/
def tagAt (a : Nat) (t : State) : Nat := t.fab.tag (elemBase 0 + a)

/-- A store: handle in w3, value in w1, index in w2. -/
def wst : Wires := wires 0 0 0 1 2 3
/-- w3 holds a handle. -/
def hold3 (h : W32) (x : Slot) : Slot := { x with regs := x.regs.set 3 ⟨h, false⟩ }

-- LDT of word 1 of tile 1 with sign extension of its low byte; LDTE empties; STTF fills; FEQ reads F; FESET clears it.
theorem test_local_accesses :
    (let s := word 4 0x80 0 (tiles (one 1 1))
     let i := Instr.ldt 0 2 0 0 0 0 wab
     let r := s.row i
     Spec.tiled i = true ∧ s.executes i ∧ Spec.placed i r ∧ Spec.uncut r ∧ (∃ t, s.fab.tileOf r.e r.c (handleOf (Spec.handle i r).v) = some t ∧ t.lvl = 1 ∧
       Spec.itemOffset r + 2 ^ r.size ≤ t.byteLen) ∧ s.fab.tag (elemBase 0 + 4) < 4 ∧
       s.fab.chainOk r.e r.c r.runId r.copyNo (s.fab.rowOf r.e r.c).2 r.wave = true ∧ r.run.regen = none ∧
       (Spec.localAccess i r (s.fab.load (elemBase 0 + 4) 4) 0).isSome = true) ∧
    after (exec (.ldt 0 2 0 0 0 0 wab) (word 4 0x80 0 (tiles (one 1 1)))) (w3 · == 0x80) = true ∧
    after (exec (.ldt 0 0 1 0 0 3 wab) (word 4 0x80 0 (tiles (one 1 1)))) (w3 · == 0xFFFFFF80) = true ∧
    after (exec (.ldte 0 2 0 0 0 0 wab) (word 4 9 0 (tiles (one 1 1)))) (fun t => w3 t == 9 && tagAt 4 t == 1) = true ∧
    after (exec (.sttf 0 2 0 0 0 wst) (word 4 0 1 (tiles (one 7 1 (hold3 1))))) (fun t => tagAt 4 t == 0 && t.fab.load (elemBase 0 + 4) 4 == 7) = true ∧
    after (exec (.stt 0 1 0 0 0 wst) (word 0 0xFFFFFFFF 0 (tiles (one 7 1 (hold3 1))))) (fun t => t.fab.load (elemBase 0) 4 == 0x0007FFFF) = true ∧
    after (exec (.feq 0 2 0 0 0 wab) (word 4 0 3 (tiles (one 1 1)))) (w3 · == 2) = true ∧
    after (exec (.feset 0 2 0 0 0 wst) (word 4 0 0 (tiles (one 0 1 (hold3 1))))) (fun t => tagAt 4 t == 1) = true ∧
    after (exec (.ldts 0 2 0 0 0 0 wab) (word 4 5 2 (tiles (one 1 1)))) (fun t => fb t == ⟨0x02000000, true, .i32⟩) = true := by
  refine ⟨⟨by decide +kernel, ok (by decide +kernel), ⟨by decide +kernel, by decide +kernel⟩, ⟨by decide +kernel, by decide +kernel, by decide +kernel⟩,
    ⟨{ cols := 4, len := 1 }, by decide +kernel⟩, by decide +kernel⟩, ?_⟩
  decide +kernel

-- Handle 5 is free; word 16 of tile 1, which is padded to 64 bytes, lies outside it.
theorem test_invalid_handles :
    (let s := tiles (one 5 0)
     let i := Instr.ldt 0 2 0 0 0 0 wab
     Spec.tiled i = true ∧ s.executes i ∧ Spec.placed i (s.row i) ∧ Spec.valued i (s.row i) ∧ s.fab.tileOf 0 0 5 = none) ∧
    after (exec (.ldt 0 2 0 0 0 0 wab) (tiles (one 5 0))) (fun t => fb t == ⟨0x09000000, true, .i32⟩) = true ∧
    after (exec (.ldt 0 2 0 0 0 16 wab) (tiles (one 1 0))) (fun t => fb t == ⟨0x09000000, true, .i32⟩) = true ∧
    after (exec (.stt 0 2 0 0 16 wst) (tiles (one 7 0 (hold3 1)))) (fun t => decide (t.fab.mem = [])) = true :=
  ⟨⟨by decide +kernel, ok (by decide +kernel), ⟨by decide +kernel, by decide +kernel⟩, trivial, by decide +kernel⟩, by decide +kernel⟩

theorem test_poison_address :
    (let s := tiles (one 0 0 sick)
     let i := Instr.ldt 0 2 0 0 0 0 wab
     Spec.tiled i = true ∧ s.executes i ∧ ∃ p, [(s.row i).a, (s.row i).b].find? (·.p) = some p) ∧
    after (exec (.ldt 0 2 0 0 0 0 wab) (tiles (one 0 0 sick))) (fun t => fb t == ⟨7, true, .i32⟩) = true :=
  ⟨⟨by decide +kernel, ok (by decide +kernel), ⟨7, true, .untyped⟩, by decide +kernel⟩, by decide +kernel⟩

/-- The tick on which element 0's hold completes. -/
def heldUntil (t : State) : Option Nat := (t.fab.elem 0).hold.map (·.due)

-- 16 t at D, 44 t at G, 48 t for an atomic.
theorem test_distant_accesses :
    (let s := tiles (one 2 1)
     let i := Instr.ldt 0 2 0 0 0 0 wab
     s.executes i ∧ Spec.placed i (s.row i) ∧ Spec.valued i (s.row i) ∧
       ∃ t, s.fab.tileOf 0 0 (handleOf (Spec.handle i (s.row i)).v) = some t ∧ t.lvl ≠ 1 ∧ Spec.itemOffset (s.row i) + 2 ^ (s.row i).size ≤ t.byteLen) ∧
    after (exec (.ldt 0 2 0 0 0 0 wab) (tiles (one 2 1))) (fun t => heldUntil t == some 16) = true ∧
    after (exec (.gld 0 2 0 0 0 0 wab) (tiles (one 3 1))) (fun t => heldUntil t == some 44) = true ∧
    after (exec (.aadd 0 0 0 0 0 wab) (tiles (one 3 1))) (fun t => heldUntil t == some 48) = true :=
  ⟨⟨ok (by decide +kernel), ⟨by decide +kernel, by decide +kernel⟩, trivial, { lvl := 2, cols := 4, len := 1 }, by decide +kernel⟩, by decide +kernel⟩

/-- The root table of partition 0 stands at 2^34 and maps the first 32 GiB of virtual addresses to themselves, writable. -/
def mapped (s : State) : State := { s with fab := (s.fab.store (2 ^ 34) [7]).modPart 0 fun p => { p with root := some (2 ^ 34) } }
/-- The access of element 0 that a row leaves, on its completion tick. -/
def pending (s : State) (i : Instr) (v old : Nat) : State :=
  let s := mapped s
  match exec i { s with fab := s.fab.store 0x1004 (leBytes 4 old) } with
  | .next t => { t with fab := { t.fab with clock := v } }
  | _ => s
/-- The word that the window's item 1 reaches. -/
def wordG (t : State) : Nat := t.fab.load 0x1004 4

-- GLD, GST and AADD of item 1 of the window.
theorem test_window_accesses :
    (let s := pending (tiles (one 3 1)) (.gld 0 2 0 0 0 0 wab) 44 0x77
     (s.fab.elem 0).hold.any (fun h => decide (h.kind = .scalar ∧ h.isG = true ∧ h.placed = false ∧ h.parked = false ∧ h.aux ≠ [1] ∧ h.armP = false ∧
       s.fab.armP = false ∧ (h.row s.fab 0).tape = none ∧ (s.fab.run h.run).regen = none ∧ s.fab.migs = [] ∧
       (s.fab.elemTranslate 0 (accessKind (h.row s.fab 0).opc) h.va).1.toOption = some 0x1004 ∧ s.fab.tag 0x1004 < 2 ∧
       s.fab.chainOk 0 h.c h.run h.copy h.frame (h.row s.fab 0).wave = true)) = true) ∧
    after (exec (.scalarAccessCompletion 0) (pending (tiles (one 3 1)) (.gld 0 2 0 0 0 0 wab) 44 0x77)) (fun t => w3 t == 0x77 && heldUntil t == none) = true ∧
    after (exec (.scalarAccessCompletion 0) (pending (tiles (one 9 1 (hold3 3))) (.gst 0 2 0 0 0 wst) 44 0)) (fun t => wordG t == 9) = true ∧
    after (exec (.scalarAccessCompletion 0) (pending (tiles (one 3 1 (hold3 5))) (.aadd 0 0 0 0 0 wab) 48 0xFFFFFFFF))
      (fun t => w3 t == 0xFFFFFFFF && wordG t == 4) = true := by
  decide +kernel

/-! ## Tiles and jobs (R164-R181, R199, R204) -/

/-- A parameter block of its first words. -/
def block (ws : List W32) : BitVec 256 := BitVec.ofNat 256 ((ws.zip (List.range 8)).foldl (fun n (w, k) => n + w.toNat * 2 ^ (32 * k)) 0)
/-- A share with parameter block 0. -/
def withBlock (ws : List W32) : Share := { params := [(0, block ws)] }
/-- A handle in A. -/
def wh : Wires := wires 0 15 0b000010 1 0 3

-- A 1 × 4 fp32 tile at E, empty (INIT 01): handle 1 stands first free; a window at G with INIT 10; no handle free.
theorem test_talloc :
    (let s := one 0 0 id (withBlock [0x09003000, 5])
     let r := s.row (.talloc 0 0 0 0 w0)
     let t := allocTile r.block r.c r.now
     s.executes (.talloc 0 0 0 0 w0) ∧ s.fab.migs = [] ∧ r.el.freeHandle = some 1 ∧ t.lvl = 1 ∧
       firstFit (s.fab.storage r.e t.lvl).1 (s.fab.storage r.e t.lvl).2 (t.need t.lvl) = some 0 ∧
       after (exec (.talloc 0 0 0 0 w0) s) (fun t => w3 t == 1 && tagAt 0 t == 1 && tagAt 60 t == 1 && tagAt 64 t == 0) = true) ∧
    (let s := one 0 0 id (withBlock [0x09003000, 0xB, 0, 0x1000])
     let r := s.row (.talloc 0 0 0 0 w0)
     (allocTile r.block r.c r.now).lvl = 3 ∧ bits (pword r.block 1) 2 2 = 2 ∧
       after (exec (.talloc 0 0 0 0 w0) s) (fun t => w3 t == 1 && decide (t.fab.mem = [])) = true) ∧
    (let s := one 0 0 id (withBlock [0x09FFFFFF, 6])
     let r := s.row (.talloc 0 0 0 0 w0)
     let t := allocTile r.block r.c r.now
     t.lvl = 2 ∧ t.need 2 = 16384) := by
  refine ⟨⟨ok (by decide +kernel), ?_⟩, ?_, ?_⟩ <;> decide +kernel

-- A D tile of all 16384 units does not fit beside tile 2, which may not be moved.
theorem test_talloc_full :
    let s := tiles (one 0 0 id (withBlock [0x09FFFFFF, 6]))
    let r := s.row (.talloc 0 0 0 0 w0)
    let t := allocTile r.block r.c r.now
    firstFit (s.fab.storage r.e 2).1 (s.fab.storage r.e 2).2 (t.need 2) = none ∧ s.fab.prefixFor r.e 2 (t.need 2) = none ∧
      after (exec (.talloc 0 0 0 0 w0) s) (fun t => w3 t == 0 && esr t == 0x80) = true := by
  decide +kernel

/-- A job of queue S that writes tile 1. -/
def busy (s : State) : State :=
  { s with fab := s.fab.modElem 0 fun x => { x with sq := x.sq.set 0 { live := true, st := .running, opc := 0x7A, a := ⟨1, false, .hdl⟩, b := ⟨1, false, .hdl⟩, dst := some 1 } } }

theorem test_tfree :
    (let s := tiles (one 1 0); s.executes (.tfree 0 0 0 wh) ∧ (s.fab.tileOf 0 0 1).isSome = true ∧ s.fab.tileBusy 0 1 = false) ∧
    after (exec (.tfree 0 0 0 wh) (tiles (one 1 0))) (fun t => w3 t == 0 && decide (t.fab.tileOf 0 0 1 = none)) = true ∧
    ((busy (tiles (one 1 0))).fab.tileBusy 0 1 = true ∧ after (exec (.tfree 0 0 0 wh) (busy (tiles (one 1 0)))) (w3 · == 1) = true) ∧
    after (exec (.tfree 0 0 0 wh) (tiles (one 9 0))) (w3 · == 2) = true :=
  ⟨⟨ok (by decide +kernel), by decide +kernel⟩, by decide +kernel⟩

-- LVL, columns, the format word of a window, an invalid handle, free segments and the longest run.
theorem test_tqry :
    (tiles (one 1 0)).executes (.tqry 0 0 0 0 0 wh) ∧
    after (exec (.tqry 0 0 0 0 0 wh) (tiles (one 2 0))) (w3 · == 2) = true ∧ after (exec (.tqry 0 0 0 0 2 wh) (tiles (one 1 0))) (w3 · == 4) = true ∧
    after (exec (.tqry 0 0 0 0 3 wh) (tiles (one 3 0))) (w3 · == 0x209) = true ∧ after (exec (.tqry 0 0 0 0 4 wh) (tiles (one 3 0))) (w3 · == 0x1000) = true ∧
    after (exec (.tqry 0 0 0 0 1 wh) (tiles (one 9 0))) (w3 · == 0) = true ∧ after (exec (.tqry 0 0 0 0 8 wh) (tiles (one 1 0))) (w3 · == 383) = true ∧
    after (exec (.tqry 0 0 0 0 9 wh) (tiles (one 1 0))) (w3 · == 383) = true ∧
    after (exec (.tqry 0 0 0 0 11 wh) (one 1 0 fun x => { x with lastS := 8 })) (w3 · == 8) = true :=
  ⟨ok (by decide +kernel), by decide +kernel⟩

-- SPL; an invalid handle, a window, a busy tile, the present level; a move from E to D takes 16 + 64/64 ticks.
theorem test_tlevel :
    (tiles (one 1 0)).executes (.tlevel 0 0 0 2 0 wh) ∧
    after (exec (.tlevel 0 0 0 0 1 wh) (tiles (one 1 0))) (fun t => w3 t == 0 && (t.fab.tileOf 0 0 1).any (·.spl)) = true ∧
    after (exec (.tlevel 0 0 0 2 0 wh) (tiles (one 9 0))) (w3 · == 3) = true ∧ after (exec (.tlevel 0 0 0 2 0 wh) (tiles (one 3 0))) (w3 · == 4) = true ∧
    after (exec (.tlevel 0 0 0 2 0 wh) (busy (tiles (one 1 0)))) (w3 · == 2) = true ∧ after (exec (.tlevel 0 0 0 1 0 wh) (tiles (one 1 0))) (w3 · == 0) = true ∧
    (let s := tiles (one 1 0); (firstFit (s.fab.storage 0 2).1 (s.fab.storage 0 2).2 (({ cols := 4, len := 1 } : Tile).need 2)).isSome = true) ∧
    after (exec (.tlevel 0 0 0 2 0 wh) (tiles (one 1 0))) (fun t => heldUntil t == some 17) = true :=
  ⟨ok (by decide +kernel), by decide +kernel⟩

/-- Slot 0 of queue S of element 0 holds this job. -/
def job (b : Job) (s : State) : State := { s with fab := s.fab.modElem 0 fun x => { x with sq := x.sq.set 0 b } }
/-- Slot 0 of queue S of element 0. -/
def job0 (t : State) : Job := t.fab.job 0 0
/-- The job of R199's example: stopped, XLATE, opcode 0x84, at element 0x400. -/
def stuck : Job := { live := true, st := .stopped, cause := 4, opc := 0x84, idx := 0x400 }

-- The progress words of the example of 08 (0x44840000 and 0x00000400); SABT and SRES of running, stopped, unserviceable and idle jobs.
theorem test_progress_rows :
    (job stuck (one 0 0)).executes (.sprg 0 0 0 0 1 w0) ∧ (job stuck (one 0 0)).executes (.sabt 0 0 0 0 w0) ∧ (job stuck (one 0 0)).executes (.sres 0 0 0 0 w0) ∧
    after (exec (.sprg 0 0 0 0 1 w0) (job stuck (one 0 0))) (w3 · == 0x44840000) = true ∧
    after (exec (.sprg 0 0 0 0 0 w0) (job stuck (one 0 0))) (w3 · == 0x400) = true ∧
    after (exec (.sabt 0 0 0 0 w0) (job stuck (one 0 0))) (fun t => w3 t == 0 && decide ((job0 t).st = .aborted ∧ (job0 t).cause = 5)) = true ∧
    after (exec (.sabt 0 0 0 0 w0) (job { stuck with st := .running } (one 0 0))) (fun t => w3 t == 0 && (job0 t).abort && decide (44 ≤ (job0 t).next)) = true ∧
    after (exec (.sabt 0 0 0 0 w0) (one 0 0)) (w3 · == 1) = true ∧ after (exec (.sres 0 0 0 0 w0) (one 0 0)) (w3 · == 1) = true ∧
    after (exec (.sres 0 0 0 0 w0) (job { stuck with safe := true } (one 0 0))) (w3 · == 2) = true ∧
    after (exec (.sres 0 0 0 0 w0) (job stuck (one 0 0))) (fun t => w3 t == 0 && decide ((job0 t).st = .running ∧ (job0 t).next = 28)) = true :=
  ⟨ok (by decide +kernel), ok (by decide +kernel), ok (by decide +kernel), by decide +kernel⟩

-- TCOPY of a 1 × 4 window between tiles 1 and 2; TFILL of a window beyond the tile ends with BOUNDS.
theorem test_job_rows :
    (let s := tiles (one 1 2 id (withBlock [0, 0, 0x3000]))
     let i := Instr.tcopy 0 0 0 1 (wires 0 0 0 1 2 0)
     (Spec.admission i (s.row i)).any (fun x => decide (x.2 = 0) && x.1.all fun t => !t.p) = true ∧ s.executes i ∧ (s.row i).el.freeSlot = some 0 ∧
       Spec.uncut (s.row i) ∧ after (exec i s) (fun t => decide ((job0 t).st = .running ∧ (job0 t).opc = 0x7A)) = true) ∧
    (let s := tiles (one 5 1 id (withBlock [0, 0, 0x4000]))
     let i := Instr.tfill 0 0 0 1 (wires 0 0 0 1 2 0)
     (Spec.admission i (s.row i)).any (fun x => decide (x.2 ≠ 0)) = true ∧
       after (exec i s) (fun t => decide ((job0 t).st = .aborted ∧ (job0 t).cause = 1)) = true) :=
  ⟨⟨by decide +kernel, ok (by decide +kernel), by decide +kernel, ⟨by decide +kernel, by decide +kernel, by decide +kernel⟩, by decide +kernel⟩, by decide +kernel⟩

/-! ## Matrix node, patterns, codebooks, ordering rows (R232-R242, R250-R264, R268-R293) -/

/-- Handles in A and B. -/
def w12 : Wires := wires 0 0 0 1 2 0

theorem test_matrix_commands_queue :
    (let s := tiles (one 1 1 id (withBlock [0]))
     let i := Instr.mma 0 0 1 1 w12
     (Spec.commandRow i (s.row i)).any (fun x => x.all fun t => !t.p) = true ∧ s.executes i ∧
       after (exec i s) (fun t => decide ((t.fab.elem 0).mq.map (fun m => (m.opc, m.ha, m.hb)) = [(0xA0, 1, 1)])) = true) :=
  ⟨by decide +kernel, ok (by decide +kernel), by decide +kernel⟩

/-- The node of element 0 holds this progress register and queue M this command. -/
def node (p : MProg) (m : List MCmd) (s : State) : State := { s with fab := s.fab.modElem 0 fun x => { x with node := { x.node with prg := p }, mq := m } }
/-- A multiply. -/
def mul1 : MCmd := { op := 0xA00000, begun := true }
/-- A command stopped by XLATE at group 3 of 8. -/
def halted : MProg := { st := .stopped, cause := 4, opc := 0xA0, total := 8, done := 3 }

-- DONE and TOTAL, and the state word; MRES without a stop, of an unserviceable one, of a stop; MABT of an empty queue and of a command.
theorem test_matrix_rows :
    (node halted [mul1] (one 0 0)).executes (.mprg 0 w0) ∧ (node halted [mul1] (one 0 0)).executes (.mres w0) ∧ (node halted [mul1] (one 0 0)).executes (.mabt w0) ∧
    after (exec (.mprg 0 w0) (node halted [mul1] (one 0 0))) (w3 · == 0x00080003) = true ∧
    after (exec (.mprg 2 w0) (node halted [mul1] (one 0 0))) (w3 · == 0x64A00000) = true ∧
    after (exec (.mres w0) (one 0 0)) (w3 · == 1) = true ∧ after (exec (.mres w0) (node { halted with safe := true } [mul1] (one 0 0))) (w3 · == 2) = true ∧
    after (exec (.mres w0) (node halted [mul1] (one 0 0))) (fun t => w3 t == 0 && decide ((t.fab.elem 0).node.prg.st = .feeding ∧ (t.fab.elem 0).node.prg.done = 3)) = true ∧
    after (exec (.mabt w0) (one 0 0)) (w3 · == 1) = true ∧
    after (exec (.mabt w0) (node halted [mul1] (one 0 0))) (fun t => w3 t == 0 && decide ((t.fab.elem 0).mq = [] ∧ (t.fab.elem 0).node.prg.st = .aborted)) = true :=
  ⟨ok (by decide +kernel), ok (by decide +kernel), ok (by decide +kernel), by decide +kernel⟩

-- MACC.x1 of block 0 is legal; command 6 and an undefined block are not; a poison word passes on.
theorem test_mshp :
    (let s := one 0x1004 0 id (withBlock [0])
     let i := Instr.mshp 0 0 0 wh
     let r := s.row i
     s.executes i ∧ mget 0 r.sh.params = some 0 ∧ matrixErr 0xA4 0 1 0 true true r.sh.wave r.sh.ownsCb = 0 ∧
       after (exec i s) (fun t => w3 t == 0 && decide ((t.fab.elem 0).mq.map (·.opc) = [0xA4])) = true) ∧
    after (exec (.mshp 0 0 0 wh) (one 6 0 id (withBlock [0]))) (fun t => w3 t == 1 && decide ((t.fab.elem 0).mq = [])) = true ∧
    after (exec (.mshp 0 0 0 wh) (one 0x1014 0 id (withBlock [0]))) (fun t => w3 t == 1 && decide ((t.fab.elem 0).mq = [])) = true ∧
    ((one 0 0 sick (withBlock [0])).row (.mshp 0 0 0 wh)).a.p = true ∧
    after (exec (.mshp 0 0 0 wh) (one 0 0 sick (withBlock [0]))) (fun t => (fb t).p && decide ((t.fab.elem 0).mq = [])) = true :=
  ⟨⟨ok (by decide +kernel), by decide +kernel⟩, by decide +kernel⟩

theorem test_pattern_rows :
    (let s := tiles (one 1 0 id (withBlock [7]))
     s.executes (.layw 0 wh) ∧ (s.row (.layw 0 wh)).a.p = false ∧ (s.fab.tileOf 0 0 1).isSome = true ∧
       after (exec (.layw 0 wh) s) (fun t => w3 t == 0 && (t.fab.slot 0 0).pats.get 2 == (1, 7)) = true ∧
       after (exec (.layr 0 1 wh) s) (fun t => w3 t == 0 && (t.fab.slot 0 0).pats.get 1 == (1, 7) && (t.fab.slot 0 0).pats.get 0 == (0, 0)) = true) ∧
    after (exec (.layr 0 0 wh) (one 9 0 id (withBlock [7]))) (fun t => w3 t == 1 && (t.fab.slot 0 0).pats.get 0 == (0, 0)) = true :=
  ⟨⟨ok (by decide +kernel), by decide +kernel⟩, by decide +kernel⟩

/-- Codebook 1 in bf16: component 2 of entry 5 is 1.5. -/
def book (a : W32) (tag : Nat) : State :=
  let s := one a 0 id { typed .n32 .n32 .fp32 with cbs := [(1, .bf16, [])] }
  { s with fab := (s.fab.store (cbkPlace 0 .bf16 1 5 2) [0xC0, 0x3F]).setTag (cbkTag 0 .bf16 1 5) tag }

theorem test_codebook_and_expansion :
    ((book 5 0).executes (.vqx 0 0 0 2 1 wa) ∧ ((book 5 0).fab.cbElt 0 .bf16 1 5 2).p = false) ∧
    after (exec (.vqx 0 0 0 2 1 wa) (book 0x105 0)) (w3 · == 0x3FC00000) = true ∧
    ((book 5 2).fab.cbElt 0 .bf16 1 5 2).p = true ∧ after (exec (.vqx 0 0 0 2 1 wa) (book 5 2)) (fun t => fb t == ⟨0x02000000, true, .fp32⟩) = true ∧
    (one 0 0).executes (.dcmpq 0 0 0 0 0 w0) ∧ after (exec (.dcmpq 0 0 0 0 0 w0) (job stuck (one 0 0))) (w3 · == 0) = true ∧
    after (exec (.dcmpq 0 0 0 0 0 w0) (job { st := .done, opc := 0xB9, idx := 77 } (one 0 0))) (w3 · == 77) = true :=
  ⟨⟨ok (by decide +kernel), by decide +kernel⟩, by decide +kernel, by decide +kernel, by decide +kernel, ok (by decide +kernel), by decide +kernel⟩

theorem test_fences :
    (one 0 0).executes (.acqs (wires 15 15 0 0 0 0)) ∧ (one 0 0).executes (.rels (wires 15 15 0 0 0 0)) ∧
    (busy (tiles (one 0 0))).executes (.fence 8 (wires 15 15 0 0 0 0)) ∧
    after (exec (.fence 8 (wires 15 15 0 0 0 0)) (busy (tiles (one 0 0)))) (fun t => (t.fab.elem 0).hold.any fun h => decide (h.kind = .fence)) = true ∧
    after (exec (.fence 0 (wires 15 15 0 0 0 0)) (busy (tiles (one 0 0)))) (fun t => decide ((t.fab.elem 0).hold = none)) = true :=
  ⟨ok (by decide +kernel), ok (by decide +kernel), ok (by decide +kernel), by decide +kernel⟩

-- Cinch 3 of die 0 (element 0's own) and of die 1.
theorem test_cinch_rows :
    (let s := one 0 0 id (withBlock [3, 2])
     (Spec.cinchRow (.cinit 0 w0) (s.row (.cinit 0 w0))).isSome = true ∧ s.executes (.cinit 0 w0) ∧
       after (exec (.cinit 0 w0) s) (fun t => (t.fab.elem 0).hold.any (fun h => h.h == 3) && t.fab.evq.any fun x => x.tick == 4) = true) ∧
    (let s := one 0 0 id (withBlock [0x103])
     after (exec (.carr 0 0 w0) s) (fun t => (t.fab.elem 0).hold.any (fun h => h.h == 259) && t.fab.evq.any fun x => x.tick == 16) = true) :=
  ⟨⟨by decide +kernel, ok (by decide +kernel), by decide +kernel⟩, by decide +kernel⟩

/-- A participant of a group of two, its own contribution, and one already made. -/
def group (m : W32) (xs : FMap Contrib) : State := let s := one 5 0 id (withBlock [3, m]); { s with fab := { s.fab with colls := xs } }

theorem test_coll :
    (let s := group 1 []
     let i := Instr.coll 0 0 0 1 (wires 0 15 0 1 0 0)
     s.executes i ∧ (s.row i).el.freeSlot = some 0 ∧ (s.row i).cp.participant (s.row i).copyNo (s.row i).e < 2 ∧
       after (exec i s) (fun t => t.fab.colls.any (fun x => x.2.v.v == 5) && decide ((job0 t).st = .running)) = true) ∧
    (let s := group 1 [(9, ⟨0, 3, 0, 0, 1, {}, 0, false, 0⟩)]
     after (exec (.coll 0 0 0 1 (wires 0 15 0 1 0 0)) s) (fun t => decide ((job0 t).st = .aborted ∧ (job0 t).cause = 8)) = true) ∧
    (let s := group 0 []
     let s : State := { s with fab := { s.fab with runs := [(0, { copies := [{}, { cols := 1 }] })] }.modSlot 0 0 fun x => { x with run := some (0, 1) } }
     after (exec (.coll 0 0 0 1 (wires 0 15 0 1 0 0)) s) (fun t => decide ((job0 t).st = .aborted ∧ (job0 t).cause = 1)) = true) :=
  ⟨⟨ok (by decide +kernel), by decide +kernel⟩, by decide +kernel⟩

/-! ## Tapes and containment (R295-R319, R349-R370) -/

/-- Region 0 of run 0 changed. -/
def withCopy (g : Copy → Copy) (s : State) : State := { s with fab := s.fab.modRun 0 fun x => x.modCopy 0 g }
/-- Region 0 of run 0. -/
def copy0 (t : State) : Copy := (t.fab.run 0).copy 0
/-- Parameter block of tape 3: two value chunks, one branch chunk, two key entries. -/
def tapeBlock : Share := withBlock [3, 0x00010002, 0x00020000]
/-- A recording of tape 3 that started with an earlier row. -/
def recording (s : State) : State := withCopy (fun k => { k with g := 1, rec_ := some { key := 3, since := 0 } }) { s with fab := { s.fab with clock := 1 } }
/-- A link to the south as the only destination. -/
def wsouth : Wires := wires 0 15 0b001000 1 0 0

theorem test_tape_rows :
    (let s := one 0 0 id tapeBlock
     let r := s.row (.tapeb 0 w0)
     s.executes (.tapeb 0 w0) ∧ Spec.running r ∧ r.run.regen = none ∧ r.cp.rec_ = none ∧
       firstFit (s.fab.storage (fieldNo r.cp.ox r.cp.oy) 2).1 (s.fab.storage (fieldNo r.cp.ox r.cp.oy) 2).2 (unitsAt 2 (tapeH 0 1 + 96 + 320)) = some 0 ∧
       after (exec (.tapeb 0 w0) s) (fun t => w3 t == 0 && t.fab.tpKcap 3 == 2 && t.fab.tpState 3 == 0 && (copy0 t).rec_.any fun k => k.key == 3) = true ∧
       after (exec (.tapeb 0 w0) (recording s)) (fun t => w3 t == 3) = true) ∧
    (let s := recording (one 0 0 id { flags := 2 })
     (s.row (.tapee w0)).planDefault = .go ∧ s.fab.armP = false ∧ (s.row (.tapee w0)).tape.isSome = true ∧ Spec.running (s.row (.tapee w0)) ∧
       after (exec (.tapee w0) s) (fun t => w3 t == 0 && (copy0 t).rec_.any fun k => k.stop == some 1) = true) ∧
    after (exec (.tapee w0) (one 0 0)) (w3 · == 1) = true :=
  ⟨⟨ok (by decide +kernel), by constructor <;> decide +kernel, by decide +kernel⟩,
    ⟨by decide +kernel, by decide +kernel, by decide +kernel, by constructor <;> decide +kernel, by decide +kernel⟩, by decide +kernel⟩

theorem test_tapev :
    (let s := recording (one 7 0 id { flags := 2 })
     (s.row (.tapev 0 0 wa)).planDefault = .go ∧ s.fab.armP = false ∧
       ((s.row (.tapev 0 0 wa)).tape.any fun k => decide (k.ovf = none)) = true ∧
       after (exec (.tapev 0 0 wa) s) (fun t => w3 t == 7 && decide ((t.fab.slot 0 0).recq.map (·.v) = [7])) = true) ∧
    ((one 7 0).row (.tapev 0 0 wa)).tape = none ∧ after (exec (.tapev 0 0 wa) (one 7 0)) (fun t => w3 t == 7 && decide ((t.fab.slot 0 0).recq = [])) = true := by
  decide +kernel

/-- Tape 3 closed and empty. -/
def closed (b : Share) (s : State) : State :=
  match exec (.tapeb 0 w0) (one 0 0 id tapeBlock) with
  | .next t => { s with fab := ({ t.fab with runs := s.fab.runs }.tapePut 3 4 [1]).modSlot 0 0 fun x => { x with share := some b } }
  | _ => s

theorem test_taper :
    (let s := closed (withBlock [3]) (one 0 0)
     let r := s.row (.taper 0 w0)
     s.executes (.taper 0 w0) ∧ r.cp.replay = none ∧ Spec.running r ∧ r.tapeMatches 3 (s.fab.tapeSlot r.cp 0) s.fab = true ∧
       after (exec (.taper 0 w0) s) (fun t => w3 t == 0 && (copy0 t).replay.any fun p => p.key == some 3) = true) ∧
    (let s := closed (withBlock [4]) (one 0 0)
     let r := s.row (.taper 0 w0)
     r.tapeMatches 4 (s.fab.tapeSlot r.cp 0) s.fab = false ∧
       after (exec (.taper 0 w0) s) (fun t => w3 t == 1 && (t.fab.run 0).verdict == 2) = true) :=
  ⟨⟨ok (by decide +kernel), by decide +kernel, by constructor <;> decide +kernel, by decide +kernel⟩, by decide +kernel⟩

/-- A replay with one value, 5 after 3, and three decisions, the last one true. -/
def replaying (s : State) : State :=
  let s := withCopy (fun k => { k with replay := some { key := some 3 } }) s
  { s with fab := (s.fab.tapePut 3 0xC8 (leBytes 24 (6 + 3 * 8))).modSlot 0 0 fun x =>
      { x with tp := { v := { n := 1, last := 5, ch := 0, pos := 9 }, b := { n := 3, ch := 2, pos := 1, run := 0x82 } } } }

theorem test_tapep_and_tapec :
    (let s := replaying (closed (withBlock [0x1D]) (one 0 0))
     let r := s.row (.tapep 0 w0)
     s.executes (.tapep 0 w0) ∧ (r.sl.lane 15).occ r.now < 2 ∧ (15 : LaneNo) ∉ r.consumed ∧
       (r.cp.replay.any fun q => q.key == some 3 && !q.div && decide (q.ready ≤ r.now)) = true ∧ r.sl.tp.r.n = 0 ∧ r.sl.tp.v.n ≠ 0 ∧
       s.fab.tpOvf 3 = false ∧ r.sl.tp.b.n ≠ 0 ∧
       after (exec (.tapep 0 w0) s) (fun t => w3 t == 0 && decide ((t.fab.lane 0 0 15).pipe.map (·.tok.v) = [5]) && (t.fab.slot 0 0).tp.v.last == 3) = true ∧
       after (exec (.tapec w0) s) (fun t => w3 t == 1 && (t.fab.slot 0 0).tp.b.run == 0x81) = true) ∧
    (let s := one 0 0 id (withBlock [0x1D])
     s.executes (.tapep 0 w0) ∧ (s.row (.tapep 0 w0)).cp.replay = none ∧ Spec.running (s.row (.tapep 0 w0)) ∧
       after (exec (.tapep 0 w0) s) (fun t => decide ((t.fab.lane 0 0 15).pipe.map (·.tok.p) = [true]) && (t.fab.run 0).verdict == 2) = true ∧
       after (exec (.tapec w0) s) (fun t => (fb t).v == 0x07000000 && (fb t).p) = true) :=
  ⟨⟨ok (by decide +kernel), by decide +kernel⟩, ok (by decide +kernel), by decide +kernel, by constructor <;> decide +kernel, by decide +kernel⟩

theorem test_tape_queries_and_keys :
    (let s := recording (one 0 0 fun x => { x with tp := { v := { n := 4 }, b := { n := 2 } } })
     s.executes (.tapeq 0 w0) ∧ (s.row (.tapeq 0 w0)).cp.rec_.isSome = true ∧ after (exec (.tapeq 0 w0) s) (w3 · == 4) = true ∧
       after (exec (.tapeq 1 w0) s) (w3 · == 2) = true) ∧
    ((one 0 0).row (.tapeq 0 w0)).cp.rec_ = none ∧ after (exec (.tapeq 0 w0) (one 0 0)) (w3 · == 0) = true ∧
    (let s := recording (closed { withBlock [0xFF, 0x10001] with flags := 2 } (one 0 0))
     let r := s.row (.tapek 0 w0)
     r.planDefault = .go ∧ s.fab.armP = false ∧ (r.tape.any fun k => k.key == 3) = true ∧ r.run.regen = none ∧
       ((s.fab.rowOf r.e r.c).2 + 1) % max (bits (pword r.block 1) 0 16) 1 = 0 ∧ s.fab.tpKeys 3 < s.fab.tpKcap 3 ∧
       after (exec (.tapek 0 w0) s) (fun t => w3 t == 0 && decide ((t.fab.slot 0 0).keyq.map (fun k => (k.mask, k.incl)) = [(0xFF, true)])) = true) ∧
    (let s := recording (closed { withBlock [0xFF, 0x10001] with flags := 2 } (one 0 0))
     after (exec (.tapek 0 w0) { s with fab := s.fab.tapePut 3 0x1A [0, 0] }) (w3 · == 2) = true) ∧
    after (exec (.tapek 0 w0) (one 0 0)) (w3 · == 1) = true :=
  ⟨⟨ok (by decide +kernel), by decide +kernel⟩, by decide +kernel⟩

/-- A copy with a finished cut 9 at row 2. -/
def cutDone9 : Copy → Copy := fun k => { k with cutDone := some (9, 2) }

theorem test_containment_rows :
    (let s := withCopy cutDone9 (one 0 0 id { flags := 4 })
     s.executes (.snapq 0 w0) ∧ (s.row (.snapq 0 w0)).sh.flags.getLsbD 2 = true ∧ (s.row (.snapq 0 w0)).cp.cutDone = some (9, 2) ∧
       after (exec (.snapq 0 w0) s) (w3 · == 9) = true ∧ after (exec (.snapq 1 w0) s) (w3 · == 2) = true) ∧
    ((one 0 0).row (.snapq 0 w0)).sh.flags.getLsbD 2 = false ∧ after (exec (.snapq 0 w0) (one 0 0)) (w3 · == 0) = true ∧
    (one 0 0).executes (.rtag w0) ∧ (one 0 0).executes (.poisn 3 w0) ∧ after (exec (.poisn 3 w0) (one 0 0)) (fun t => fb t == ⟨0x03000000, true, .n32⟩) = true ∧
    (one 9 0).executes (.poisq wa) ∧ after (exec (.poisq wa) (one 9 0)) (w3 · == 0) = true ∧
    after (exec (.poisq wa) (one 9 0 fun x => { x with regs := x.regs.set 1 ⟨77, true⟩ })) (fun t => w3 t == 77 && !(fb t).p) = true ∧
    (one 0 0).executes (.verd 2 w0) ∧ after (exec (.verd 2 w0) (one 0 0)) (fun t => w3 t == 0 && (t.fab.run 0).verdict == 2) = true :=
  ⟨⟨ok (by decide +kernel), by decide +kernel⟩, by decide +kernel, by decide +kernel, ok (by decide +kernel), ok (by decide +kernel), by decide +kernel,
    ok (by decide +kernel), by decide +kernel, by decide +kernel, ok (by decide +kernel), by decide +kernel⟩

-- The signature of the word 0 after four bytes of zeros, by CRC-32C: 0x48674BC7 is its complement.
theorem test_mark_and_cmpv :
    ((one 0 0).executes (.mark (wires 15 15 0 0 0 0)) ∧ ((one 0 0).row (.mark (wires 15 15 0 0 0 0))).run.regen = none) ∧
    after (exec (.mark (wires 15 15 0 0 0 0)) (one 0 0)) (fun t => (copy0 t).mark) = true ∧
    (one 0 0).executes (.cmpv 0 wa) ∧
    after (exec (.cmpv 0 wa) (one 0 0)) (fun t => (t.fab.slot 0 0).sigN == 1 && ~~~(t.fab.slot 0 0).sig == 0x48674BC7) = true :=
  ⟨⟨ok (by decide +kernel), by decide +kernel⟩, by decide +kernel, ok (by decide +kernel), by decide +kernel⟩

/-! ## The task core (R40, R93, R110-R129, R193, R213-R217) -/

/-- A task at address 0x100 of task SRAM on channel 9, at cycle 10, with these registers. -/
def task (ks : List (Nat × W64)) : State :=
  { fab := { pom := { running := true, chan := 9, pc := 0x100, next := 10, start := 10
                      k := ks.foldl (fun v x => v.set (Fin.ofNat 32 x.1) x.2) (Vector.replicate 32 0) } } }
/-- The same with words of task SRAM. -/
def taskSram (ks : List (Nat × W64)) (ws : List (Nat × W64)) : State :=
  let s := task ks
  { s with fab := ws.foldl (fun f x => f.store (sramBase + x.1) (leBytes 8 x.2.toNat)) s.fab }
/-- A register of Pommel. -/
def kr (t : State) (n : Nat) : W64 := t.fab.pom.k.get (Fin.ofNat 32 n)

theorem test_task_integers :
    Spec.taskResult (.addTask 3 1 2) ≠ none ∧ Spec.quotient (.div 3 1 2) ≠ none ∧
    after (exec (.addTask 3 1 2) (task [(1, 5), (2, -7)])) (fun t => kr t 3 == -2 && t.fab.pom.pc == 0x104 && t.fab.pom.next == 11) = true ∧
    after (exec (.addTask 0 1 2) (task [(1, 5), (2, -7)])) (fun t => kr t 0 == 0) = true ∧
    after (exec (.mulhTask 3 1 2) (task [(1, -1), (2, 5)])) (fun t => kr t 3 == -1 && t.fab.pom.ready.get 3 == 14) = true ∧
    after (exec (.div 3 1 2) (task [(1, -7), (2, 2)])) (fun t => kr t 3 == -3 && t.fab.pom.ready.get 3 == 46) = true ∧
    after (exec (.div 3 1 2) (task [(1, 9)])) (fun t => kr t 3 == -1) = true ∧ after (exec (.rem 3 1 2) (task [(1, 9)])) (fun t => kr t 3 == 9) = true ∧
    after (exec (.movhiTask 3 1) (task [(3, 2)])) (fun t => kr t 3 == 32769) = true ∧
    after (exec (.shaTask 3 1 2) (task [(1, -8), (2, 65)])) (fun t => kr t 3 == -4) = true := by
  decide +kernel

theorem test_task_jumps :
    after (exec (.br (-1)) (task [])) (fun t => t.fab.pom.pc == 0xFC && t.fab.pom.next == 13) = true ∧
    after (exec (.brz 1 4) (task [])) (fun t => t.fab.pom.pc == 0x110) = true ∧
    after (exec (.brnz 1 4) (task [])) (fun t => t.fab.pom.pc == 0x104 && t.fab.pom.next == 11) = true ∧
    after (exec (.call 4) (task [])) (fun t => t.fab.pom.pc == 0x110 && kr t 31 == 0x104) = true ∧
    Spec.k (task [(31, 0x200)]).fab.pom 31 = 0x200 ∧ after (exec .ret (task [(31, 0x200)])) (fun t => t.fab.pom.pc == 0x200) = true ∧
    after (exec .tend (task [])) (fun t => !t.fab.pom.running) = true := by
  decide +kernel

-- w0 of the message of TRAPS 5 on channel 9 at 0x100, by hand: 01 07 09 00 00000100.
theorem test_traps :
    (task []).alive = true ∧ ¬ Spec.doubleFaults (task []).fab 7 ∧
    after (exec (.traps 5) (task [])) (fun t => !t.fab.pom.running && decide ((t.fab.chan 0).q.map (·.w0) = [0x0107090000000100])
      && decide ((t.fab.chan 0).q.map (·.w2) = [5])) = true ∧
    (let s := task []
     let s : State := { s with fab := { s.fab with pom := { s.fab.pom with chan := 0, nested := true } } }
     Spec.doubleFaults s.fab 1 ∧
       after (exec .illegalInstruction s) (fun t => t.fab.pom.halted && t.fab.host.fault && t.fab.host.dfrec == 0x0101008000000100) = true) ∧
    Spec.k (task [(31, 2)]).fab.pom 31 = 2 ∧ after (exec .ret (task [(31, 2)])) (fun t => decide ((t.fab.chan 0).q.map (·.w2) = [2])) = true := by
  unfold Spec.doubleFaults; decide +kernel

theorem test_task_words :
    (let s := taskSram [(1, 0x1000), (4, 77)] [(0x1008, 0x1234)]
     s.alive = true ∧ Spec.user 0x1008 8 ∧ s.fab.tag (sramBase + 0x1008) < 4 ∧
       after (exec (.ldk 3 1 8) s) (fun t => kr t 3 == 0x1234 && t.fab.pom.ready.get 3 == 13) = true ∧
       after (exec (.stk 4 1 8) s) (fun t => Spec.sramWord t.fab 0x1008 == 77) = true ∧
       after (exec (.ldk 3 1 4) s) (fun t => decide ((t.fab.chan 0).q.map (·.w0) = [0x0102090000000100])) = true ∧
       after (exec (.ldk 3 4 3) s) (fun t => decide ((t.fab.chan 0).q.map (·.w2) = [])) = true ∧
       after (exec (.ldk 3 1 0) (task [(1, 0x37FF8)])) (fun t => decide ((t.fab.chan 0).q = [])) = true ∧
       after (exec (.ldk 3 1 0) (task [(1, 0x38000)])) (fun t => decide ((t.fab.chan 0).q.map (·.w0) = [0x0103090000000100])) = true ∧
       after (exec (.ldk 3 1 8) { s with fab := s.fab.setTag (sramBase + 0x1008) 4 }) (fun t => decide ((t.fab.chan 0).q.map (·.w0) = [0x0104090000000100])) = true) ∧
    (let s := task [(1, 0x80000), (4, 77)]
     s.alive = true ∧ (s.fab.ioRead 0x80000).isSome = true ∧ s.fab.ioRead 0xFFFFF8 = none ∧
       after (exec (.stio 4 1 0) s) (fun t => decide (t.fab.evq.map (·.w) = [.io 0x080000 77])) = true ∧
       after (exec (.ldio 3 1 0) s) (fun t => t.fab.pom.ready.get 3 == 16) = true) := by
  unfold Spec.user; decide +kernel

theorem test_messages :
    (let s := taskSram [(1, 0x1000)] [(0x1000, 0xFFFF000000000001), (0x1018, 4)]
     s.alive = true ∧ Spec.user 0x1000 32 ∧ (s.fab.chan 9).q.length < 8 ∧ (s.fab.chan 9).bind = .polled ∧
       after (exec (.send 3 1 9) s) (fun t => kr t 3 == 0 && decide ((t.fab.chan 9).q = [⟨0x0009000000000001, 0, 0, 4⟩])) = true ∧
       after (exec (.recv 3 1 9) s) (fun t => kr t 3 == 0) = true ∧
       after (exec (.send 3 1 9) { s with fab := Spec.withChan s.fab 9 { q := List.replicate 8 {} } }) (fun t => kr t 3 == 1) = true) ∧
    (let s := task [(1, 0x1000)]
     after (exec (.recv 3 1 9) { s with fab := Spec.withChan s.fab 9 { q := [⟨11, 12, 13, 14⟩] } })
       (fun t => kr t 3 == 1 && Spec.sramWord t.fab 0x1000 == 11 && Spec.sramWord t.fab 0x1018 == 14 && decide ((t.fab.chan 9).q = [])) = true) ∧
    (let s := task []
     after (exec (.recv 3 1 9) { s with fab := Spec.withChan s.fab 9 { bind := .task 0 } }) (fun t => kr t 3 == 2) = true) := by
  unfold Spec.user; decide +kernel

theorem test_channels_timers_and_queries :
    (task []).alive = true ∧
    after (exec (.tbind 3 1 2 9) (task [(1, 0x400), (2, 17)])) (fun t => kr t 3 == 0 && decide ((t.fab.chan 9).bind = .task 0x400) && (t.fab.chan 9).pri == 1) = true ∧
    after (exec (.tbind 3 1 2 9) (task [(1, 0x402), (2, 16)])) (fun t => kr t 3 == 1) = true ∧
    after (exec (.tbind 3 1 2 9) (task [(2, 15)])) (fun t => kr t 3 == 0 && decide ((t.fab.chan 9).bind = .polled)) = true ∧
    after (exec (.tbind 3 1 2 9) (task [(2, 32)])) (fun t => kr t 3 == 3) = true ∧
    after (exec (.tbind 3 1 2 7) (task [(2, 31)])) (fun t => kr t 3 == 2) = true ∧
    after (exec (.chpri 3 1 9) (task [(1, 0)])) (fun t => kr t 3 == 15 && (t.fab.chan 9).pri == 1) = true ∧
    after (exec (.timeq 3 1 2) (task [(1, 0x10E09), (2, 50)])) (fun t => decide (t.fab.pom.timers.get 14 = some ⟨0, 9, 50⟩)) = true ∧
    after (exec (.timeq 3 1 2) (task [(1, 0x10F09), (2, 50)])) (fun t => decide (t.fab.pom.timers.get 15 = none)) = true ∧
    after (exec (.timeq 3 1 2) (task [(1, 0x1000)])) (fun t => kr t 3 == 0) = true ∧
    after (exec (.sysx 3 1 0) (task [])) (fun t => kr t 3 == 10) = true ∧ after (exec (.sysx 3 1 6) (task [])) (fun t => kr t 3 == 24000) = true ∧
    after (exec (.sysx 3 1 7) (task [])) (fun t => decide ((t.fab.chan 0).q.map (·.w0) = [0x0101090000000100])) = true := by
  decide +kernel

/-- The system root of 64 KiB pages: virtual page 0 is physical page 16, writable. -/
def paged (s : State) : State :=
  let f := s.fab
  let f := ((f.store 0x40000 (leBytes 8 0x50001)).store 0x50000 (leBytes 8 0x51001)).store 0x51000 (leBytes 8 0x52001)
  { s with fab := { f.store 0x52000 (leBytes 8 0x100007) with sysRoot := some 0x40000 } }
/-- A word of the page. -/
def paged64 (v : W64) (tag : Nat) (s : State) : State := let s := paged s; { s with fab := (s.fab.store 0x100008 (leBytes 8 v.toNat)).setTag 0x100008 tag }
/-- That word. -/
def page64 (t : State) : W64 := BitVec.ofNat 64 (t.fab.load 0x100008 8)
/-- The translation's outcome. -/
def reaches (s : State) (k : GKind) (va pa : Nat) : Bool := match (s.fab.sysTranslate k va).1 with | .ok a => a == pa | _ => false

theorem test_task_accesses :
    (let s := paged64 50 0 (task [(1, 8), (2, 7), (4, 8)])
     s.alive = true ∧ s.fab.migs = [] ∧ reaches s .read 8 0x100008 = true ∧ reaches s .write 8 0x100008 = true ∧ reaches s .sync 8 0x100008 = true ∧ reaches s .acq 8 0x100008 = true ∧
       after (exec (.gldTask 3 1 0) s) (fun t => kr t 3 == 50 && t.fab.pom.ready.get 3 == 118) = true ∧
       after (exec (.gstTask 2 1 0) s) (fun t => decide (t.fab.pom.sbuf = [(8, 0x100008, 7)] ∧ t.fab.evq.map (·.w) = [.instr .pommelStoreDrain])) = true ∧
       after (exec (.gldsTask 3 1 0) s) (fun t => kr t 6 == 50 && kr t 7 == 1) = true ∧
       after (exec (.gstfTask 1 1 0) s) (fun t => kr t 3 == 0 && page64 t == 50) = true ∧
       Spec.taskAtomic (.aaddTask 3 4 2) s.fab.pom 50 = some (3, 4, 57) ∧
       after (exec (.aaddTask 3 4 2) s) (fun t => kr t 3 == 50 && page64 t == 57 && t.fab.pom.ready.get 3 == 130) = true) ∧
    (let s := paged64 50 1 (task [(1, 8), (2, 7), (4, 8)])
     after (exec (.gldsTask 3 1 0) s) (fun t => kr t 6 == 0 && kr t 7 == 0) = true ∧
       after (exec (.gstfTask 1 1 0) s) (fun t => kr t 3 == 1 && page64 t == 7 && t.fab.tag 0x100008 == 0) = true) ∧
    (let s := paged64 50 2 (task [(1, 8)])
     after (exec (.gldTask 3 1 0) s) (fun t => decide ((t.fab.chan 0).q.map (·.w0) = [0x0104090000000100])) = true) ∧
    (let s := paged64 0x40000000 0 (task [(1, 8), (2, 0x3FC00000)])
     after (exec (.afaddTask 3 1 2) s) (fun t => page64 t == 0x40600000 && kr t 3 == 0x40000000) = true) := by
  decide +kernel

theorem test_task_access_traps :
    (task []).alive = true ∧ after (exec (.gldTask 3 1 4) (paged (task []))) (fun t => decide ((t.fab.chan 0).q.map (·.w0) = [0x0102090000000100])) = true ∧
    after (exec (.gstTask 3 1 0) (task [])) (fun t => decide ((t.fab.chan 0).q.map (·.w0) = [0x0103090000000100] ∧ t.fab.pom.sbuf = [])) = true ∧
    reaches (task []) .write 0 0 = false := by
  decide +kernel

theorem test_store_drain :
    (let s := paged (task [])
     let s : State := { s with fab := { s.fab with pom := { s.fab.pom with sbuf := [(8, 0x100008, 0x0102030405060708), (16, 0x100010, 1)] } } }
     s.fab.migs = [] ∧
       after (exec .pommelStoreDrain s) (fun t => page64 t == 0x0102030405060708 && memGet t.fab.mem 0x100008 == 8
         && decide (t.fab.pom.sbuf = [(16, 0x100010, 1)] ∧ t.fab.evq.map (·.w) = [.instr .pommelStoreDrain])) = true) := by
  decide +kernel

-- A transfer of 8 bytes from task SRAM to task SRAM on channel 5 with tag 9; a hash of 8 bytes.
theorem test_task_jobs :
    (let s := taskSram [(1, 0x1000)] [(0x1000, 0x8000000000002000), (0x1008, 0x8000000000003000), (0x1010, 0x0009000500000008)]
     let j : PJob := { words := [0x8000000000002000, 0x8000000000003000, 0x0009000500000008, 0], ch := 5, tag := 9 }
     s.alive = true ∧ Spec.user 0x1000 32 ∧ j.ok = true ∧ s.fab.pom.jobs.length < 4 ∧
       after (exec (.xferTask 3 1) s) (fun t => kr t 3 == 0 && decide (t.fab.pom.jobs.map (·.2) = [j])
         && t.fab.evq.any fun e => e.tick == 33 && decide (e.w = .instr (.pommelJobCompletion 0))) = true ∧
       after (exec (.xferTask 3 1) (taskSram [(1, 0x1000)] [(0x1000, 0x8000000000002001)])) (fun t => kr t 3 == 2) = true) ∧
    (let s := taskSram [(1, 0x1000)] [(0x1000, 0x2000), (0x1008, 8), (0x1010, 0x0009000500003000)]
     s.alive = true ∧
       after (exec (.hashb 3 1) s) (fun t => kr t 3 == 0 && decide (t.fab.pom.crypto = [⟨false, 0x2000, 8, 0x3000, 0, 5, 9⟩])
         && t.fab.evq.any fun e => e.tick == 88) = true ∧
       after (exec (.hashb 3 1) (taskSram [(1, 0x1000)] [(0x1000, 0x2001)])) (fun t => kr t 3 == 2) = true) ∧
    after (exec (.sigv 3 1) (task [(1, 4)])) (fun t => decide ((t.fab.chan 0).q.map (·.w0) = [0x0102090000000100])) = true := by
  unfold Spec.user; decide +kernel

/-- Feature bit 5, and a descriptor that moves virtual page 0 to 0x200000, message on channel 5 with tag 9; word 2 of it. -/
def paging (op : Nat) : State :=
  let s := paged (taskSram [(1, 0x1000)] [(0x1008, if op = 0 then 0x200000 else 0x10000), (0x1010, BitVec.ofNat 64 (0x0009050000FF + op * 0x100))])
  { s with fab := { s.fab with host := { s.fab.host with features := some 32 }, tlb := [(0, [⟨none, 0, 16, 0x100007, false⟩])] } }

theorem test_page_operations :
    (let s := paging 0
     s.alive = true ∧ s.fab.migs.length < 8 ∧ (match s.fab.walkRoot none 0 with | .ok x => x == (0x100007, 16, 0x52000) | _ => false) = true ∧
       after (exec (.pagem 3 1) s) (fun t => kr t 3 == 0 && t.fab.pte 0x52000 == 0x100047
         && decide (t.fab.evq.map (·.w) = [.instr (.migrationSweep 0)])) = true) ∧
    after (exec (.pagem 3 1) (paging 1)) (fun t => kr t 3 == 0 && decide ((mget 0 t.fab.tlb).getD [] = [])
      && decide (t.fab.evq.map (fun e => (e.tick, e.w)) = [(4, .instr (.pagemCompletion 0))])) = true ∧
    after (exec (.pagem 3 1) (taskSram [(1, 0x1000)] [])) (fun t => kr t 3 == 2) = true ∧
    (let m : Mig := { va := 0, size := 16, old := 0x100000, new := 0x200000, pte := 0x52000, ch := 5, tag := 9 }
     let s := paged64 50 1 (task [])
     let s : State := { s with fab := { s.fab with migs := [(4, m)] } }
     mget 4 s.fab.migs = some m ∧ m.inval = false ∧ 64 * (m.next + 1) ≤ 2 ^ m.size ∧
       after (exec (.migrationSweep 4) s) (fun t => t.fab.load 0x200008 8 == 50 && t.fab.tag 0x200008 == 1
         && decide (t.fab.evq.map (·.w) = [.instr (.migrationSweep 4)])) = true ∧
       (s.fab.chan m.ch).q.length < chanDepth m.ch ∧
       after (exec (.pagemCompletion 4) s) (fun t => decide (t.fab.migs = [] ∧ (t.fab.chan 5).q.map (·.w0) = [0x0603000900000000])) = true ∧
       after (exec (.migrationSwitch 4) { s with fab := s.fab.store 0x52000 [0x47] }) (fun t => t.fab.pte 0x52000 == 0x200007) = true) := by
  decide +kernel

theorem test_task_completions :
    (let j : PJob := { words := [0x8000000000002000, 0x8000000000003000, 0x0009000500000008, 0], ch := 5, tag := 9 }
     let s := taskSram [] [(0x2000, 77)]
     let s : State := { s with fab := { s.fab with pom := { s.fab.pom with jobs := [(4, j)] } } }
     s.fab.pom.jobs = [(4, j)] ∧ j.mirr = false ∧ j.remote = false ∧ j.len = 8 ∧ s.alive = true ∧ (s.fab.chan j.ch).q.length < chanDepth j.ch ∧
       (j.w 0).testBit 63 = true ∧ (j.w 1).testBit 63 = true ∧
       after (exec (.pommelJobCompletion 4) s) (fun t => Spec.sramWord t.fab 0x3000 == 77
         && decide (t.fab.pom.jobs = [] ∧ (t.fab.chan 5).q.map (·.w0) = [0x0601000900000000])) = true) ∧
    (let j : CJob := ⟨false, 0x2000, 3, 0x3000, 0, 5, 9⟩
     let s := taskSram [] [(0x2000, 0x636261)]
     let s : State := { s with fab := { s.fab with pom := { s.fab.pom with crypto := [j] } } }
     s.alive = true ∧ (s.fab.chan j.ch).q.length < chanDepth j.ch ∧
       after (exec (.cryptoCompletion 0) s) (fun t => decide (t.fab.bytes (sramBase + 0x3000) 8 = [0xDD, 0xAF, 0x35, 0xA1, 0x93, 0x61, 0x7A, 0xBA] ∧
         t.fab.pom.crypto = [] ∧ (t.fab.chan 5).q.map (·.w0) = [0x0401000900000000])) = true) := by
  decide +kernel

/-! ## Sequencing, dispatch, timers, monitors and time (R28, R110-R113, R124, R127-R129, R320, R335-R349, R353, R366) -/

/-- One element without rows' effects. -/
def img1 : Image := { shares := [{ img := 1 }] }
/-- A table of mode 0 of partition 0 with one triggered entry of image 1 at (0, 0), active; image 1 is resident in slot 0. -/
def tabled (s : State) : State :=
  let x : Entry := { block := 1, trig := true, tag := 5, start := 3, dline := 100, frames := 2 }
  let t : Table := { entries := [x], places := [[(0, 0)]] }
  let f := { s.fab with tables := [(tableKey 0 0, t)], images := [(1, img1)] }
  { s with fab := (f.modPart 0 fun p => { p with active := some 0, ctr := 1000 }).modSlot 0 0 fun y => { y with st := .resident, share := some { img := 1 } } }
/-- The sequencer performs an instruction with these operands. -/
def performing (ka kb : W64) (s : State) : State := { s with fab := { s.fab with pom := { s.fab.pom with perf := some (ka, kb, 34) } } }
/-- A feature bit negotiated. -/
def feature (n : Nat) (s : State) : State := { s with fab := { s.fab with host := { s.fab.host with features := some (BitVec.ofNat 128 (2 ^ n)) } } }
/-- Run 9 of the entry on element 0. -/
def running9 (s : State) : State :=
  { s with fab := { s.fab with runs := [(9, { mode := 0, img := 1, tag := 5, copies := [{ issued := true }] })] }.modSlot 0 0 fun x =>
    { x with st := .running, run := some (9, 0) } }

theorem status0 (s : State) (h : (match Spec.entryOf s.fab 0 with
    | some x => x.trig && decide (s.fab.launchTag 0 0 0 0 ≠ 0) && !s.fab.entryBusy 0 0 0 && decide ((s.fab.part 0).active = some 0)
    | none => false) = true) : Spec.status (.lnch 3 1 2) s.fab 0 0 0 := by
  revert h
  cases hx : Spec.entryOf s.fab 0 with
  | none => simp
  | some x =>
    intro h
    simp only [Bool.and_eq_true, decide_eq_true_eq, Bool.not_eq_true'] at h
    exact .inr (.inr (.inr ⟨⟨by decide, x, hx, by simp, h.1.1.2⟩, h.1.2, h.2, ⟨x, hx, h.1.1.1⟩, rfl⟩))

theorem test_sequencing_issue :
    Spec.sequencing (.lnch 3 1 2) = some (0xE0, 3, 1, 2, 4, false) ∧
    (let s := tabled (task [])
     s.fab.pom.perf = none ∧ s.fab.evq = [] ∧ Spec.status (.lnch 3 1 2) s.fab 0 0 0 ∧
       after (exec (.lnch 3 1 2) s) (fun t => kr t 3 == 0 && decide (t.fab.evq.map (fun e => (e.tick, e.ph, e.w)) = [(4, 0, .seq 0xE0184400 0 0 14)])) = true) ∧
    after (exec (.lnch 3 1 2) (tabled (task [(1, 1)]))) (fun t => kr t 3 == 2 && decide (t.fab.evq = [])) = true ∧
    after (exec (.lnch 3 1 2) (running9 (tabled (task [])))) (fun t => kr t 3 == 1) = true ∧
    after (exec (.ovrq 3 1) (tabled (task []))) (fun t => t.fab.pom.ready.get 3 == 34 && t.fab.evq.any fun e => e.tick == 4) = true ∧
    after (exec (.tblsw 3 1) (tabled (task []))) (fun t => kr t 3 == 0) = true ∧ after (exec (.tblsw 3 1) (tabled (task [(1, 0x100)]))) (fun t => kr t 3 == 1) = true ∧
    after (exec (.tblsw 3 1) (task [])) (fun t => kr t 3 == 2) = true ∧ after (exec (.teard 3 1 2) (tabled (task []))) (fun t => kr t 3 == 1) = true ∧
    after (exec (.partm 3 1 2) (task [(1, 1)])) (fun t => kr t 3 == 0) = true ∧ after (exec (.partm 3 1 2) (task [(1, 2)])) (fun t => kr t 3 == 2) = true ∧
    after (exec (.doff 3 1 2) (feature 9 (task [(1, 5)]))) (fun t => kr t 3 == 0) = true ∧
    after (exec (.doff 3 1 2) (feature 9 (task [(1, 6)]))) (fun t => kr t 3 == 2) = true ∧
    after (exec (.spare 3 1 2) (task [(1, 0x1F3B)])) (fun t => kr t 3 == 0) = true ∧ after (exec (.spare 3 1 2) (task [(1, 60)])) (fun t => kr t 3 == 2) = true ∧
    after (exec (.purge 3 1) (task [])) (fun t => kr t 3 == 0x8000000000000000) = true ∧
    after (exec (.keepc 3 1) (feature 3 (task [(1, 0xF0A00)]))) (fun t => kr t 3 == 0) = true ∧
    after (exec (.keepc 3 1) (task [(1, 0xF0A00)])) (fun t => kr t 3 == 3) = true ∧
    after (exec (.keepc 3 1) (feature 3 (task [(1, 0xE0A00)]))) (fun t => kr t 3 == 2) = true := by
  refine ⟨rfl, ⟨rfl, by decide +kernel, status0 _ (by decide +kernel), by decide +kernel⟩, ?_⟩
  decide +kernel

theorem test_sequencing_on_runs :
    (let s := performing 0 7 (tabled (task []))
     s.fab.pom.perf = some (0, 7, 34) ∧ (Spec.entryOf s.fab 0).isSome = true ∧ Spec.status (.lnch 3 1 2) s.fab 0 0 0 ∧
       after (exec (.lnch 3 1 2) s) (fun t => t.fab.insts.any fun j => j.2.start == 1015 && j.2.dl == 1115 && j.2.n == 7) = true) ∧
    after (exec (.lnch 3 1 2) (performing 0x8000 7 (tabled (task [])))) (fun t => decide (t.fab.insts = [] ∧ (t.fab.ent 0 0 0).armed = some (7, 0, false))) = true ∧
    after (exec (.lnchi 3 1 2) (performing 0 0x1000 (tabled (task [])))) (fun t => t.fab.insts.any fun j => decide (j.2.cnt = .take 0x1000)) = true ∧
    (let s := tabled (task [])
     let s : State := performing 0x100 0 { s with fab := { s.fab with tables := s.fab.tables ++ [(tableKey 0 1, {})] } }
     Spec.status (.tblsw 3 1) s.fab 0x100 0 0 ∧ after (exec (.tblsw 3 1) s) (fun t => decide ((t.fab.part 0).pend = some 1)) = true) ∧
    (let s := performing 0 1 (running9 (tabled (task [])))
     ((s.fab.activeRun 0).map (·.1)) = some 9 ∧ (mget 9 s.fab.runs).isSome = true ∧ mget 9 s.fab.insts = none ∧
       after (exec (.teard 3 1 2) s) (fun t => decide ((t.fab.run 9).torn = .teard)) = true) ∧
    (let s := tabled (task [])
     let s : State := performing 5 0 { s with fab := { s.fab with insts := [(7, { tag := 5 }), (8, { tag := 6, entry := 1 })] } }
     after (exec (.purge 3 1) s) (fun t => decide (t.fab.insts.map (·.1) = [8])) = true) ∧
    after (exec (.keepc 3 1) (performing 0xF0A01 0 (feature 3 (task [])))) (fun t => decide (mget 16 t.fab.keepers = some ⟨10, 15, 0⟩ ∧ mget 0 t.fab.keepers = none)) = true := by
  refine ⟨⟨rfl, by decide +kernel, status0 _ (by decide +kernel), by decide +kernel⟩, by decide +kernel, by decide +kernel, ⟨?_, by decide +kernel⟩,
    by decide +kernel⟩
  exact .inr (.inr ⟨⟨by decide, by decide, rfl, by decide, by decide⟩, by decide, rfl⟩)

/-- Partition mode 6 with a table whose slot tables have the tokens that R208 asks for, and a fallback's frame count. -/
def sliced : State :=
  let s := performing 0 1 (tabled (task []))
  let t := (s.fab.table 0 0).getD {}
  let t := { t with entries := t.entries.map fun x => { x with fframes := 1 }, slots := (List.replicate 2048 [0x20, 0x1F, 0x1E, 0]).flatten }
  { s with fab := { s.fab with pmode := 6, tables := [(tableKey 0 0, t)] } }

theorem test_fbsel :
    (Spec.entryOf sliced.fab 0).isSome = true ∧ (let new := sliced.fab.tableWithFallbacks 0 0 ((sliced.fab.table 0 0).getD {}) 0 (1, 0, 0)
      sliced.fab.tableCheck 0 new new.badFallback none = none) ∧
    after (exec (.fbsel 3 1 2) sliced) (fun t => decide ((t.fab.ent 0 0 0).fb = some (1, 0, 0))) = true := by
  decide +kernel

theorem test_sequencing_on_the_field :
    (let s := tabled (performing 0 0 (task []))
     let l : Fin 4 := 0
     let cells := s.fab.cells ((s.fab.table 0 0).getD {}) { img := 1, place := 0, slot := l }
     s.fab.pom.perf.isSome = true ∧ (cells.map (·.elem)) = [0] ∧ (cells.all fun c => decide ((s.fab.slot c.elem 0).st = .resident) && s.fab.usable c.elem &&
       !s.fab.ownerClash c.elem 0 c.sh) = true ∧
       after (exec (.ctxld 3 1 2) s) (fun t => decide ((t.fab.slot 0 0).st = .loading) && t.fab.evq.any fun e => e.tick == 40) = true) ∧
    (let s := tabled (performing 0 0x100 (task []))
     let s' : State := { s with fab := s.fab.modSlot 0 1 fun x => { x with st := .resident } }
     after (exec (.ctxsw 3 1 2) s) (fun t => decide (t.fab.pom.perf = none)) = true ∧
       ((s'.fab.slotCells 0 1).all fun c => decide ((s'.fab.slot c.1 c.2).st = .resident)) = true ∧ (s'.fab.slotCells 0 0).map (·.1) = [0] ∧
       (s'.fab.drainOf (s'.fab.slotCells 0 0)).retired = true ∧ (s'.fab.drainOf (s'.fab.slotCells 0 0)).held = [] ∧
       after (exec (.ctxsw 3 1 2) s') (fun t => (t.fab.elem 0).smap.get 0 == 1 && (t.fab.elem 0).smap.get 1 == 0) = true) ∧
    (let s := tabled (performing 0 0 (task []))
     let s : State := { s with fab := { s.fab with pom := { s.fab.pom with ready := s.fab.pom.ready.set 3 34 } } }
     after (exec (.drnq 3 1 2) s) (fun t => kr t 3 == 15) = true ∧ after (exec (.drnq 3 1 2) (running9 s)) (fun t => kr t 3 == 12) = true ∧
       after (exec (.verdTask 3 1 2) s) (fun t => kr t 3 == 256) = true ∧ after (exec (.ovrq 3 1) s) (fun t => kr t 3 == 0) = true) ∧
    (let s := performing 1 0 (tabled (task []))
     after (exec (.partm 3 1 2) { s with fab := { s.fab with elems := s.fab.elems } }) (fun t => decide (t.fab.tables = [] ∧ t.fab.images = [] ∧ t.fab.evq ≠ []
       ∧ (t.fab.slot 0 0).st = .empty)) = true) ∧
    after (exec (.doff 3 1 2) (performing 5 0 (feature 9 (task [])))) (fun t => decide (mget 5 t.fab.dies = some 1 ∧ mget 4 t.fab.dies = none)) = true ∧
    after (exec (.spare 3 1 2) (performing 0x1F3B 0 (task []))) (fun t => decide (t.fab.spares = [(5, 1919)]) && t.fab.evq.any fun e => e.tick == 3400) = true ∧
    (let s := performing 1 0 (task [])
     let s : State := { s with fab := { s.fab with spares := [(0, 2)] } }
     after (exec (.spare 3 1 2) s) (fun t => (t.fab.elem 1).failed) = true) := by
  decide +kernel

/-- Channels 9 and 10 bound to tasks with a message each, 9 served last. -/
def waiting (last : Nat) (b : Binding) : State :=
  let q : Chan := { q := [⟨11, 12, 13, 14⟩], pri := 3, bind := b }
  { fab := { chans := (Vector.replicate 64 {} |>.set 9 q).set 10 q, pom := { rr := (Vector.replicate 16 63).set 3 last } } }

theorem test_dispatch :
    after (exec .taskDispatch (waiting 9 (.task 0x400))) (fun t => t.fab.pom.running && t.fab.pom.chan == 10 && t.fab.pom.pc == 0x400 && kr t 1 == 11 && kr t 4 == 14 &&
      kr t 5 == 10 && t.fab.pom.next == 8 && decide ((t.fab.chan 10).q = [] ∧ (t.fab.chan 9).q ≠ [])) = true ∧
    after (exec .taskDispatch (waiting 10 (.task 0x400))) (fun t => t.fab.pom.chan == 9) = true ∧
    after (exec .taskDispatch (waiting 63 .bridle)) (fun t => decide (t.fab.host.log = [⟨11, 12, 13, 14⟩] ∧ (t.fab.chan 9).q = [])) = true ∧
    (waiting 9 (.task 0x400)).fab.pom.rr.toList.getD 3 63 = 9 := by
  decide +kernel

theorem test_timers :
    (let s := task []
     let s : State := { s with fab := { s.fab with pom := { s.fab.pom with timers := s.fab.pom.timers.set 14 (some ⟨0, 9, 50⟩) } } }
     s.alive = true ∧ s.fab.pom.timers.get (14 : BitVec 4).toFin = some ⟨0, 9, 50⟩ ∧ (s.fab.chan 9).q.length < 8 ∧
       after (exec (.timerCompare 14) s) (fun t => decide ((t.fab.chan 9).q.map (·.w0) = [0x02010E0000000000] ∧ t.fab.pom.timers.get 14 = none)) = true ∧
       after (exec (.timerCompare 14) { s with fab := Spec.withChan s.fab 9 { q := List.replicate 8 {}, lost := 255 } }) (fun t => (t.fab.chan 9).lost == 255) = true) := by
  decide +kernel

/-- A monitor sample of a block: one temperature, the rest zero. -/
def sampled (n : Nat) (v : W32) : List W32 := v :: List.replicate ((sensorCounts n).1 + (sensorCounts n).2.1 + (sensorCounts n).2.2 - 1) 0

theorem test_monitors :
    State.reset.alive = true ∧ (State.reset.fab.chan 5).q.length < 7 ∧
    after (exec (.monitorSample 0 (sampled 0 0x7D0)) State.reset) (fun t => (t.fab.block 0).trip && (t.fab.block 0).lvl == 7 && (t.fab.chan 5).q.length == 1
      && (t.fab.block 0).temp.headD 0 == 0x800007D0) = true ∧
    after (exec (.monitorSample 6 (sampled 6 0x7D0)) State.reset) (fun t => (t.fab.block 6).trip && (t.fab.block 6).lvl == 0) = true ∧
    after (exec (.monitorSample 0 (sampled 0 0x7CF)) State.reset) (fun t => !(t.fab.block 0).trip) = true ∧
    after (exec (.thrlvlWrite 0 13) State.reset) (fun t => (t.fab.block 0).lvl == 5) = true ∧
    after (exec (.registerWrite 0x418 0xFFFFFFFFFFFFFFFF) State.reset) (fun t => (t.fab.block 0).alertcfg == 0x8000FFFF) = true ∧
    after (exec (.registerWrite 0x90420 0x12345) State.reset) (fun t => (t.fab.block 9).tripcfg == 0x2345) = true ∧
    (let s : State := { fab := { State.reset.fab with blocks := State.reset.fab.blocks.set 0 { trip := true, alrt := true, lvl := 7 } } }
     after (exec (.thrlvlWrite 0 1) s) (fun t => (t.fab.block 0).lvl == 7) = true ∧
       after (exec (.alertstWrite 0 2) s) (fun t => !(t.fab.block 0).trip && (t.fab.block 0).alrt) = true) := by
  decide +kernel

theorem test_time :
    (let s : State := { fab := { parts := [(0, { ctr := 2 ^ 64 - 1, frac := 2 ^ 32 - 1, rate := 1 })] } }
     s.fab.runs = [] ∧ s.fab.insts = [] ∧ s.fab.tables = [] ∧ s.fab.elems = [] ∧
       after (exec .tickCounterAdvance s) (fun t => t.fab.clock == 1 && (t.fab.part 0).ctr == 1 && (t.fab.part 0).frac == 0) = true ∧
       after (exec (.ptpServoAdjust 0 0x7FFFFFFF) s) (fun t => (t.fab.part 0).rate == 0) = true ∧
       after (exec (.ptpSynchronisation 0 true) s) (fun t => (t.fab.part 0).sync) = true) ∧
    (let s : State := { fab := { parts := [(0, { disciplined := true })] } }
     after (exec (.ptpServoAdjust 0 0x7FFFFFFF) s) (fun t => (t.fab.part 0).rate == 858993) = true ∧
       after (exec (.ptpServoAdjust 0 0x80000000) s) (fun t => (t.fab.part 0).rate == -858993) = true) := by
  decide +kernel

/-! ## Commands of the host (R52, R130-R135, R190, R322-R325, R327, R335, R339, R340, R353) -/

/-- An image of one element with a ring of one row, NOP, and no signature (R49-R51). -/
def imageBytes : List Byte :=
  [68, 90, 73, 77, 1, 0, 0, 0, 1, 0, 1, 0, 1, 0, 1, 1, 0, 0, 0, 0, 4, 0, 255, 0, 39, 1] ++ List.replicate 6 0 ++ [219, 16, 50, 206, 74, 238, 211, 7,
  189, 44, 36, 70, 245, 94, 51, 162, 196, 226, 249, 119, 17, 21, 213, 254, 32, 231, 95, 105, 76, 96, 166, 21, 69, 187, 28, 126, 190, 22, 101, 236, 119,
  120, 72, 168, 69, 253, 133, 191, 243, 112, 189, 54, 236, 83, 250, 38, 43, 46, 107, 10, 232, 44, 135, 245] ++ List.replicate 64 0 ++ [1, 0, 0, 0, 224,
  0, 0, 0, 64] ++ List.replicate 7 0 ++ [2, 0, 0, 0, 32, 1, 0, 0, 3] ++ List.replicate 7 0 ++ [3, 0, 0, 0, 35, 1, 0, 0, 2] ++ List.replicate 7 0 ++ [4,
  0, 0, 0, 37, 1, 0, 0, 2] ++ List.replicate 8 0 ++ [1, 1, 1] ++ List.replicate 64 0 ++ [255, 0, 0]

/-- A table of mode 0 of partition 0 with one triggered entry of image 1 at (0, 0), in partition mode 6 (R322, R323): header to the hash, the
bytes behind the signature, and the table with its hash. -/
def tableHead : List Byte :=
  [84, 65, 66, 76, 1, 0, 0, 0, 0, 0, 255, 6, 1, 0, 1, 0, 0, 1, 0, 0, 0, 16] ++ List.replicate 106 0
def tableTail : List Byte :=
  [1, 255, 0, 255, 4, 0, 5, 0, 3, 0, 0, 0, 100, 0, 0, 0, 2] ++ List.replicate 15 0 ++ [1] ++ List.replicate 71 0 ++
  (List.replicate 2048 [0x20, 0x1F, 0x1E, 0]).flatten
noncomputable def tableBytes : List Byte :=
  tableHead ++ (sha512 (tableHead ++ List.replicate 128 0 ++ tableTail) ++ (List.replicate 64 0 ++ tableTail))

/-- A command with inline arguments and a payload at bus address 0. -/
def cmd (inl : List Byte) (len : BitVec 32 := 0) : Cmd := { tag := 7, len := len, inl := inl }
/-- READY. -/
def ready (s : State) : State := { s with fab := { s.fab with host := { s.fab.host with partState := 1 } } }
/-- Status and the first result bytes of the response. -/
def resp (t : State) : List Byte := (t.fab.host.resp.drop 2).take 4
/-- Bytes in the host's memory at bus address 0. -/
def hostHas (bs : List Byte) (s : State) : State := { s with fab := { s.fab with mem := memWrite s.fab.mem hostBase bs } }

theorem payload_hostHas (bs : List Byte) (s : State) (c : Cmd) (ha : c.addr = 0) (hl : c.len.toNat = bs.length) :
    Spec.payload (hostHas bs s).fab c = bs := by
  have : memBytes (memWrite s.fab.mem hostBase bs) hostBase bs.length = bs := memBytes_memWrite_same _ _ _
  simpa [Spec.payload, hostHas, ha, hl] using this

theorem test_answers :
    (let s := tabled (task [])
     s.fab.host.partState ≠ 1 ∧ after (exec (.attest (cmd [])) s) (fun t => resp t == [1, 0, 0, 0] && decide (t.fab.host.msix = [0])) = true ∧
       after (exec (.unknownCommandCode 99 (cmd [])) s) (fun t => resp t == [1, 0, 0, 0]) = true ∧
       after (exec (.unknownCommandCode 99 (cmd [])) (ready s)) (fun t => resp t == [6, 0, 0, 0]) = true ∧
       after (exec (.status (cmd [])) (ready s)) (fun t => t.fab.host.resp.take 9 == [7, 0, 0, 0, 1, 0, 0, 0, 0]) = true ∧
       after (exec (.ident (cmd [])) s) (fun t => t.fab.host.resp.take 12 == [7, 0, 0, 0, 0, 0, 0, 0, 24, 0, 0, 0]) = true) := by
  decide +kernel

/-- A feature vector in a FEATNEG. -/
def vec (v : Byte) (w : Byte) : Cmd := cmd ([1] ++ List.replicate 7 0 ++ [v, w] ++ List.replicate 14 0)
/-- A key record but for its signature. -/
def keyBytes : List Byte := [0x4B, 0x45, 0x59, 0x53, 1] ++ List.replicate 155 0

theorem test_features_and_keys :
    (let s := ready (task [])
     s.fab.host.partState = 1 ∧ s.fab.host.features = none ∧ s.fab.host.imgLoaded = false ∧ BitVec.ofNat 128 (Spec.arg (vec 0xFF 7) 24 16) = 0x7FF ∧
       after (exec (.featnegRead (vec 0 0)) s) (fun t => resp t == [0, 0, 0xFF, 7]) = true ∧
       after (exec (.featnegWrite (vec 0xFF 7)) s) (fun t => resp t == [0, 0, 0xFF, 7] && t.fab.host.features == some 0x7FF) = true ∧
       after (exec (.featnegWrite (vec 0 8)) s) (fun t => resp t == [2, 0, 0, 0] && t.fab.host.features == none) = true ∧
       after (exec (.keyinst (cmd [] 160)) { s with fab := { s.fab with host := { s.fab.host with tblLoaded := true } } }) (fun t => resp t == [2, 0, 0, 0]) = true) ∧
    (let bs := keyBytes
     bs.length = 160 ∧ ofLE (bs.take 4) = 0x5359454B ∧ ofLE ((bs.drop 4).take 2) = 1 ∧ ofLE ((bs.drop 6).take 2) = 0 ∧ ∀ x ∈ (bs.drop 80).take 16, x = 0) := by
  decide +kernel

-- Whether the record's signature verifies depends on the product key, which is the part's own (log 4).
theorem test_key_form (s : State) : Spec.payload (hostHas keyBytes s).fab (cmd [] 160) = keyBytes := payload_hostHas _ _ _ rfl rfl

/-- LOADIMG as image 1. -/
def loadCmd : Cmd := cmd [1, 0] 295
theorem test_payloads :
    Spec.payload (hostHas imageBytes (ready (task []))).fab loadCmd = imageBytes ∧
    Spec.payload (hostHas tableBytes (ready (tabled (task [])))).fab (cmd [0, 0] 8552) = tableBytes :=
  ⟨payload_hostHas _ _ _ rfl (by decide +kernel), payload_hostHas _ _ _ rfl (by decide +kernel)⟩

-- The image is accepted and stands in the store; a changed byte of it is refused by its hash, cause 4.
theorem test_loadimg :
    ofLE (imageBytes.take 4) ≠ 0x4B534154 ∧ (ready (task [])).fab.storeUsed 1 + imageBytes.length ≤ 768 * 2 ^ 20 ∧
    (match loadImage {} 1 imageBytes with
     | .ok im => decide (im.needs = [] ∧ im.len = 295 ∧ im.shares.map (fun sh => sh.op) = [[0]])
     | _ => false) = true ∧
    (match loadImage {} 1 (imageBytes.set 294 1) with
     | .error r => r.cause == 4
     | _ => false) = true ∧
    after (exec (.loadimg (cmd [0, 1] 295)) (ready (task []))) (fun t => resp t == [2, 0, 0, 0]) = true ∧
    after (exec (.loadimg (cmd [1, 0] 0)) (ready (task []))) (fun t => resp t == [3, 0, 1, 5] && decide (t.fab.images = [])) = true := by
  decide +kernel

/-- Image 1 in the store, partition mode 6. -/
def stored6 : State := let s := ready (tabled (task [])); { s with fab := { s.fab with pmode := 6, tables := [] }.modPart 0 fun p => { p with active := none } }

theorem sha512_length (bs : List Byte) : (sha512 bs).length = 64 := by
  simp [sha512, leBytes]

-- The hash field holds the hash of the table with hash and signature zero.
theorem hashed (p h z t : List Byte) (hp : p.length = 128) (hh : h.length = 64) (hz : z.length = 64) :
    zeroed (p ++ (h ++ (z ++ t))) 0x80 128 = p ++ List.replicate 128 0 ++ t ∧ slice (p ++ (h ++ (z ++ t))) 0x80 64 = h := by
  have e : (p ++ (h ++ (z ++ t))).drop (0x80 + 128) = t := by
    rw [show p ++ (h ++ (z ++ t)) = (p ++ h ++ z) ++ t by simp only [List.append_assoc]]
    exact List.drop_left' (by simp only [List.length_append, hp, hh, hz])
  constructor
  · rw [zeroed, List.take_left' hp, e]
  · rw [slice, List.drop_left' hp, List.take_left' hh]

theorem table_hash : sha512 (zeroed tableBytes 0x80 128) = slice tableBytes 0x80 64 := by
  have h := hashed tableHead (sha512 (tableHead ++ List.replicate 128 0 ++ tableTail)) (List.replicate 64 0) tableTail (by decide +kernel)
    (sha512_length _) List.length_replicate
  rw [tableBytes, h.1, h.2]

theorem table_header : tableHeader stored6.fab.pmode 0 0 tableBytes = none := by decide +kernel
theorem table_settings : stored6.fab.settingsCheck 0 0 (tableOf tableBytes) = none := by decide +kernel
theorem table_signature :
    sigOk stored6.fab.host.imgKey (tableOf tableBytes).safety (slice tableBytes 0x80 64) (slice tableBytes 0xC0 64) = true := by
  decide +kernel
theorem table_check : stored6.fab.tableCheck 0 (tableOf tableBytes) (fun i => entryBad (tableOf tableBytes).places.length
    (tableOf tableBytes).cnts.length (slice tableBytes (0x100 + 32 * i) 32)) (tailBad tableBytes) = none := by
  decide +kernel

theorem loadTable_ok {f : Fab} {p m : Nat} {bs : List Byte} (h1 : tableHeader f.pmode p m bs = none) (h2 : f.settingsCheck p m (tableOf bs) = none)
    (h3 : sha512 (zeroed bs 0x80 128) = slice bs 0x80 64)
    (h4 : sigOk f.host.imgKey (tableOf bs).safety (slice bs 0x80 64) (slice bs 0xC0 64) = true)
    (h5 : f.tableCheck p (tableOf bs) (fun i => entryBad (tableOf bs).places.length (tableOf bs).cnts.length (slice bs (0x100 + 32 * i) 32))
      (tailBad bs) = none) : f.loadTable p m bs = .ok (tableOf bs) := by
  simp only [Fab.loadTable, h1, h2, h3, h4, h5, firstFail, failIf, bne_self_eq_false, Bool.not_true]
  simp

theorem test_loadtbl : (stored6.fab.part 0).active = none ∧ stored6.fab.loadTable 0 0 tableBytes = .ok (tableOf tableBytes) :=
  ⟨by decide +kernel, loadTable_ok table_header table_settings table_hash table_signature table_check⟩

-- The table's class, with feature 4 accepted and without.
theorem test_loadtbl_class :
    (tableOf tableBytes).safety = false ∧ ¬ Spec.feature stored6.fab 4 ∧ Spec.feature (feature 4 stored6).fab 4 := by
  unfold Spec.feature; decide +kernel

theorem test_loadtbl_refused :
    after (exec (.loadtbl (cmd [0, 8] 0)) stored6) (fun t => resp t == [2, 0, 0, 0]) = true ∧
    after (exec (.loadtbl (cmd [0, 0] 0)) stored6) (fun t => resp t == [3, 0, 32, 5]) = true := by
  decide +kernel

theorem test_starts :
    (let s := ready (tabled (task []))
     s.fab.host.partState = 1 ∧ (s.fab.table 0 0).isSome = true ∧ (s.fab.part 0).rising = none ∧ s.fab.runs = [] ∧
       after (exec (.startMode (cmd [0, 0, 0, 0])) s) (fun t => resp t == [0, 0, 0, 0] && (t.fab.part 0).rising.isSome) = true ∧
       after (exec (.startMode (cmd [0, 0, 1, 0])) s) (fun t => resp t == [2, 0, 0, 0]) = true ∧
       (s.fab.part 0).active = some 0 ∧ Spec.status (.lnch 3 1 2) s.fab 0 0 0 ∧
       after (exec (.startEntry (cmd [0, 1, 0, 0])) s) (fun t => resp t == [0, 0, 0, 0]
         && decide (t.fab.evq.map (fun e => (e.tick, e.w)) = [(4, .seq 0xE0000000 0 0 0)])) = true ∧
       after (exec (.startEntry (cmd [0, 1, 1, 0])) s) (fun t => resp t == [2, 0, 0, 0]) = true ∧
       after (exec (.startEntry (cmd [0, 1, 0, 0])) (running9 s)) (fun t => resp t == [0, 0, 1, 0] && decide (t.fab.evq = [])) = true ∧
       after (exec (.startEntry (cmd [0, 1, 0, 0])) { s with fab := { s.fab with host := { s.fab.host with ioStart := true } } }) (fun t => decide (t.fab.evq = [])) = true ∧
       after (exec (.modesw (cmd [0, 0])) s) (fun t => resp t == [0, 0, 0, 0] && decide ((t.fab.part 0).pend = none)) = true ∧
       after (exec (.modesw (cmd [0, 8])) s) (fun t => resp t == [2, 0, 0, 0]) = true) ∧
    (let s := ready (tabled (task []))
     let s : State := { s with fab := s.fab.modEnt 0 0 0 fun x => { x with armed := some (0, 5, false) } }
     s.fab.entryBusy 0 0 0 = false ∧ s.fab.launchTag 0 0 0 5 ≠ 0 ∧
       after (exec (.hostLaunch (cmd [0, 1, 0, 0])) s) (fun t => t.fab.insts.any fun j => j.2.start == 1015 && j.2.n == 2) = true) ∧
    (let s := ready (task [])
     after (exec (.purgeCmd (cmd [0, 0])) s) (fun t => resp t == [2, 0, 0, 0]) = true ∧
       after (exec (.purgeCmd (cmd [5, 0])) s) (fun t => resp t == [0, 0, 0, 0] && decide (t.fab.evq.map (·.w) = [.seq 0xDA000000 5 0 0])) = true ∧
       s.fab.fieldIdle = true ∧ s.fab.opBusy = false ∧
       after (exec (.partmode (cmd [1])) s) (fun t => decide (t.fab.host.msix = [] ∧ t.fab.ops.length = 1)) = true ∧
       after (exec (.partmode (cmd [2])) s) (fun t => resp t == [5, 0, 0, 0]) = true ∧
       after (exec (.partmode (cmd [6])) (feature 7 s)) (fun t => decide (t.fab.ops.map (·.2) = [.partm 6 none (some 7)])) = true ∧
       after (exec (.dieoff (cmd [0, 0])) s) (fun t => resp t == [5, 0, 0, 0]) = true ∧
       after (exec (.dieoff (cmd [6, 0])) (feature 9 s)) (fun t => resp t == [2, 0, 0, 0]) = true ∧
       after (exec (.dieoff (cmd [5, 0])) (feature 9 s)) (fun t => decide (mget 5 t.fab.dies = some 1 ∧ t.fab.host.msix = [])) = true) := by
  refine ⟨⟨rfl, by decide +kernel, by decide +kernel, by decide +kernel, by decide +kernel, by decide +kernel, by decide +kernel,
    status0 _ (by decide +kernel), by decide +kernel⟩, by decide +kernel⟩

/-- TIMECFG's and MIRCFG's arguments. -/
def timeArgs : List Byte := [1, 1] ++ List.replicate 6 0 ++ leBytes 8 4096 ++ leBytes 4 858993
def mirArgs : List Byte := List.replicate 8 0 ++ leBytes 4 128 ++ leBytes 2 1024 ++ [3, 0] ++ List.replicate 16 0 ++ [63]

theorem test_settings :
    (let s := ready (task [])
     s.fab.host.partState = 1 ∧ after (exec (.throttle (cmd [5, 7])) s) (fun t => (t.fab.block 5).floor == 7 && resp t == [0, 0, 0, 0]) = true ∧
       after (exec (.throttle (cmd [6, 0])) s) (fun t => resp t == [2, 0, 0, 0]) = true ∧
       after (exec (.timecfg (cmd timeArgs)) s) (fun t => resp t == [0, 0, 0, 0] && (t.fab.part 0).step == 4096 && (t.fab.part 0).disciplined) = true ∧
       after (exec (.timecfg (cmd [2])) s) (fun t => resp t == [2, 0, 0, 0]) = true ∧ s.fab.mirrorBusy = false ∧
       after (exec (.mircfg (cmd mirArgs)) s) (fun t => t.fab.beryl.nslot == 1024 && t.fab.beryl.hbSend && t.fab.beryl.ssize == 128 && resp t == [0, 0, 0, 0]) = true ∧
       after (exec (.mircfg (cmd [1])) s) (fun t => resp t == [2, 0, 0, 0]) = true ∧
       after (exec (.qrec (cmd [1, 0, 1, 0])) s) (fun t => resp t == [2, 0, 0, 0]) = true) ∧
    (let s := ready (paged (tabled (task [])))
     let s : State := { s with fab := (s.fab.store 0x100000 [77]).modPart 0 fun p => { p with records := 1 } }
     (s.fab.readSys 0 64).1.isSome = true ∧ (s.fab.table 0 0).isSome = true ∧ Spec.arg (cmd [0, 0, 1, 0]) 18 2 = 1 ∧
       after (exec (.qrec (cmd [0, 0, 1, 0])) s) (fun t => memGet t.fab.mem hostBase == 77) = true) := by
  decide +kernel

/-- SYSMAP of one 64 KiB page at 0x10000, to 0x200000. -/
def mapArgs : List Byte := leBytes 8 0x10000 ++ leBytes 8 0x200000 ++ leBytes 8 0x10000 ++ [0, 1]
def unmapArgs : List Byte := leBytes 8 0 ++ leBytes 8 0 ++ leBytes 8 0x10000 ++ [0, 0]

theorem test_sysmap :
    (let s := ready (paged (task []))
     s.fab.host.partState = 1 ∧ s.fab.sysmapBad (cmd mapArgs) = false ∧ s.fab.sysRoot = some 0x40000 ∧
       s.fab.leafPlace none 0x10000 4 0x40000 = some 0x52008 ∧ (s.fab.pte 0x52008).getLsbD 0 = false ∧
       after (exec (.sysmapMap (cmd mapArgs)) s) (fun t => t.fab.pte 0x52008 == 0x200007 && resp t == [0, 0, 1, 0]) = true ∧
       after (exec (.sysmapMap (cmd (mapArgs ++ [1]))) s) (fun t => resp t == [2, 0, 0, 0]) = true ∧
       s.fab.leafPlace none 0 4 0x40000 = some 0x52000 ∧ (s.fab.pte 0x52000).getLsbD 0 = true ∧ (s.fab.pte 0x52000).getLsbD 1 = true ∧
       after (exec (.sysmapMap (cmd (leBytes 8 0 ++ mapArgs.drop 8))) s) (fun t => resp t == [2, 0, 0, 0]) = true ∧ s.fab.pom.sbuf = [] ∧
       after (exec (.sysmapMap (cmd (mapArgs.set 25 4))) s) (fun t => resp t == [5, 0, 0, 0]) = true ∧
       s.fab.sysmapBad (cmd unmapArgs) = false ∧
       (match s.fab.walkRoot none 0 with
        | .ok x => decide (x = (0x100007, 16, 0x52000))
        | _ => false) = true ∧
       after (exec (.sysmapUnmap (cmd unmapArgs)) s) (fun t => t.fab.pte 0x52000 == 0 && resp t == [0, 0, 1, 0]) = true) := by
  decide +kernel

/-! ## Lanes, held accesses and jobs outside rows (R26, R136-R146, R170-R182, R191-R210, R285-R292, R332) -/

/-- Lane 0 of element 0 as given. -/
def lane0 (l : Lane) : State := one 0 0 fun x => x.modLane 0 fun _ => l
/-- An EOS and a marker. -/
def eos : Token := { kind := .eos }
def mark : Token := { kind := .marker }
/-- Tokens in the buffer of that lane. -/
def buf0 (t : State) : List Token := (t.fab.lane 0 0 0).buf

theorem test_lanes :
    (let s := lane0 { pipe := [⟨0, 0, dat 7⟩, ⟨0, 1, dat 8⟩] }
     (s.fab.lane 0 0 0).pipe = [⟨0, 0, dat 7⟩, ⟨0, 1, dat 8⟩] ∧
       after (exec (.linkTokenArrival 0 0 0) s) (fun t => decide (buf0 t = [dat 7] ∧ (t.fab.lane 0 0 0).pipe.length = 1)) = true) ∧
    after (exec (.controlTokenArrival 0 0 0) (lane0 { pipe := [⟨0, 1, dat 7⟩] })) (fun t => decide (buf0 t = [])) = true ∧
    (let s := lane0 { buf := [dat 7, dat 8], discard := true }
     Spec.headIs (s.fab.lane 0 0 0) 0 (dat 7) ∧
       after (exec (.laneDiscardDrop 0 0 0) s) (fun t => decide (buf0 t = [dat 8] ∧ (t.fab.lane 0 0 0).discard = true)) = true) ∧
    after (exec (.laneDiscardDrop 0 0 0) (lane0 { buf := [eos], discard := true })) (fun t => decide (buf0 t = []) && !(t.fab.lane 0 0 0).discard) = true ∧
    after (exec (.laneDiscardDrop 0 0 0) (lane0 { buf := [mark], discard := true })) (fun t => decide (buf0 t = [mark]) && !(t.fab.lane 0 0 0).discard) = true ∧
    after (exec (.laneDiscardDrop 0 0 0) (lane0 { buf := [dat 7] })) (fun t => decide (buf0 t = [dat 7])) = true ∧
    (let s := lane0 { buf := [mark, dat 7], log := some [dat 1] }
     ((s.fab.run 0).copy 0).cutOpen = none ∧
       after (exec (.markerTaken 0 0 0) s) (fun t => decide (buf0 t = [dat 7] ∧ (t.fab.lane 0 0 0).log = none ∧ (t.fab.lane 0 0 0).headAt = 1)) = true) := by
  unfold Spec.headIs; decide +kernel

-- Track 1 from the north is bypassed to the south neighbour, element 60.
theorem test_bypass :
    (let s := one 0 0 (fun x => x.modLane (dataLane .n 1) fun l => { l with buf := [dat 7] }) { inmap := 3 }
     let into := dataLane (oppDir .s) 1
     (match (s.fab.slot 0 0).share with
      | some sh => decide (sh.bypass .n = some .s)
      | none => false) = true ∧ neighbour 0 .s = some 60 ∧ Spec.headIs (s.fab.lane 0 0 (dataLane .n 1)) 0 (dat 7) ∧ (s.fab.lane 60 0 into).occ 0 < linkCap 0 .s ∧
       after (exec (.bypassHop 0 0 .n) s) (fun t => decide ((t.fab.lane 60 0 into).pipe.map (·.tok) = [dat 7] ∧ (t.fab.lane 0 0 (dataLane .n 1)).buf = [])) = true) := by
  unfold Spec.headIs; decide +kernel

theorem test_teardown :
    (let s := withCopy (fun k => { k with passed := true }) (one 0 0 fun x => { (x.modLane 0 fun l => { l with buf := [dat 7, dat 8] }) with h := true })
     (s.fab.slot 0 0).run = some (0, 0) ∧ (mget 0 s.fab.runs).isSome = true ∧ ((s.fab.run 0).copy 0).passed = true ∧ (s.fab.elem 0).hold = none ∧
       (s.fab.elem 0).mq = [] ∧ (∀ j, (s.fab.job 0 j).live = false) ∧
       after (exec (.teardownToken 0 0) s) (fun t => decide ((t.fab.slot 0 0).st = .resident ∧ (t.fab.slot 0 0).run = none ∧ buf0 t = []) &&
         !(t.fab.slot 0 0).h && (t.fab.run 0).discard == 2) = true) := by
  decide +kernel

/-- LDTS of an empty word, which parks; then the word is full. -/
def parkedAt (tag : Nat) : State :=
  match exec (.ldts 0 2 0 0 0 0 wab) (word 4 9 1 (tiles (one 1 1))) with
  | .next t => { t with fab := t.fab.setTag (elemBase 0 + 4) tag }
  | _ => State.reset

theorem test_parked :
    (let s := parkedAt 0
     (s.fab.elem 0).hold.any (fun h => decide (h.kind = .scalar ∧ h.parked = true ∧ (h.row s.fab 0).opc = 0x75 ∧ h.isG = false ∧ 2 ^ 41 ≤ h.loc ∧
       s.fab.tag h.loc = 0 ∧ s.fab.chainOk 0 h.c h.run h.copy h.frame (h.row s.fab 0).wave = true ∧ s.fab.armP = false ∧ h.armP = false ∧
       (h.row s.fab 0).tape = none ∧ s.fab.migs = [])) = true ∧
       after (exec (.parkedAccessRetest 0) s) (fun t => w3 t == 9 && decide ((t.fab.elem 0).hold = none)) = true) ∧
    after (exec (.parkedAccessRetest 0) (parkedAt 1)) (fun t => (t.fab.elem 0).hold.isSome) = true := by
  decide +kernel

/-- A window's access on its completion tick, where no address is mapped. -/
def unmapped (i : Instr) : State :=
  match exec i (tiles (one 3 1 (hold3 3))) with
  | .next t => { t with fab := { t.fab with clock := 44 } }
  | _ => State.reset

theorem test_access_faults :
    (let s := unmapped (.gld 0 2 0 0 0 0 wab)
     (s.fab.elem 0).hold.any (fun h => decide (h.kind = .scalar ∧ h.aux ≠ [1] ∧ h.placed = false ∧ h.armP = false ∧ 0x80 ≤ (h.row s.fab 0).opc ∧
       (h.row s.fab 0).tape = none ∧ (s.fab.elemTranslate 0 (accessKind (h.row s.fab 0).opc) h.va).1.toOption = none)) = true ∧
       after (exec (.scalarAccessCompletion 0) s) (fun t => fb t == ⟨0x09000000, true, .i32⟩ && decide ((t.fab.elem 0).hold = none)) = true) ∧
    after (exec (.scalarAccessCompletion 0) (unmapped (.gst 0 2 0 0 0 wst))) (fun t => fb t == {} && decide ((t.fab.elem 0).hold = none)) = true := by
  decide +kernel

/-- The state after a row. -/
def afterRow (i : Instr) (s : State) : State :=
  match exec i s with
  | .next t => t
  | _ => State.reset

-- TLEVEL of tile 1 to D; COMPM whose job is done with 3 in its record.
theorem test_held_operations :
    (let s := afterRow (.tlevel 0 0 0 2 0 wh) (tiles (one 1 0))
     let store := s.fab.storage 0 2
     (s.fab.elem 0).hold.any (fun h => decide (h.kind = .tile ∧ h.armP = false ∧ s.fab.armP = false ∧ (h.row s.fab 0).tape = none ∧ (h.row s.fab 0).opc = 0x7C ∧
       (h.row s.fab 0).var = 2 ∧ h.h = 1)) = true ∧ (s.fab.tileOf 0 0 1).any (fun t => decide (t.homeg = false ∧ t.lvl = 1 ∧ (firstFit store.1 store.2 (t.need 2)).isSome = true)) = true ∧
       s.fab.tileBusy 0 1 = false ∧
       after (exec (.tileMoveCompletion 0) s) (fun t => w3 t == 0 && (mget 1 (t.fab.elem 0).tiles).any fun x => x.lvl == 2) = true) ∧
    (let h : Hold := { kind := .op, op := opWord (.compm 0 0 0 0 w0), wr := w0, aux := [0] }
     let s := job { live := true, st := .done, opc := 0xB4, extra := [3] } (one 0 0)
     let s : State := { s with fab := s.fab.modElem 0 fun x => { x with hold := some h } }
     (s.fab.elem 0).hold = some h ∧ (h.row s.fab 0).tape = none ∧ (s.fab.job 0 0).fpend = [] ∧ (∀ k, k ≠ 0 → (s.fab.job 0 k).live = false) ∧
       after (exec (.heldOpRetirement 0) s) (fun t => w3 t == 3 && !(job0 t).live && decide ((t.fab.elem 0).hold = none)) = true) := by
  decide +kernel

/-- TFILL of four words of tile 1 with 5, about to write element i. -/
def filling (i : Nat) (g : Job → Job := id) : State :=
  let s := afterRow (.tfill 0 0 0 0 (wires 0 0 0 1 2 0)) (tiles (one 5 1 id (withBlock [0, 0, 0x3000])))
  { s with fab := (s.fab.modElem 0 fun x => { x with sq := x.sq.set 0 (g { x.sq.get 0 with begun := true, idx := i, next := 0 }) }) }

theorem test_job_elements :
    (let s := filling 0
     let b := s.fab.job 0 0
     Spec.jobTurn s.fab 0 0 ∧ Spec.jobChained s.fab 0 b ∧ b.opc = 0x7B ∧ b.abort = false ∧ b.begun = true ∧ b.idx < b.n ∧ b.dst = some (handleOf b.b.v) ∧ (s.fab.tileOf 0 b.c (handleOf b.b.v)).any (fun d => decide (d.lvl = 1 ∧ d.itemBits = 32 ∧
         copyBit b.pb d 1 b.idx % 8 = 0)) = true ∧ s.fab.cinchesOf 0 (handleOf b.b.v) = [] ∧ b.a.p = false ∧ s.fab.migs = [] ∧
       after (exec (.jobElement 0 0) s) (fun t => (job0 t).idx == 1 && t.fab.load (elemBase 0) 4 == 5) = true) ∧
    (let s := filling (filling 0 |> job0).n
     after (exec (.jobElement 0 0) s) (fun t => decide ((job0 t).st = .done)) = true) ∧
    after (exec (.jobElement 0 0) (filling 0 fun b => { b with abort := true })) (fun t => decide ((job0 t).st = .aborted ∧ (job0 t).cause = 5)) = true ∧
    (filling 0).alive = true ∧ after (exec (.jobFaultStop 0 0) (filling 0)) (fun t => decide ((job0 t).st = .stopped ∧ (t.fab.chan 3).q.length = 1)) = true ∧
    (let s := filling 4 fun b => { b with st := .done, fin := 0, esr := 1, push := some 4 }
     let s : State := { s with fab := { s.fab with clock := 1 } }
     (s.fab.job 0 0).fin < s.fab.clock ∧ (∀ k, (s.fab.job 0 k).live = true → (s.fab.job 0 k).c = (s.fab.job 0 0).c → (s.fab.job 0 0).seq ≤ (s.fab.job 0 k).seq) ∧
       after (exec (.jobRetirement 0 0) s) (fun t => !(job0 t).live && (t.fab.slot 0 0).esrIn == 1 && esr t == 0 && decide (((t.fab.slot 0 0).fifos.get 4).q = [(1, 4)])) = true) ∧
    after (exec (.portWeightRecompute 0) (filling 0)) (fun t => (t.fab.elem 0).port.get 8 == 0) = true := by
  unfold Spec.jobTurn Spec.jobChained Spec.elementDue; decide +kernel

-- Under wave entry 1 the write of frame 0 has not been performed: that of frame 1 waits a tick.
theorem test_job_waits :
    (let s := filling 0 fun b => { b with pb := block [0, 0, 0x3000, 0x10], frame := 1 }
     let sh : Share := { withBlock [0, 0, 0x3000, 0x10] with op := [opWord (.tfill 0 0 0 0 (wires 0 0 0 1 2 0))], wave := [0, 1] }
     let s : State := { s with fab := s.fab.modSlot 0 0 fun x => { x with share := some sh } }
     let b := job0 s
     b.waves = [1] ∧ s.fab.chainOk 0 b.c b.run b.copy b.frame 1 = false ∧
       after (exec (.jobElement 0 0) s) (fun t => (job0 t).next == 1 && (job0 t).idx == 0) = true) := by
  decide +kernel

/-- A DCMPJ of an LZ4 block of five bytes: the literals 61 62 63 64, at virtual address 0x1000, to the window 4 at 0x2000, of four bytes. -/
def expanding (g : Job → Job := id) : State :=
  let s := mapped (job (g { live := true, st := .running, opc := 0xB9, a := ⟨3, false, .hdl⟩, b := ⟨4, false, .hdl⟩
                            extra := List.replicate 9 0, pb := block [0, 0, 5, 4, 0x20] }) (tiles (one 0 0)))
  let f := s.fab.store 0x1000 [0x40, 0x61, 0x62, 0x63, 0x64]
  { s with fab := f.modElem 0 fun x => { x with tiles := mput 4 { lvl := 3, homeg := true, cols := 4, loc := 0x2000 } x.tiles } }
/-- Its engine has begun, and its next bytes are due. -/
def expanded : State := let t := afterRow (.dcmpjEngineStart 0 0) (expanding); { t with fab := { t.fab with clock := (job0 t).fin } }
/-- The last of its times. -/
def expandedLast : State := afterRow (.dcmpjCompletion 0 0) expanded

theorem test_expand_starts :
    (let s := expanding
     let b := job0 s
     (s.fab.tileOf 0 b.c (handleOf b.a.v)).isSome = true ∧ (s.fab.tileOf 0 b.c (handleOf b.b.v)).isSome = true ∧
       b.live = true ∧ b.opc = 0xB9 ∧ b.st = .running ∧ b.abort = false ∧ b.begun = false ∧ Spec.jobChained s.fab 0 b ∧
       ((s.fab.dcJobs (s.fab.dcHome 0 b)).filter (·.2.begun)).length < 2 ∧ (∀ p ∈ s.fab.dcJobs (s.fab.dcHome 0 b), p.2.begun = true ∨ p = (0, b)) ∧
       after (exec (.dcmpjEngineStart 0 0) s) (fun t => (job0 t).begun && decide ((job0 t).trace ≠ [] ∧ (job0 t).ahead = [0x61, 0x62, 0x63, 0x64])) = true) ∧
    after (exec (.dcmpjCompletion 0 0) (expanding fun b => { b with abort := true })) (fun t => decide ((job0 t).st = .aborted)) = true ∧
    after (exec (.dcmpjEngineStart 0 0) (expanding fun b => { b with abort := true })) (fun t => decide ((job0 t).cause = 5)) = true := by
  unfold Spec.jobChained; decide +kernel

theorem test_expand_ends :
    (let s := expanded
     let b := job0 s
     b.fin = s.fab.clock ∧ s.fab.migs = [] ∧ b.fpend = [] ∧ s.fab.cinchesOf 0 (handleOf b.b.v) = [] ∧ b.extra.length = 9 ∧ b.trace.length = 2 ∧
       after (exec (.dcmpjCompletion 0 0) s) (fun t => (job0 t).idx == 4 && t.fab.load 0x2000 4 == 0x64636261 && decide ((job0 t).trace.length = 1)) = true) ∧
    (let s := expandedLast
     let b := job0 s
     b.fin = s.fab.clock ∧ b.fpend = [] ∧ b.trace.length = 1 ∧ b.ex 6 = 0 ∧ b.idx = dcCap b.pb ∧
       after (exec (.dcmpjCompletion 0 0) s) (fun t => decide ((job0 t).st = .done ∧ (job0 t).cause = 0) && (job0 t).idx == 4 && (job0 t).fin == s.fab.clock + 19) = true) := by
  decide +kernel

/-! ## Matrix commands, cinches, collectives and tapes outside rows (R234-R261, R296-R313) -/

/-- Two i8 tiles of one item at E, of items 0x80 and 0x7F; the command multiplies them into cell (0, 0). -/
def pair8 (m : MCmd → MCmd := id) (sh : Share := {}) : State :=
  let m := m { mul1 with ha := 1, hb := 2, pb := block [0, 0, 0, 0, BitVec.ofNat 32 (33 * Ty.i8.ctorIdx)] }
  let s := node { st := .feeding, opc := 0xA0, total := 1 } [m] (one 0 0 id sh)
  let f := (s.fab.store (elemBase 0) [0x80]).store (elemBase 0 + 512) [0x7F]
  { s with fab := f.modElem 0 fun x => { x with
      node := { x.node with i32 := true, cells := [(0, ⟨100, false⟩)] }
      tiles := [(1, { fmt := .i8, len := 1 }), (2, { fmt := .i8, loc := 1, len := 1 })] } }
/-- Cell (0, 0) and the node's progress register. -/
def cell00 (t : State) : Val := (t.fab.elem 0).node.cell 0 0
def prg (t : State) : MProg := (t.fab.elem 0).node.prg

-- 100 + -128 × 127.
theorem test_group_commit :
    (let s := pair8
     let m := ((s.fab.elem 0).mq).headD {}
     (s.fab.elem 0).mq = [m] ∧ m.begun = true ∧ m.due = s.fab.clock ∧ s.fab.moving 0 = false ∧ m.fpend = [] ∧ (prg s).st = .feeding ∧
       (s.fab.tileOf 0 m.c m.ha).any (fun t => decide (t.lvl = 1 ∧ t.lay ≠ 3 ∧ t.fmt = .i8)) = true ∧ (s.fab.tileOf 0 m.c m.hb).isSome = true ∧
       mSynA m.pb = false ∧ mSynB m.pb = false ∧ (∀ q ∈ blockWaves m.op m.pb, s.fab.chainOk 0 m.c m.run m.copy m.frame q = true) ∧
       mFa m.pb = .i8 ∧ mM m.pb = 1 ∧ mN m.pb = 1 ∧ mK m.pb = 1 ∧ (prg s).done = 0 ∧ (cell00 s).p = false ∧ s.fab.tag (elemBase 0) < 2 ∧
       after (exec (.matrixGroupCommit 0) s) (fun t => decide (cell00 t = ⟨BitVec.ofInt 32 (-16156), false⟩ ∧ (prg t).st = .done ∧ (prg t).done = 1)) = true) := by
  decide +kernel

-- Wave entry 1: the command of frame 0 has not read its tiles.
theorem test_group_waits :
    (let pb := block [0, 0, 0, 0, BitVec.ofNat 32 (33 * Ty.i8.ctorIdx + 0x10000)]
     let sh : Share := { params := [(0, pb)], op := [opWord (.mma 0 0 1 1 w12)], wave := [0, 1] }
     let s := pair8 (fun m => { m with pb := pb, frame := 1 }) sh
     s.fab.chainOk 0 0 0 0 1 1 = false ∧ blockWaves 0xA00000 pb = [1, 0] ∧
       after (exec (.matrixGroupCommit 0) s) (fun t => decide ((prg t).done = 0 ∧ (t.fab.elem 0).mq.map (·.due) = [1])) = true) := by
  decide +kernel

/-- A drain of cell (0, 0) to MD as i32. -/
def draining (l : Lane) : State :=
  let m : MCmd := { op := 0xA50000, begun := true, pb := block [0, 0, 0, 0, BitVec.ofNat 32 Ty.i32.ctorIdx] }
  let s := node { st := .draining, opc := 0xA5, total := 1 } [m] (one 0 0 fun x => x.modLane 14 fun _ => l)
  { s with fab := s.fab.modElem 0 fun x => { x with node := { x.node with i32 := true, cells := [(0, ⟨100, false⟩)] } } }

theorem test_command_ends :
    (let s := node { st := .done, done := 1 } [{ mul1 with push := some 5 }] (one 0 0)
     (s.fab.elem 0).mq = [{ mul1 with push := some 5 }] ∧ s.fab.moving 0 = false ∧
       after (exec (.matrixCommandRetirement 0) s) (fun t => decide ((t.fab.elem 0).mq = [] ∧ ((t.fab.slot 0 0).fifos.get 5).q = [(0, 1)])) = true) ∧
    (let s := node { st := .feeding, fidx := 9 } [{ mul1 with fault := some (2, 0x1000) }] (one 0 0)
     s.alive = true ∧ (s.fab.chan 3).q.length < 8 ∧
       after (exec (.matrixFeedFault 0) s) (fun t => decide ((prg t).st = .stopped ∧ (prg t).cause = 4 ∧ (prg t).xcause = 2 ∧
         (t.fab.chan 3).q.map (fun m => (m.w1, m.w2)) = [(0x1000, 9)])) = true) ∧
    (let s := draining {}
     (prg s).st = .draining ∧ (s.fab.lane 0 0 laneMD).occ 0 < 2 ∧ (cell00 s).p = false ∧ mFa (((s.fab.elem 0).mq).headD {}).pb = .i32 ∧
       after (exec (.mdDrainToken 0) s) (fun t => decide ((t.fab.lane 0 0 14).pipe.map (fun x => (x.due, x.tok.v)) = [(1, 100)])) = true) ∧
    after (exec (.mdDrainToken 0) (draining { buf := [dat 1, dat 2] })) (fun t => decide ((t.fab.lane 0 0 14).pipe = [] ∧ (t.fab.elem 0).mq.map (·.due) = [1])) = true := by
  decide +kernel

/-- Element 0 waits for cinch 3 with this instruction. -/
def asking (i : Instr) (x : Cinch) : State :=
  let s := one 0 0 id (withBlock [3, 2])
  { s with fab := { s.fab with cinches := [(3, x)] }.modElem 0 fun y => { y with hold := some { kind := .cinch, op := opWord i, wr := w0, h := 3 } } }
/-- What is on its way to element 0, and whether it is a refused arrival. -/
def told (t : State) : Option (W32 × Bool × List Nat) := (t.fab.elem 0).hold.bind fun h => h.got.map fun v => (v.v, v.p, h.aux)
/-- Cinch 3. -/
def cinch3 (t : State) : Cinch := t.fab.cinch 3

theorem test_cinch_requests :
    (asking (.cinit 0 w0) {}).fab.dies = [] ∧
    after (exec (.cinchRequestArrival 0) (asking (.cinit 0 w0) {})) (fun t => decide (cinch3 t = { count := 2 } ∧ told t = some (0, false, []) ∧ t.fab.evq.map (·.tick) = [4])) = true ∧
    after (exec (.cinchRequestArrival 0) (asking (.cinit 0 w0) { count := 2, waits := [7] })) (fun t => told t == some (1, false, [])) = true ∧
    after (exec (.cinchRequestArrival 0) (asking (.carr 0 0 w0) { count := 2 })) (fun t => decide (cinch3 t = { count := 2, arr := 1, waits := [0] } ∧ told t = none)) = true ∧
    after (exec (.cinchRequestArrival 0) (asking (.carr 0 1 w0) { count := 2, phase := 9 })) (fun t => decide (cinch3 t = { count := 2, phase := 9, arr := 1 } ∧ told t = some (9, false, []))) = true ∧
    after (exec (.cinchRequestArrival 0) (asking (.carr 0 1 w0) { count := 1, phase := 9 })) (fun t => decide (cinch3 t = { count := 1, phase := 10 } ∧ told t = some (9, false, []))) = true ∧
    after (exec (.cinchRequestArrival 0) (asking (.carr 0 0 w0) { count := 1, phase := 9 })) (fun t => decide (cinch3 t = { count := 1, phase := 10 } ∧ told t = some (9, false, []))) = true ∧
    after (exec (.cinchRequestArrival 0) (asking (.carr 0 1 w0) { count := 1, arr := 1, pend := 5 })) (fun t => decide ((cinch3 t).err = true ∧ told t = some (0x04000000, true, [1]))) = true ∧
    after (exec (.cinchRequestArrival 0) (asking (.carr 0 2 w0) { count := 1 })) (fun t => decide ((cinch3 t).waits = [0] ∧ told t = none)) = true ∧
    after (exec (.cinchRequestArrival 0) (asking (.cdrop 0 w0) { count := 2, pend := 5 })) (fun t => decide ((cinch3 t).count = 1 ∧ told t = some (0, false, []))) = true ∧
    after (exec (.cinchRequestArrival 0) (asking (.cqry 0 0 w0) { phase := 9, err := true })) (fun t => decide (told t = some (0x09000001, false, []))) = true := by
  decide +kernel

theorem test_cinch_ends :
    after (exec (.cinchPendSubtract 0 3 5) (asking (.carr 0 0 w0) { count := 2, pend := 4, arr := 1 })) (fun t => decide (cinch3 t = { count := 2, arr := 1, err := true })) = true ∧
    after (exec (.cinchPendSubtract 0 3 5) (asking (.carr 0 0 w0) { count := 1, pend := 5, arr := 1, waits := [0] })) (fun t => decide (cinch3 t = { count := 1, phase := 1 } ∧ told t = some (0, false, []))) = true ∧
    (let s := asking (.carr 0 0 w0) {}
     let s : State := { s with fab := s.fab.modElem 0 fun x => { x with hold := x.hold.map fun h => { h with got := some ⟨5, false, .n32⟩ } } }
     (s.fab.elem 0).hold.any (fun h => decide (h.kind = .cinch ∧ h.armP = false ∧ h.got.isSome = true ∧ (h.row s.fab 0).tape = none)) = true ∧
       after (exec (.cinchAnswerArrival 0) s) (fun t => w3 t == 5 && esr t == 0 && decide ((t.fab.elem 0).hold = none)) = true) := by
  decide +kernel

-- Tile 1 bound to cinch 3, which five bytes more are to reach.
theorem test_cinch_binding :
    (let s := asking (.cexpb 0 w0) { count := 2, pend := 4 }
     let s : State := { s with fab := s.fab.modElem 0 fun x => { x with
       tiles := [(1, {})], hold := x.hold.map fun h => { h with a := ⟨1, false, .hdl⟩, b := ⟨5, false, .n32⟩ } } }
     (s.fab.elem 0).hold.any (fun h => decide ((s.fab.tileOf 0 h.c (handleOf h.a.v)).isSome = true ∧ (fld h.op 16 8).toNat = 0xC6)) = true ∧
       after (exec (.cinchRequestArrival 0) s) (fun t => decide (cinch3 t = { count := 2, pend := 9, binds := [(0, 1)] } ∧ told t = some (0, false, []))) = true) := by
  decide +kernel

/-- A contribution of element 0 to a group of m, at virtual address 0x2000, of value 7. -/
def contributing (m : W32) : State :=
  let pb := block [3, m - 1, 0x2000]
  let s := mapped (job { live := true, st := .running, opc := 0x98, op := 0x980000, pb := pb } (one 0 0))
  { s with fab := { s.fab with colls := [(9, ⟨0, 3, 0, 0, 0, ⟨7, false, .i32⟩, 0, false, pb⟩)] } }

theorem test_collectives :
    (let s := contributing 1
     (s.fab.colls.map (·.1)) = [9] ∧ collM (block [3, 0, 0x2000]) = 1 ∧ s.fab.migs = [] ∧ (s.fab.elemTranslate 0 .write (collVa (block [3, 0, 0x2000]))).1.toOption = some 0x2000 ∧
       (∀ q ∈ (job0 s).waves, s.fab.chainOk 0 0 0 0 0 q = true) ∧
       after (exec (.collContributionArrival 9) s) (fun t => decide (t.fab.colls = [] ∧ (job0 t).next = 4) && t.fab.load 0x2000 8 == 0x100000007) = true) ∧
    after (exec (.collContributionArrival 9) (contributing 2)) (fun t => t.fab.colls.any fun x => x.2.here) = true ∧
    (let s := contributing 1
     after (exec (.collRetirement 0) s) (fun t => decide ((job0 t).st = .done ∧ (job0 t).idx = 1)) = true) := by
  decide +kernel

/-- A record of element 0 waits: its value stream ends at bit 9 of chunk 0 with 5, its decisions are three trues. -/
def recorded (b : Bool) (v : W32) : State :=
  let s := recording (closed { withBlock [3] with flags := 2 } (one 0 0))
  { s with fab := s.fab.modSlot 0 0 fun x => { x with
      recq := [⟨b, v, false, 1, 0⟩]
      tp := { v := { n := 1, last := 5, ch := 0, pos := 9 }, b := { n := 3, ch := 2, pos := 1, run := 0x82 } } } }
/-- Streams of element 0. -/
def tp0 (t : State) : TPos := (t.fab.slot 0 0).tp

theorem test_records :
    (((recorded true 1).fab.nextRecord 0).map fun x => (x.1, x.2.1, x.2.2.1)) = some (0, 0, 0) ∧ ((one 0 0).fab.nextRecord 0) = none ∧
    ((recorded true 1).fab.run 0).regen = none ∧ (recorded true 1).fab.migs = [] ∧
    after (exec (.tapeRecordAccept 0 1) (recorded true 1)) (fun t => decide ((tp0 t).b = ⟨4, 2, 1, 0x83⟩ ∧ (t.fab.slot 0 0).recq = [])) = true ∧
    after (exec (.tapeRecordAccept 0 1) (recorded false 4)) (fun t => decide ((tp0 t).v = ⟨2, 4, 0, 16⟩)) = true ∧
    after (exec (.tapeRecordAccept 0 0) (recorded false 4)) (fun t => decide ((t.fab.slot 0 0).recq ≠ [])) = true := by
  decide +kernel

/-- A captured key of element 0 for tape 3. -/
def captured (s : State) : State :=
  { s with fab := s.fab.modSlot 0 0 fun x => { x with keyq := [{ tape := 3, frame := 0, mask := 0, incl := false, saved := some (List.replicate 160 1) }] } }

theorem test_key_write :
    (let s := captured (recorded true 1)
     ((s.fab.slot 0 0).keyq.find? fun x => x.saved.isSome && decide (x.due ≤ s.fab.clock)).isSome = true ∧ (mget 3 s.fab.tapes).any (fun t => decide (t.lvl = 2)) = true ∧
       s.fab.tpKeys 3 < s.fab.tpKcap 3 ∧ after (exec (.tapeKeyWrite 0 0) s) (fun t => decide (t.fab.tpKeys 3 = 1 ∧ (t.fab.slot 0 0).keyq = [])) = true) ∧
    (let s := captured (recorded true 1)
     after (exec (.tapeKeyWrite 0 0) { s with fab := s.fab.tapePut 3 0x1A [0, 0] }) (fun t => decide (t.fab.tpKeys 3 = 0) && (t.fab.tpFlags 3).testBit 1) = true) := by
  decide +kernel

theorem test_tape_close :
    (let s := withCopy (fun k => { k with rec_ := some { key := 3, since := 0, stop := some 0 } }) (closed { withBlock [3] with flags := 2 } (one 0 0))
     s.fab.runs.length = 1 ∧ s.fab.mayClose (s.fab.run 0) (copy0 s) = true ∧ (mget 3 s.fab.tapes).any (fun t => decide (t.lvl = 2)) = true ∧ s.fab.migs = [] ∧
       after (exec (.tapeClose 0 3) { s with fab := s.fab.tapePut 3 4 [0] }) (fun t => decide (t.fab.tpState 3 = 1) && (copy0 t).rec_.any fun k => k.over_) = true) ∧
    (let s := recorded true 1
     s.fab.mayClose (s.fab.run 0) (copy0 s) = false) := by
  decide +kernel

/-- A replay that has popped its values down to frame 5 of tape 3, with a key of frame 1; the forward image is resident in slot 1. -/
def rewinding : State :=
  let s := withCopy (fun k => { k with replay := some { key := some 3, slot := 1, next := 6 } }) (closed { op := [0xD30000] } (one 0 0))
  let f := (((s.fab.tapePut 3 6 [1]).tapePut 3 0x10 [4, 0, 0, 0]).tapePut 3 0x1E [1, 0]).tapePut 3 0x0C [6, 0, 0, 0]
  let f := f.tapePut 3 (f.tpKey 3 0) (leBytes 4 1)
  { s with fab := { f.modSlot 0 1 fun x => { x with st := .resident, share := some { op := [0xD30000] } } with seq := 50 } }

theorem test_regeneration :
    (let s := rewinding
     let cp := copy0 s
     s.fab.runs.map (·.1) = [0] ∧ cp.replay.any (fun p => decide (p.key = some 3 ∧ p.seg = none ∧ s.fab.needsSegment (s.fab.run 0) cp p s.fab.clock = true ∧
         s.fab.forwardSlot 3 cp (s.fab.tapeSlot cp p.slot) = true ∧ s.fab.segmentOf 3 cp (s.fab.tapeSlot cp p.slot) (p.next - 1) = some (2, 5) ∧
         ∀ e ∈ cp.elems, (s.fab.slot e (s.fab.tapeSlot cp p.slot)).st ≠ .running)) = true ∧
       after (exec (.tapeRegeneration 0 3) s) (fun t => (t.fab.runs.any fun x => decide (x.1 = 50 ∧ x.2.regen = some (0, 0))) &&
         (copy0 t).replay.any fun p => decide (p.seg = some (2, 5, some 50))) = true) ∧
    (let s := withCopy (fun k => { k with replay := some { key := some 3, slot := 1, next := 4 } }) rewinding
     (copy0 s).replay.any (fun p => !s.fab.needsSegment (s.fab.run 0) (copy0 s) p s.fab.clock) = true) := by
  decide +kernel

/-! ## Modes, runs, operations of the field, containment (R321, R327-R335, R339-R345, R352, R357-R369) -/

/-- Partition 0 changed. -/
def withPart (g : Part → Part) (s : State) : State := { s with fab := s.fab.modPart 0 g }
/-- w0 of the messages of a channel. -/
def heads (t : State) (ch : Nat) : List W64 := (t.fab.chan ch).q.map (·.w0)

-- Event 4 of partition 0, mode 0, and event 2 to mode 1.
theorem test_tables_rise :
    (let s := withPart (fun p => { p with rising := some (0, some 1000), active := none, records := 9 }) (tabled (task []))
     (s.fab.part 0).rising = some (0, some 1000) ∧ s.fab.ctr 0 = 1000 ∧ s.fab.pom.halted = false ∧ (s.fab.chan 4).q.length < chanDepth 4 ∧
       after (exec (.tableActivation 0) s) (fun t => decide ((t.fab.part 0).active = some 0 ∧ (t.fab.part 0).records = 0 ∧ (t.fab.part 0).base = 1000 ∧
         heads t 4 = [0x0704000000000000])) = true) ∧
    (let s := withPart (fun p => { p with rising := some (0, some 1001) }) (tabled (task []))
     after (exec (.tableActivation 0) s) (fun t => decide ((t.fab.part 0).rising = some (0, some 1001))) = true) ∧
    (let s := withPart (fun p => { p with pend := some 1 }) (tabled (task []))
     let s : State := { s with fab := { s.fab with tables := s.fab.tables ++ [(tableKey 0 1, {})] } }
     (s.fab.part 0).toSpare = [] ∧ (s.fab.table 0 1).isSome = true ∧ (s.fab.part 0).step = 0 ∧
       after (exec (.modeChangePoint 0) s) (fun t => decide ((t.fab.part 0).active = some 1 ∧ (t.fab.part 0).pend = none ∧ heads t 4 = [0x0702002000000000])) = true) ∧
    (let s := withPart (fun p => { p with step := -4096, ctr := 5000 }) (running9 (tabled (task [])))
     let s : State := { s with fab := s.fab.modRun 9 fun r => { r with dl := 5010, copies := [{ start := 4100 }] } }
     (s.fab.part 0).pend = none ∧ after (exec (.modeChangePoint 0) s) (fun t => (t.fab.part 0).ctr == 904 && (t.fab.run 9).dl == 914 && ((t.fab.run 9).copy 0).start == 4 && (t.fab.part 0).step == 0) = true) := by
  decide +kernel

/-- Instance 7 of the entry. -/
def instance7 (x : Inst) (s : State) : State := { s with fab := { s.fab with insts := [(7, x)] } }
/-- It is due. -/
def due7 : Inst := { start := 1000, dl := 1100, tag := 5, n := 2 }

theorem test_instances :
    (let s := instance7 due7 (tabled (task []))
     mget 7 s.fab.insts = some due7 ∧ (match s.fab.eligible due7 with | .ok c => c == 0 | _ => false) = true ∧ s.fab.behind 7 due7 = false ∧ s.fab.allFresh due7 = true ∧
       after (exec (.runStart 0 7) s) (fun t => decide (t.fab.insts = [] ∧ (t.fab.slot 0 0).st = .running ∧ (t.fab.slot 0 0).run = some (7, 0)) &&
         (t.fab.run 7).n == 2 && (t.fab.run 7).dl == 1100 && (t.fab.run 7).tag == 5) = true) ∧
    after (exec (.runStart 0 7) (instance7 { due7 with start := 1001 } (tabled (task [])))) (fun t => decide (t.fab.insts ≠ [])) = true ∧
    (let s := running9 (instance7 due7 (tabled (task [])))
     (match s.fab.eligible due7 with | .busy => true | _ => false) = true ∧ after (exec (.runStart 0 7) s) (fun t => decide (t.fab.insts ≠ [])) = true) ∧
    (let x := { due7 with fb := some (1, 0, 0) }
     let s := instance7 x (tabled (task []))
     let s : State := { s with fab := s.fab.modElem 0 fun y => { y with failed := true } }
     (match s.fab.eligible x with | .failed => true | _ => false) = true ∧ (s.fab.table 0 0).isSome = true ∧
       after (exec (.runStart 0 7) s) (fun t => decide (t.fab.insts = [] ∧ t.fab.runs = []) && (t.fab.part 0).records == 1 && (t.fab.ent 0 0 0).last == 2) = true) := by
  decide +kernel

/-- A count of n at virtual address 0x1000, with a tag. -/
def counted (n tag : Nat) : State :=
  let s := instance7 { due7 with cnt := .take 0x1000 } (mapped (tabled State.reset))
  { s with fab := (s.fab.store 0x1000 (leBytes 4 n)).setTag 0x1000 tag }

-- The entry allows two frames.
theorem test_counts :
    ((counted 9 0).fab.translate (some 0) ((counted 9 0).fab.part 0).safety .sync 0x1000).1.toOption = some 0x1000 ∧ (counted 9 0).fab.migs = [] ∧
    after (exec (.countTake 0 7) (counted 9 0)) (fun t => t.fab.tag 0x1000 == 1 && t.fab.insts.any fun x => decide (x.2.n = 2 ∧ x.2.cnt = .known true)) = true ∧
    after (exec (.countTake 0 7) (counted 1 0)) (fun t => t.fab.insts.any fun x => decide (x.2.n = 1 ∧ x.2.cnt = .known false)) = true ∧
    after (exec (.countTake 0 7) (counted 9 1)) (fun t => t.fab.insts.any fun x => decide (x.2.cnt = .parked 0x1000)) = true := by
  decide +kernel

/-- Run 9 changed. -/
def withRun (g : Run → Run) (s : State) : State := { s with fab := s.fab.modRun 9 g }

theorem test_deadlines :
    (let s := withRun (fun r => { r with dl := 1000 }) (running9 (tabled (task [])))
     mget 9 s.fab.insts = none ∧ (mget 9 s.fab.runs).any (fun r => decide (r.torn = .no ∧ r.want = .no ∧ r.regen = none ∧ r.vote ≤ 1 ∧ s.fab.fallbackOf r.part r.mode r.entry = none)) = true ∧ s.fab.retired 9 = false ∧
       after (exec (.deadline 9) s) (fun t => decide ((t.fab.run 9).torn = .deadline ∧ (t.fab.run 9).verdict = 2 ∧ (t.fab.run 9).flagsA = 1 ∧ ((t.fab.run 9).copy 0).passed = true)) = true ∧
       after (exec (.deadline 9) (withRun (fun r => { r with dl := 1001 }) s)) (fun t => decide ((t.fab.run 9).torn = .no)) = true ∧
       after (exec (.deadline 9) (withRun (fun r => { r with want := .purge, verdict := 1 }) s)) (fun t => decide ((t.fab.run 9).torn = .purge ∧ (t.fab.run 9).verdict = 3 ∧ (t.fab.run 9).flagsA = 128)) = true ∧
       after (exec (.deadline 9) (withRun (fun r => { r with torn := .teard }) s)) (fun t => decide ((t.fab.run 9).torn = .teard)) = true) ∧
    (let s := withRun (fun r => { r with dl := 1000 }) (running9 (tabled (task [])))
     let s : State := { s with fab := { s.fab.modEnt 0 0 0 fun x => { x with fb := some (1, 0, 0) } with seq := 50 } }
     s.fab.fallbackOf 0 0 0 = some (1, 0, 0) ∧ (s.fab.entry 0 0 0).isSome = true ∧
       after (exec (.deadline 9) s) (fun t => (t.fab.run 9).fbStarted && t.fab.insts.any fun x => decide (x.1 = 50 ∧ x.2.fb = some (1, 0, 0) ∧ x.2.start = 1000 ∧ x.2.dl = 1100)) = true) := by
  decide +kernel

-- The run's only element is RESIDENT again: the record is written at virtual address 0, which is the system page at 0x100000.
theorem test_record :
    (let s := paged (withRun (fun r => { r with verdict := 1 }) (running9 (tabled (task []))))
     let s : State := { s with fab := (s.fab.modRun 9 fun x => x.modCopy 0 fun k => { k with passed := true, done := true }).modSlot 0 0 fun x => { x with st := .resident, run := none } }
     s.fab.recordReady 9 = true ∧ (s.fab.table 0 0).isSome = true ∧ (∀ y ∈ (s.fab.run 9).copies, y.rec_ = none ∧ y.replay = none) ∧
       after (exec (.completionRecordWrite 9) s) (fun t => decide (t.fab.runs = [] ∧ heads t 4 = [0x0701000000000005]) && (t.fab.part 0).records == 1 &&
         (t.fab.ent 0 0 0).last == 1 && (s.fab.recordBytes (s.fab.run 9)).length == 64) = true) ∧
    (let s := running9 (tabled (task []))
     s.fab.recordReady 9 = false ∧ after (exec (.completionRecordWrite 9) s) (fun t => decide (t.fab.runs ≠ [])) = true) := by
  decide +kernel

/-- A vote of three copies of one element, its block at virtual address 0x1000, with these signatures. -/
def voting (n : Nat) (a b c : W32) : State :=
  let s := mapped (running9 (tabled State.reset))
  withRun (fun r => { r with vote := n, voteBlock := some (block [0x1000]), copies := [{}, { ox := 1 }, { ox := 2 }]
                             sigs := [(0, (a, 1, false)), (4096, (b, 1, false)), (8192, (c, 1, false))] }) s
/-- What the vote writes. -/
def ballot (t : State) : Nat := t.fab.load 0x1000 8 % 2 ^ 16

theorem test_votes :
    ((voting 1 7 7 0).fab.run 9).differ 0 1 = [] ∧ ((voting 1 7 8 7).fab.run 9).differ 0 1 = [0] ∧ (voting 1 7 7 0).fab.migs = [] ∧
    ((voting 1 7 7 0).fab.translate (some 0) ((voting 1 7 7 0).fab.part 0).safety .write 0x1000).1.toOption = some 0x1000 ∧
    after (exec (.voteCompare 9) (voting 1 7 7 0)) (fun t => (t.fab.run 9).vote == 4 && ((t.fab.run 9).copy 2).passed && (t.fab.run 9).verdict == 0 && ballot t == 0) = true ∧
    after (exec (.voteCompare 9) (voting 1 7 8 7)) (fun t => (t.fab.run 9).vote == 2 && t.fab.evq.any fun e => e.tick == 4) = true ∧
    after (exec (.voteCompare 9) (voting 3 7 8 7)) (fun t => (t.fab.run 9).vote == 4 && (t.fab.run 9).verdict == 1 && ballot t == 4) = true ∧
    after (exec (.voteCompare 9) (voting 3 7 8 9)) (fun t => (t.fab.run 9).verdict == 2 && ballot t == 15 && t.fab.host.fault) = true ∧
    after (exec (.voteCompare 9) (voting 0 7 8 9)) (fun t => (t.fab.run 9).vote == 0) = true ∧
    (let s := voting 2 7 8 9
     after (exec (.voteCopyStart 9) (withPart (fun p => { p with ctr := 6 }) s)) (fun t => ((t.fab.run 9).copy 2).start == 6) = true) := by
  decide +kernel

/-- An operation of the field is under way. -/
def operating (o : SeqOp) (s : State) : State := { s with fab := { s.fab with ops := [(4, o)] } }

theorem test_field_operations :
    (let s := operating (.load 0 0 0 0 0 [(0, 0)] (some 9)) (tabled (task []))
     let s : State := { s with fab := { s.fab with clock := 40 }.modSlot 0 0 fun x => { x with st := .loading, esr := 7 } }
     (s.fab.slot 0 0).st = .loading ∧ (s.fab.chan 9).q.length < chanDepth 9 ∧
       after (exec (.ctxldDone 4) s) (fun t => decide ((t.fab.slot 0 0).st = .resident ∧ t.fab.ops = [] ∧ heads t 9 = [0x0703000000000005]) && (t.fab.slot 0 0).esr == 0) = true ∧
       after (exec (.ctxldDone 4) { s with fab := { s.fab with clock := 39 } }) (fun t => decide ((t.fab.slot 0 0).st = .loading)) = true) ∧
    (let s := operating (.partm 2 (some 9) none) (task [])
     let s : State := { s with fab := { s.fab.store 0x1000 [7] with dies := [(5, 2)] } }
     after (exec (.partmDone 4) s) (fun t => t.fab.pmode == 2 && memGet t.fab.mem 0x1000 == 0 && (t.fab.part 1).lo == 48 * 2 ^ 30 && (t.fab.part 1).hi == 95 * 2 ^ 30 &&
       decide (t.fab.dies = [] ∧ heads t 9 = [0x0705000000000000])) = true) ∧
    (let s := operating (.doff 5 false none none 0 0) (task [])
     s.fab.runsOnDie 5 = [] ∧ s.fab.homedOn 5 = [] ∧ after (exec (.doffDone 4) s) (fun t => decide (mget 5 t.fab.dies = some 2 ∧ t.fab.ops = [])) = true) ∧
    (let s := operating (.doff 0 false none none 0 0) (running9 (tabled (task [])))
     s.fab.runsOnDie 0 ≠ [] ∧ after (exec (.doffDone 4) s) (fun t => decide (t.fab.dies = [] ∧ t.fab.evq.map (·.tick) = [1])) = true) ∧
    (let s := operating (.spare 0 none false) (one 5 0)
     after (exec (.spareDone 4) s) (fun t => decide (t.fab.elem 0 = {} ∧ t.fab.ops = [])) = true) ∧
    (let s := operating (.spare 0 none true) (node { st := .feeding, opc := 0xA0 } [] (one 5 0))
     after (exec (.spareDone 4) s) (fun t => decide (t.fab.ops.length = 1 ∧ t.fab.evq.map (·.tick) = [1])) = true) ∧
    (let s := operating (.spare 0 none true) (node { st := .stopped, cause := 6, opc := 0xA0 } [] (one 5 0))
     after (exec (.spareDone 4) s) (fun t => decide (t.fab.ops = [] ∧ (prg t).st = .feeding ∧ (prg t).cause = 0)) = true) := by
  decide +kernel

/-- A cut 9 of region 0 at row 2, with w5 of element 0 saved as 77. -/
def cut9 (g : Copy → Copy) : State :=
  let s := one 0 0 fun x => { x with snap := [{}, { body := { regs := x.regs.set 5 ⟨77, false⟩ } }] }
  withCopy (fun k => g { k with cutDone := some (9, 2), g := 8, evRow := 7 }) s

theorem test_rollbacks :
    (let s := cut9 id
     s.fab.runs.length = 1 ∧ (copy0 s).cutDone = some (9, 2) ∧ (copy0 s).rolled ≠ some 9 ∧ (s.fab.run 0).torn = .no ∧
       after (exec (.rollback 0 0) s) (fun t => decide ((copy0 t).rolled = some 9 ∧ (copy0 t).replayTo = some 7 ∧ 65 ≤ (copy0 t).rollAt.getD 0) && (t.fab.run 0).rollbacks == 1) = true) ∧
    (let s := cut9 fun k => { k with rollAt := some 0 }
     (∀ e ∈ (copy0 s).elems, s.fab.rollWaits 0 (s.fab.run 0) e = false) ∧
       after (exec (.rollback 0 0) s) (fun t => decide ((copy0 t).g = 3 ∧ (copy0 t).rollAt = none ∧ (copy0 t).cutNext = 10) && ((t.fab.slot 0 0).regs.get 5).v == 77) = true) ∧
    after (exec (.rollback 0 0) (cut9 fun k => { k with rollAt := some 1 })) (fun t => decide ((copy0 t).rollAt = some 1)) = true ∧
    after (exec (.rollback 0 0) (one 0 0)) (fun t => (t.fab.run 0).verdict == 2) = true := by
  decide +kernel

theorem test_reload_and_machine_check :
    after (exec (.configReload 0 0) (one 0 0)) (fun t => decide ((t.fab.slot 0 0).reload = some 40 ∧ 40 ≤ (copy0 t).frozen)) = true ∧
    (let s := one 0 0 fun x => { x with reload := some 5 }
     after (exec (.configReload 0 0) s) (fun t => decide ((t.fab.slot 0 0).reload = some 5)) = true ∧
       after (exec (.configReload 0 0) { s with fab := { s.fab with clock := 5 } }) (fun t => decide ((t.fab.slot 0 0).reload = none) && (t.fab.run 0).verdict == 1) = true) ∧
    ((one 0 0).fab.spares = [] ∧ (one 0 0).fab.insts = [] ∧
      after (exec (.machineCheck 0) (one 0 0)) (fun t => decide ((t.fab.elem 0).failed = true ∧ (t.fab.part 0).toSpare = [(0, false)] ∧ (t.fab.run 0).torn = .purge ∧
        (heads t 3).head? = some 0x0804000000000000)) = true) := by
  decide +kernel

theorem test_keepers :
    (let s : State := { fab := { keepers := [(16, { k := 10, col := 19 }), (17, {})] } }
     after (exec (.keeperAdvance 1 0) s) (fun t => decide (mget 16 t.fab.keepers = some { k := 10, col := 0 } ∧ mget 17 t.fab.keepers = some {})) = true ∧
       after (exec (.keeperAdvance 1 1) s) (fun t => decide (mget 17 t.fab.keepers = some {})) = true) ∧
    (let s := one 0 0
     let s : State := { s with fab := { s.fab with keepq := [(4, { row := (⟨1, false⟩, 0) }), (5, {})] } }
     after (exec (.keeperCompare 4) s) (fun t => (t.fab.run 0).verdict == 2 && decide ((t.fab.elem 0).suspectAt = some 0)) = true ∧
       after (exec (.keeperCompare 5) s) (fun t => (t.fab.run 0).verdict == 0 && decide (mget 5 t.fab.keepq = none)) = true) := by
  decide +kernel

/-! ## Package, host writes, partner (R128, R129, R133, R211, R228, R336, R372-R381) -/

theorem test_power_up :
    (State.reset.fab.host.partState = 0) ∧
    after (exec (.powerUp true [.good, .replaced 1919, .good, .good, .failed, .good]) State.reset)
      (fun t => t.fab.host.partState == 1 && decide (t.fab.sysRoot = some (95 * 2 ^ 30) ∧ mget 1 t.fab.spares = some 1919 ∧ mget 0 t.fab.spares = none)) = true ∧
    after (exec (.powerUp false []) State.reset) (fun t => t.fab.host.partState == 2 && decide (t.fab.sysRoot = none)) = true ∧
    after (exec (.powerUp false []) (ready State.reset)) (fun t => t.fab.host.partState == 1) = true := by
  decide +kernel

theorem test_levels :
    (let s : State := { fab := { State.reset.fab with blocks := State.reset.fab.blocks.set 0 { lvl := 2, floor := 5 } } }
     after (exec (.throttleLevelApply 0) s) (fun t => (t.fab.block 0).eff == 5) = true) ∧
    (let s := tabled State.reset
     let safe : Table := { (s.fab.table 0 0).getD {} with safe := 1 }
     let s : State := { s with fab := { s.fab with blocks := s.fab.blocks.set 0 { lvl := 7 }, tables := [(tableKey 0 0, safe), (tableKey 0 1, {})] } }
     (s.fab.table 0 1).isSome = true ∧ partOf s.fab.pmode 0 = 0 ∧ (s.fab.part 0).active = some 0 ∧
       after (exec (.throttleLevelApply 0) s) (fun t => (t.fab.block 0).eff == 7 && decide ((t.fab.part 0).pend = some 1)) = true ∧
       after (exec (.throttleLevelApply 0) { s with fab := { s.fab with tables := [(tableKey 0 0, { safe with safe := 255 })] } }) (fun t => decide ((t.fab.part 0).pend = none)) = true) := by
  decide +kernel

theorem test_ingress_registers :
    after (exec (.ingcfgWrite 0x81000 0x1000000001234) State.reset) (fun t => (t.fab.ing 0).base == 0x1234) = true ∧
    after (exec (.ingcfgWrite 0x81268 0x100020003) (feature 10 State.reset)) (fun t => (t.fab.ing 19).nslot == 3 && (t.fab.ing 19).ssize == 2 && (t.fab.ing 19).en && !(t.fab.ing 0).en) = true ∧
    after (exec (.ingcfgWrite 0x81268 0x100020003) State.reset) (fun t => (t.fab.ing 19).nslot == 3 && !(t.fab.ing 19).en) = true ∧
    (let s : State := { fab := { State.reset.fab with ingress := State.reset.fab.ingress.set 0 { en := true } } }
     (s.fab.ing 0).en = true ∧ after (exec (.ingcfgWrite 0x81000 0x1234) s) (fun t => (t.fab.ing 0).base == 0) = true) := by
  decide +kernel

theorem test_safety_events :
    (let s : State := { fab := { State.reset.fab with host := { State.reset.fab.host with safeev := 0x8000000000000005, fault := true } } }
     after (exec (.safeevWrite 0x8000000000000000) s) (fun t => t.fab.host.safeev == 5 && t.fab.host.fault) = true ∧
       after (exec (.safeevWrite 5) s) (fun t => t.fab.host.safeev == 0x8000000000000005) = true) ∧
    (let s := feature 9 State.reset
     s.fab.opBusy = false ∧ s.fab.runsOnDie 5 = [] ∧
       after (exec (.dieLinkRetrainFailure 5) s) (fun t => decide (mget 5 t.fab.dies = some 1 ∧ t.fab.evq.map (·.tick) = [1])) = true) ∧
    after (exec (.dieLinkRetrainFailure 6) State.reset) (fun t => t.fab.host.fault && t.fab.host.safeev == 0x8000000001FF0000 && decide (t.fab.host.msix = [1])) = true := by
  decide +kernel

theorem test_outside_writes :
    (let s := paged (task [])
     s.fab.migs = [] ∧ reaches s .write 8 0x100008 = true ∧
       after (exec (.hostWrite 8 [77]) s) (fun t => memGet t.fab.mem 0x100008 == 77 && memGet t.fab.mem 0x100009 == 0) = true ∧
       after (exec (.hostWrite 8 [77]) (task [])) (fun t => decide (t.fab.mem = [])) = true) ∧
    (let s := paged (task [])
     let s : State := { s with fab := { s.fab with beryl := { xva := 8, xlen := 8, nslot := 2, ssize := 128 } } }
     after (exec (.mirrorWriteReceive (.xfer 3 8 0x0102030405060708 true true)) s) (fun t => page64 t == 0x0102030405060708 && t.fab.full 0x100008 && t.fab.poisoned 0x100008) = true ∧
       after (exec (.mirrorWriteReceive (.xfer 3 16 1 false true)) s) (fun t => page64 t == 0 && memGet t.fab.mem 0x100010 == 0 && decide (t.fab.beryl.cue = [(1, .refusal 3 16)])) = true ∧
       after (exec (.mirrorWriteReceive (.mirrorBegin 2 0)) s) (fun t => decide (t.fab = s.fab)) = true) ∧
    (let b : Job := { live := true, st := .running, opc := 0x96, idx := 3, pb := block [0, 0, 0, 0x2000, 0x1000] }
     let s := job b (one 0 0)
     xfVa b.pb = 0x1000 ∧ xfRemote b.pb = true ∧
       after (exec (.mirrorWriteReceive (.refusal 0 0x1008)) s) (fun t => decide ((job0 t).st = .aborted ∧ (job0 t).cause = 1 ∧ (job0 t).idx = 1)) = true) := by
  decide +kernel

-- The slot at virtual address 0, of two halves of 128 bytes: cut 4 into the first half, at 0x100000.
theorem test_mirror_copies :
    (let s := paged (task [])
     let s : State := { s with fab := { s.fab.store 0x10000C [1] with beryl := { nslot := 1, ssize := 256 } } }
     reaches s .write 12 0x10000C = true ∧
       after (exec (.mirrorWriteReceive (.mirrorBegin 0 4)) s) (fun t => memGet t.fab.mem 0x10000C == 0) = true ∧
       after (exec (.mirrorWriteReceive (.mirrorWord 0 4 1 [5, 6] false)) s) (fun t => memGet t.fab.mem 0x100048 == 5 && memGet t.fab.mem 0x100049 == 6) = true ∧
       after (exec (.mirrorWriteReceive (.mirrorEnd 0 4 1 2 3 64 0x55)) s) (fun t => t.fab.load 0x100000 4 == 4 && t.fab.load 0x100004 4 == 64 &&
         t.fab.load 0x100008 4 == 0x55 && t.fab.load 0x10000C 2 == 0x101 && t.fab.load 0x10000E 2 == 0x203) = true) := by
  decide +kernel

/-- Port 0 with two slots of 64 bytes at virtual address 0. -/
def port0 (en : Bool) : State :=
  let s := paged State.reset
  { s with fab := { s.fab with ingress := s.fab.ingress.set 0 { nslot := 2, ssize := 1, en := en, next := 1 } } }
/-- A frame. -/
def frame1 : Frame := { payload := [1, 2] }

theorem test_sensor_frames :
    (let s := (port0 true)
     let s' : State := { s with fab := s.fab.setFull 0x100040 false }
     reaches s .write 64 0x100040 = true ∧ s.fab.full 0x100040 = true ∧ s'.fab.full 0x100040 = false ∧
       after (exec (.sensorFrame 0 frame1) s) (fun t => (t.fab.ing 0).next == 1 && (t.fab.ing 0).drop == 1) = true ∧
       after (exec (.sensorFrame 0 frame1) s') (fun t => (t.fab.ing 0).next == 0 && (t.fab.ing 0).seq == 1 && (t.fab.ing 0).drop == 0) = true) ∧
    after (exec (.sensorFrame 0 frame1) (port0 false)) (fun t => (t.fab.ing 0).drop == 0 && (t.fab.ing 0).next == 1) = true := by
  decide +kernel

/-- The partner link. -/
def linked (b : Beryl) : State := { fab := { State.reset.fab with beryl := b } }

theorem test_heartbeats :
    after (exec .heartbeatSend (linked { hbSend := true, hbSeq := 4 })) (fun t => decide (t.fab.beryl.cue = [(0, .heartbeat 4 0 0)] ∧ t.fab.beryl.hbSeq = 5 ∧ t.fab.beryl.hbNext = 200000)) = true ∧
    after (exec .heartbeatSend (linked {})) (fun t => decide (t.fab.beryl.cue = [])) = true ∧
    after (exec (.heartbeatReceive 4) (linked { hbWatch := true })) (fun t => t.fab.beryl.hbDue == 600000) = true ∧
    after (exec (.heartbeatReceive 4) (linked { hbWatch := true, declared := true })) (fun t => t.fab.host.log.length == 1) = true ∧
    after (exec (.heartbeatReceive 4) (linked {})) (fun t => t.fab.beryl.hbDue == 0) = true ∧
    after (exec .heartbeatTimeout (linked { hbWatch := true })) (fun t => t.fab.beryl.declared && decide (heads t 2 = [0x0F01000000000001])) = true ∧
    after (exec .heartbeatTimeout (linked { hbWatch := true, hbDue := 1 })) (fun t => !t.fab.beryl.declared) = true ∧
    after (exec .pfaultAssert (linked {})) (fun t => t.fab.beryl.declared && decide (heads t 2 = [0x0F01000000000002])) = true ∧
    after (exec .pfaultAssert (linked { declared := true })) (fun t => decide (heads t 2 = [])) = true ∧
    State.reset.alive = true ∧ (State.reset.fab.chan 2).q.length < chanDepth 2 ∧
    (let s := tabled State.reset
     let s : State := { s with fab := { s.fab with beryl := { parts := 1, solo := 1 }, tables := s.fab.tables ++ [(tableKey 0 1, {})] } }
     (s.fab.part 0).active = some 0 ∧ after (exec .pfaultAssert s) (fun t => decide ((t.fab.part 0).pend = some 1)) = true) ∧
    after (exec .berylLinkDown (linked {})) (fun t => !t.fab.beryl.up) = true := by
  decide +kernel

/-! ## Well-formedness, refused words, the step, reset -/

-- An ill-formed term for each check, and a well-formed one.
theorem test_ill_formed :
    Instr.err (.add 0 0 { route := { mode := 3 } }) = some .tMode ∧ Instr.err (.add 0 0 { route := { reg := true } }) = some .weDiff ∧
    Instr.err (.fadd 7 0 {}) = some .rMode ∧ Instr.err (.tfree 1 0 0 {}) = some .queue ∧ Instr.err (.tfree 0 1 0 {}) = some .queue ∧
    Instr.err (.tfree 0 1 1 {}) = some .queue ∧ Instr.err (.tcopy 0 1 0 3 {}) = some .queue ∧ Instr.err (.mma 0 0 1 2 {}) = some .queue ∧
    Instr.err (.ldt 0 2 1 0 0 0 {}) = some .resBit ∧ (Instr.add 0 5 { route := { reg := true }, reg := { we := true } }).wellFormed := by
  decide

-- 0x2B is reserved, 0xFE only Pommel's, 0x30 only an element's; ADD with bit 10, NEG with rounding bits, MATRIX sub fields, three bytes.
theorem test_refused_words :
    (match decodeRow 0x2B0000 0 0 with | .error x => decide (x = .opRes) | _ => false) = true ∧
    (match decodeRow 0xFE0000 0 0 with | .error x => decide (x = .taskOnly) | _ => false) = true ∧
    (match decodeTask 0x30000000 with | .error x => decide (x = .elementOnly) | _ => false) = true ∧
    (match decodeRow 0x100400 0 0 with | .error x => decide (x = .resBit) | _ => false) = true ∧
    (match decodeRow 0x108000 0 0 with | .error x => decide (x = .rMode) | _ => false) = true ∧
    (match decodeRow 0x010000 3 0 with | .error x => decide (x = .tMode) | _ => false) = true ∧
    (match decodeRow 0x010000 0 1 with | .error x => decide (x = .weDiff) | _ => false) = true ∧
    (match decodeRowBytes [0, 0, 0] with | .error x => decide (x = .truncated) | _ => false) = true ∧
    (match decodeTaskBytes [0] with | .error x => decide (x = .truncated) | _ => false) = true ∧
    (match decodeTask 0xEC080000 with | .ok _ => false | _ => true) = true ∧ (match decodeTask 0xF0000001 with | .ok _ => false | _ => true) = true := by
  decide +kernel

-- ADDI of 5 in the rings of element 0; the arm of a 64-bit word; ADD at Pommel's pc; the words that do not decode.
theorem test_step_rows :
    (let s := State.reset.withFetchWord 24 0x010005
     s.agenda = [.row 0 0] ∧ (match decodeRow (s.fab.ringWords 0 0).1 (s.fab.ringWords 0 0).2.1 (s.fab.ringWords 0 0).2.2 with | .ok i => decide (i = .add 0 5 {}) | _ => false) = true ∧
       after (step s) (fun t => decide (t.agenda = [] ∧ t.fab.cur = (0, 0))) = true) ∧
    (let s : State := { one 5 7 with agenda := [.arm 0 0 0x0001000010080027 false] }
     (match decodeRow 0x010000 0x1008 0x0027 with | .ok _ => true | _ => false) = true ∧ after (step s) (fun t => decide (t.agenda = [])) = true) := by
  decide +kernel

theorem test_step_pommel :
    (let s : State := { taskSram [(1, 5), (2, 6)] [(0x100, 0x01184400)] with agenda := [.pommel] }
     let s : State := { s with fab := { s.fab with clock := 4 } }
     s.fab.pom.next < 3 * (s.fab.clock + 1) ∧ s.fab.pom.next - s.fab.pom.start < 24000 ∧ s.fab.pom.pc.toNat % 4 = 0 ∧ inUser s.fab.pom.pc 4 = true ∧
       s.fab.uncorr (sramBase + s.fab.pom.pc.toNat) = false ∧
       (match decodeTaskBytes (s.fab.bytes (sramBase + s.fab.pom.pc.toNat) 4) with | .ok i => decide (i = .addTask 3 1 2) | _ => false) = true ∧
       s.fab.issueAt (BitVec.ofNat 32 (s.fab.sram s.fab.pom.pc.toNat 4)) ≤ s.fab.pom.next ∧
       after (step s) (fun t => kr t 3 == 11 && decide (t.agenda = [.pommel])) = true) ∧
    (let s : State := { taskSram [] [(0x100, 0x2B000000)] with agenda := [.pommel] }
     let s : State := { s with fab := { s.fab with clock := 4 } }
     after (step s) (fun t => decide (heads t 0 = [0x0101090000000100])) = true) ∧
    (let s : State := { task [] with agenda := [.pommel] }
     let s : State := { s with fab := { s.fab with clock := 4, pom := { s.fab.pom with pc := 0x38000 } } }
     inUser s.fab.pom.pc 4 = false ∧ after (step s) (fun t => decide (heads t 0 = [0x0105090000038000])) = true) := by
  decide +kernel

theorem test_step_others :
    (let s : State := { tabled (task [(1, 9)]) with agenda := [.seq 0xE8184400 0 0 34] }
     (match decodeTask 0xE8184400 with | .ok _ => true | _ => false) = true ∧ after (step s) (fun t => decide (t.agenda = [])) = true) ∧
    (let s : State := { State.reset with agenda := [.io 0x420 5] }
     after (step s) (fun t => (t.fab.block 0).tripcfg == 5) = true) ∧
    (let s := ready (task [])
     let s : State := { fab := { s.fab with host := { s.fab.host with cmds := [(99, cmd [], false)] } }, agenda := [.command] }
     s.fab.pom.halted = false ∧ s.fab.commandOpen = false ∧ after (step s) (fun t => resp t == [6, 0, 0, 0] && decide (t.fab.host.cmds = [])) = true) ∧
    (let s : State := { State.reset with agenda := [.sample 3] }
     after (step s) (fun t => decide (t.agenda = []) && (t.fab.block 3).temp.length == (sensorCounts 3).1) = true) ∧
    (let s : State := { State.reset with agenda := [.instr .berylLinkDown] }
     after (step s) (fun t => !t.fab.beryl.up) = true) ∧
    (let x : Ev := ⟨0, 2, .instr .berylLinkDown⟩
     let s : State := { fab := { State.reset.fab with evq := [x, ⟨1, 0, .plan⟩] } }
     s.agenda = [] ∧ s.fab.evq = [] ++ x :: [⟨1, 0, .plan⟩] ∧ x.tick ≤ s.fab.clock ∧ after (step s) (fun t => !t.fab.beryl.up && t.fab.evq.length == 1) = true) ∧
    (let s : State := { State.reset with agenda := [] }
     (∀ y ∈ s.fab.evq, s.fab.clock < y.tick) ∧ after (step s) (fun t => t.fab.clock == 1) = true) ∧
    after (step State.reset) (fun t => t.fab.host.partState == 1) = true := by
  decide +kernel

/-! ## Invariants and round trips -/

-- A state with rows of two elements and other work meets the order; two rows of one element do not. Memory with a rising list, and not.
theorem test_invariants :
    Spec.ordered [.row 3 0, .arm 7 1 0 false, .pommel] ∧ ¬ ([.row 3 0, .row 3 1].filterMap Spec.elemOf).Pairwise (· < ·) ∧
    ({ State.reset with fab := { State.reset.fab with mem := [(4, 1), (9, 2)] } } : State).memWf = true ∧
    ({ State.reset with fab := { State.reset.fab with mem := [(9, 1), (4, 2)] } } : State).memWf = false := by
  refine ⟨⟨[.row 3 0, .arm 7 1 0 false], [.pommel], rfl, ?_⟩, by decide +kernel⟩
  decide +kernel

-- A well-formed row and a word of Pommel with their words.
theorem test_round_trips :
    (Instr.add 0 5 { route := { reg := true }, reg := { we := true } }).wellFormed ∧ encode (.add 0 5 { route := { reg := true }, reg := { we := true } }) ≠ .none ∧
    (Instr.addTask 3 1 2).wellFormed ∧ encode (.addTask 3 1 2) = .task 0x01184400#32 ∧
    (0x2B ∈ Spec.reservedCodes) ∧ Spec.taskOnlyCode 0xFE = true ∧ Spec.elementOnlyCode 0x30 = true := by
  decide +kernel

end Sys2Proof.Tests
end

section
/-! PROOFS. Rows that compute a value with flags (R71, R86), and the conversions FCVT, FTOI, ITOF and FRND (spec 03_numbers R73,
04_arithmetic R99). -/

namespace Sys2Proof.Machine

/-! ### A computing row delivers what its computation gives -/

/-- A computing row that executes on operands without poison delivers the value, the flags and the draw of its computation. -/
theorem computes_of_aluRow {i : Instr} {s : State} {n : BitVec 8} {u : Uses} {dflt : Ty} {sem : AluIn → AluOut}
    (he : exec i s = aluRow (opWord i) (wiresOf i) u dflt sem s) (hn : Laws.Opcode.row i = some n)
    (hf : formOf n.toNat ≠ .om ∧ formOf n.toNat ≠ .ox) (hx : s.executes i) (hp : Spec.unpoisoned u (s.row i)) {v : W32} {fl : Flags}
    {draws : Bool} (ho : sem ((s.row i).aluIn dflt) = ⟨v, fl, draws⟩) : Spec.computes i s ((s.row i).resTy dflt) v fl draws := by
  have hops : ((s.row i).aluIn dflt).operands u = Spec.operands u (s.row i) := by cases u <;> rfl
  have hd := aluRow_delivers hn hf hx u dflt sem (by rw [hops]; exact hp)
  rw [ho, ← he] at hd
  exact hd

/-! ### Integer ranges -/

/-- The range of an integer type is not empty (R61). -/
theorem rangeOf_le {t : Ty} {lo hi : Int} (h : rangeOf t = some (lo, hi)) : lo ≤ hi := by
  cases t <;> simp only [rangeOf, Option.some.injEq, Prod.mk.injEq, reduceCtorEq] at h <;> omega

theorem clampInt_eq_held {lo hi : Int} (h : lo ≤ hi) (v : Int) : clampInt lo hi v = Spec.held lo hi v := by
  unfold clampInt Spec.held
  split
  · omega
  · split <;> omega

/-- A value within a range is held as it is. -/
theorem held_of_mem {lo hi v : Int} (hlo : lo ≤ v) (hhi : v ≤ hi) : Spec.held lo hi v = v := by
  unfold Spec.held; omega

theorem Num.isNan_iff {x : Num} : x.isNan = true ↔ ∃ sig, x = .nan sig := by
  cases x <;> simp [Num.isNan]

/-! ### The four kinds of conversion (R73) -/

section
variable {src dst : Ty} {f g : Fmt} {lo hi : Int} (m : RM) (sat : Bool) (draw : Nat) (w : W32)

theorem convTo_floatToInt (hs : fmtOf src = some f) (hr : rangeOf dst = some (lo, hi)) :
    convTo src dst m sat draw w =
      ⟨(floatToInt dst m sat draw (f.read w)).1, (floatToInt dst m sat draw (f.read w)).2, true⟩ := by
  simp only [convTo, hs, hr]

theorem convTo_floatToFloat (hs : fmtOf src = some f) (hr : rangeOf dst = none) (hd : fmtOf dst = some g) :
    convTo src dst m sat draw w =
      let x := g.round m sat draw (f.read w)
      ⟨g.pack x.1, { x.2 with nv := x.2.nv || (f.read w).isSig }, true⟩ := by
  simp only [convTo, hs, hr, hd, Option.getD_some]

theorem convTo_intToFloat (hs : fmtOf src = none) (hr : rangeOf dst = none) (hd : fmtOf dst = some g) :
    convTo src dst m sat draw w =
      let x := g.round m sat draw (Num.ofInt (intValue src w))
      ⟨g.pack x.1, { x.2 with nv := x.2.nv }, true⟩ := by
  simp only [convTo, hs, hr, hd, Option.getD_some, Bool.or_false]

theorem convTo_intToInt (hs : fmtOf src = none) (hr : rangeOf dst = some (lo, hi)) :
    convTo src dst m sat draw w = ⟨(intToInt dst sat (intValue src w)).1, (intToInt dst sat (intValue src w)).2, false⟩ := by
  simp only [convTo, hs, hr]

end

/-! ### A float into an integer range (R73) -/

section
variable {t : Ty} {lo hi : Int} (h : rangeOf t = some (lo, hi)) (m : RM) (sat : Bool) (draw : Nat)
include h

theorem floatToInt_nan (sig : Bool) :
    floatToInt t m sat draw (.nan sig) = (intContainer t (if sat then 0 else if isSigned t then lo else hi), { nv := true }) := by
  simp only [floatToInt, h, Option.getD_some]

theorem floatToInt_inf (neg : Bool) :
    floatToInt t m sat draw (.inf neg) =
      (intContainer t (if sat then (if neg then lo else hi) else if isSigned t then lo else hi), { nv := true }) := by
  simp only [floatToInt, h, Option.getD_some]

/-- A finite value that rounds into the range: its rounded value, inexact where the rounding is. -/
theorem floatToInt_fin_of_mem {neg : Bool} {n d : Nat} (hlo : lo ≤ (roundInt m draw neg n d).1) (hhi : (roundInt m draw neg n d).1 ≤ hi) :
    floatToInt t m sat draw (.fin neg n d) =
      (intContainer t (roundInt m draw neg n d).1, { nx := !(roundInt m draw neg n d).2 }) := by
  simp only [floatToInt, h, Option.getD_some, hlo, hhi, and_self, if_true]

/-- A finite value that rounds out of the range: invalid; the value held to the range under sat, the fixed value else. -/
theorem floatToInt_fin_of_not_mem {neg : Bool} {n d : Nat}
    (hv : (roundInt m draw neg n d).1 < lo ∨ hi < (roundInt m draw neg n d).1) :
    floatToInt t m sat draw (.fin neg n d) =
      (intContainer t (if sat then Spec.held lo hi (roundInt m draw neg n d).1 else if isSigned t then lo else hi), { nv := true }) := by
  have hout : ¬ (lo ≤ (roundInt m draw neg n d).1 ∧ (roundInt m draw neg n d).1 ≤ hi) := by omega
  simp only [floatToInt, h, Option.getD_some, hout, if_false, clampInt_eq_held (rangeOf_le h)]

/-- Without sat an integer keeps its low bits and raises no flag. -/
theorem intToInt_wraps (v : Int) : intToInt t false v = (intContainer t v, {}) := by
  simp only [intToInt, h, Option.getD_some, Bool.false_eq_true, if_false]

/-- Under sat an integer is held to the range, with overflow and inexact where that changes it. -/
theorem intToInt_saturates (v : Int) :
    intToInt t true v =
      (intContainer t (Spec.held lo hi v), { of := decide (v < lo ∨ hi < v), nx := decide (v < lo ∨ hi < v) }) := by
  by_cases hv : lo ≤ v ∧ v ≤ hi
  · have hin : ¬ (v < lo ∨ hi < v) := by omega
    simp only [intToInt, h, Option.getD_some, if_true, hv, and_self, hin, decide_false, held_of_mem hv.1 hv.2]
  · have hout : v < lo ∨ hi < v := by omega
    simp only [intToInt, h, Option.getD_some, if_true, hv, if_false, hout, decide_true, clampInt_eq_held (rangeOf_le h)]

end

/-! ### The conversion rows (R99) -/

/-- FCVT, FTOI and ITOF are computing rows of form OA that convert A into the result type. -/
theorem exec_of_convertsInto {i : Instr} {dflt : Ty} (h : Spec.convertsInto i = some dflt) (s : State) :
    exec i s = aluRow (opWord i) (wiresOf i) .a dflt convert s ∧
      ∃ n, Laws.Opcode.row i = some n ∧ formOf n.toNat ≠ .om ∧ formOf n.toNat ≠ .ox := by
  unfold Spec.convertsInto at h
  split at h <;> cases h
  · exact ⟨rfl, 0x3E, rfl, by decide⟩
  · exact ⟨rfl, 0x42, rfl, by decide⟩
  · exact ⟨rfl, 0x41, rfl, by decide⟩

/-- A conversion row delivers what the conversion of A's container gives. -/
theorem computes_of_convTo {i : Instr} {s : State} {dflt : Ty} (h : Spec.convertsInto i = some dflt) (hx : s.executes i)
    (hp : Spec.unpoisoned .a (s.row i)) {v : W32} {fl : Flags} {draws : Bool}
    (ho : convTo (s.row i).a.ty ((s.row i).resTy dflt) (rmOf (s.row i).rm (s.row i).sl.emr) (s.row i).sat
      (lfsrOf (s.row i).sl.emr).toNat (s.row i).a.v = ⟨v, fl, draws⟩) :
    Spec.computes i s ((s.row i).resTy dflt) v fl draws := by
  obtain ⟨he, n, hn, hf⟩ := exec_of_convertsInto h s
  exact computes_of_aluRow he hn hf hx hp ho

/-- What FRND gives: A rounded to an integral value in the row's mode, then converted to the result type in rne; inexact where either
step is. -/
theorem computes_frnd {rm : BitVec 3} {tm : BitVec 1} {wr : Wires} {s : State} (hx : s.executes (.frnd rm tm wr))
    (hp : Spec.unpoisoned .a (s.row (.frnd rm tm wr))) :
    let r := s.row (.frnd rm tm wr)
    let f := (fmtOf (r.resTy .fp32)).getD .fp32
    let w := roundIntegral (rmOf r.rm r.sl.emr) (lfsrOf r.sl.emr).toNat r.a.num
    let x := f.round .rne false 0 w.1
    Spec.computes (.frnd rm tm wr) s (r.resTy .fp32) (f.pack x.1)
      { x.2 with nv := x.2.nv || r.a.num.isSig, nx := x.2.nx || !w.2 } true :=
  computes_of_aluRow (n := 0x40) rfl rfl (by decide) hx hp rfl

/-- Settles O7: each kind of conversion of R73 is one equation of the computation, and the row delivers it. -/
theorem conversionRowsConvert : Obligations.ConversionRowsConvert := by
  unfold Obligations.ConversionRowsConvert
  intro i s hx hp
  refine ⟨fun dflt h => ?_, ?frnd⟩
  · refine ⟨?nan, ?inf, ?fin, ?floats, ?intToFloat, ?ints⟩
    case nan =>
      intro f hs lo hi hr _ hnan
      obtain ⟨sig, hsig⟩ := Num.isNan_iff.1 hnan
      exact computes_of_convTo h hx hp (by rw [convTo_floatToInt _ _ _ _ hs hr, hsig, floatToInt_nan hr])
    case inf =>
      intro f hs lo hi neg hr hinf
      exact computes_of_convTo h hx hp (by rw [convTo_floatToInt _ _ _ _ hs hr, hinf, floatToInt_inf hr])
    case fin =>
      intro f hs lo hi neg n d hr hfin
      constructor
      · intro hlo hhi
        exact computes_of_convTo h hx hp
          (by rw [convTo_floatToInt _ _ _ _ hs hr, hfin, floatToInt_fin_of_mem hr _ _ _ hlo hhi]; rfl)
      · intro hv
        exact computes_of_convTo h hx hp
          (by rw [convTo_floatToInt _ _ _ _ hs hr, hfin, floatToInt_fin_of_not_mem hr _ _ _ hv]; rfl)
    case floats =>
      intro f g hs hr hd
      exact computes_of_convTo h hx hp (convTo_floatToFloat _ _ _ _ hs hr hd)
    case intToFloat =>
      intro g hs hr hd
      exact computes_of_convTo h hx hp (convTo_intToFloat _ _ _ _ hs hr hd)
    case ints =>
      intro lo hi hs hr
      constructor
      · intro hsat
        exact computes_of_convTo h hx hp (by rw [convTo_intToInt _ _ _ _ hs hr, hsat, intToInt_wraps hr])
      · intro hsat
        exact computes_of_convTo h hx hp (by rw [convTo_intToInt _ _ _ _ hs hr, hsat, intToInt_saturates hr])
  case frnd =>
    rintro rm tm wr rfl
    have hc := computes_frnd hx hp
    cases ha : (s.row (.frnd rm tm wr)).a.num <;> simpa only [roundIntegral, ha, Bool.not_true] using hc

end Sys2Proof.Machine
end
